-- ==== Sys2Proof/Word.lean ====
section
/-! DEFINITION. The word types of the ZK8 (R3, R155, R182, R272): bytes, registers, vector registers, lines, signatures. -/
namespace Sys2Proof

/-- A byte of memory or scratchpad. -/
abbrev Byte := BitVec 8
/-- A scalar register, a mask register, a mail word, an address while it is computed. -/
abbrev Word := BitVec 64
/-- A vector register of 512 bits (R182). -/
abbrev Vec := BitVec 512
/-- The 128 bytes of a memory line; byte n is bits [8n+7:8n]. -/
abbrev LineData := BitVec 1024
/-- A write signature (R272). -/
abbrev Sig := BitVec 2048
/-- An accumulator: word 32·i + j (row i, column j) is bits [32w+31:32w] (R252). -/
abbrev AccData := BitVec 32768
/-- A domain tag (R85). -/
abbrev Dom := BitVec 8

end Sys2Proof
end

