-- ==== Sys2Proof/Syntax.lean ====
section
/-! DEFINITION. The abstract syntax: operand forms, and `Instr` with one constructor per row of spec/opcode_table.json:
the instructions of classes 0 to 7 (06, 08, 10, 12, 13, 16, 21) and the hardware, host and link events of the table. -/
namespace Sys2Proof

/-! ### Where things run -/

/-- A compute core by its PCORE number (R13), or a kingpost by 8 × die + tile (R370). -/
inductive UnitRef where
  | core (p : Nat)
  | kp (n : Nat)
  deriving DecidableEq, Repr

/-- A context: of a compute core 0–7; of a kingpost its own 0–3, then guest slot g as 4 + g (R117). -/
structure CtxRef where
  unit : UnitRef
  ctx : Nat
  deriving DecidableEq, Repr

/-! ### Operand forms -/

/-- The bits every base word carries beside its operands: W (R104), and for S = 1 the bits [60:2] of the live-mask word
that follows (R105, R113). -/
structure Hd where
  w : Bool
  live : Option (BitVec 59)
  deriving DecidableEq, Repr

/-- A scalar source with its last-use bit (R103). -/
structure SSrc where
  r : Fin 32
  k : Bool
  deriving DecidableEq, Repr

/-- A vector source with its last-use bit. -/
structure VSrc where
  r : Fin 32
  k : Bool
  deriving DecidableEq, Repr

/-- A mask source with its last-use bit. -/
structure KSrc where
  r : Fin 8
  k : Bool
  deriving DecidableEq, Repr

/-- A class-1 source: scalar or mail (R150). -/
inductive ISrc where
  | s (r : Fin 32) (k : Bool)
  | m (r : Fin 8)
  deriving DecidableEq, Repr

/-- A class-1 destination: scalar or mail (R150). -/
inductive IDst where
  | s (r : Fin 32)
  | m (r : Fin 8)
  deriving DecidableEq, Repr

/-- Operand B of class 1: a register, or 127 with IMM12 (R108). -/
inductive IB where
  | reg (x : ISrc)
  | imm (v : BitVec 12)
  deriving DecidableEq, Repr

/-- A scalar operand B that may be an immediate (R108). -/
inductive SB where
  | reg (x : SSrc)
  | imm (v : BitVec 12)
  deriving DecidableEq, Repr

/-- A vector operand B that may be an immediate (VSHL, VSHR, VSAR). -/
inductive VB where
  | reg (x : VSrc)
  | imm (v : BitVec 12)
  deriving DecidableEq, Repr

/-- A memory address operand: base A, and B as offset register or IMM12 (R225). -/
structure Addr where
  a : SSrc
  b : SB
  deriving DecidableEq, Repr

/-- A source that is a scalar or a mask register (KMOV). -/
inductive SKSrc where
  | s (x : SSrc)
  | k (x : KSrc)
  deriving DecidableEq, Repr

/-- A destination that is a scalar or a mask register (KMOV). -/
inductive SKDst where
  | s (r : Fin 32)
  | k (r : Fin 8)
  deriving DecidableEq, Repr

/-- A destination that is a vector or a mask register (VIOTA). -/
inductive VKDst where
  | v (r : Fin 32)
  | k (r : Fin 8)
  deriving DecidableEq, Repr

/-- Condition codes of BR, BRI and SET (R106). -/
inductive Cond where
  | eq | ne | lt | ge | ltu | geu
  deriving DecidableEq, Repr

/-- The tests of BK (R106, R137). -/
inductive BkTest where
  | any | all | none
  deriving DecidableEq, Repr

/-- Scalar float formats (R106). -/
inductive FFmt where
  | f64 | f32 | f16 | bf16
  deriving DecidableEq, Repr

/-- Rounding modes (R165). -/
inductive Rnd where
  | rne | rtz | rdn | rup
  deriving DecidableEq, Repr

/-- Floating-point comparison codes (R179). -/
inductive FCond where
  | eq | lt | le | un | ne
  deriving DecidableEq, Repr

/-- Widths of FTOI (R181). -/
inductive IWidth where
  | i8 | i16 | i32 | i64
  deriving DecidableEq, Repr

/-- Access sizes (R106). -/
inductive Size where
  | b | h | w | d
  deriving DecidableEq, Repr

/-- Scopes and barrier levels (R107). -/
inductive Scope where
  | core | quad | tile | die | pkg | sys
  deriving DecidableEq, Repr

/-- Orderings of class 3 (R107). -/
inductive Ord where
  | plain | acq | rel | ar
  deriving DecidableEq, Repr

/-- Element types of class 4 (R106). -/
inductive ETy where
  | i8 | i16 | i32 | i64 | f16 | bf16 | f32 | f64 | e4m3 | e5m2 | e2m1
  deriving DecidableEq, Repr

/-- Operand types of the 96-bit MMA (R106, R251). -/
inductive MTy where
  | int8 | f16 | bf16 | f32 | e4m3 | e5m2
  deriving DecidableEq, Repr

/-- Stored types of MSTA (R254). -/
inductive StTy where
  | i32 | bf16 | f32 | e4m3 | bx4
  deriving DecidableEq, Repr

/-- Replication degrees named by REPL (R224). -/
inductive Deg where
  | d1 | d2 | d4
  deriving DecidableEq, Repr

/-- VRED operations (R187). -/
inductive RedOp where
  | add | min | max
  deriving DecidableEq, Repr

/-- KOP operations of two sources (R190). -/
inductive KOp where
  | and | or | xor | andn
  deriving DecidableEq, Repr

/-! ### Operands of events -/

/-- Who wrote a NOTIFY register (R57): the host through a function, or device code through a partition's doorbell. -/
inductive NotifySrc where
  | host (fn : Nat)
  | door (part : Nat)
  deriving DecidableEq, Repr

/-- A queue that records wait in: a tile ready queue of a priority, or a core's pinned queue. -/
inductive QueueRef where
  | tile (t : Nat) (prio : Nat)
  | core (p : Nat)
  deriving DecidableEq, Repr

/-- What an uncorrectable failure strikes (R334). -/
inductive PoisonTarget where
  | line (n : Nat)
  | spWord (u : UnitRef) (w : Nat)
  | sreg (c : CtxRef) (r : Fin 32)
  | vreg (c : CtxRef) (r : Fin 32)
  | accWord (u : UnitRef) (a : Fin 8) (w : Nat)
  | die (d : Fin 4)
  deriving DecidableEq, Repr

/-- The host's answer to a PRI page request (R212). -/
inductive PrgCode where
  | success | invalid | failure
  deriving DecidableEq, Repr

/-- The host's answer to an ATS translation request (R212): a translation with its rights and its size as a power of two
(at least 12), or none. -/
inductive AtsResult where
  | ok (hpa : Nat) (log2 : Nat) (r w : Bool)
  | absent
  deriving DecidableEq, Repr

/-- How bring-up ends (R364): all phases pass with these Gweik ports down, or a phase fails. -/
inductive BringUp where
  | ok (down : BitVec 72)
  | boundary (die : BitVec 4)
  | lpddrTraining (die : BitVec 4)
  | sram (die : BitVec 4)
  | lpddrCal (die : BitVec 4)
  | zeroing (die : BitVec 4)
  deriving DecidableEq, Repr, Inhabited

/-- Which engine of a core (R248). -/
inductive Engine where
  | matrix | copy
  deriving DecidableEq, Repr

/-- What asserted the snapshot trigger (R369). -/
inductive SnapSrc where
  | instr | host | fabric
  deriving DecidableEq, Repr

/-- A TDISP request (R357). -/
inductive TdispReq where
  | lock | start | stop | error
  deriving DecidableEq, Repr

/-- The reply that another package gives to a core-window access (R281, R283): the word read or acknowledgement, a section or
range failure, an invalid core, or (R334) a poisoned word. -/
inductive RemoteReply where
  | ok (v : Word)
  | rights
  | target
  | poison
  deriving DecidableEq, Repr

/-- One constructor per row of spec/opcode_table.json. -/
inductive Instr where
  -- class 0 (R134)
  | nop (h : Hd)
  | liveMaskWord (bits : BitVec 59)
  | br (h : Hd) (c : Cond) (a b : SSrc) (off : BitVec 12)
  | bri (h : Hd) (c : Cond) (a : SSrc) (imm : BitVec 12) (off : BitVec 32)
  | bk (h : Hd) (t : BkTest) (a b : KSrc) (off : BitVec 12)
  | jmp (h : Hd) (off : BitVec 32)
  | jmpr (h : Hd) (a : SSrc) (off : BitVec 12)
  | call (h : Hd) (off : BitVec 32)
  | callr (h : Hd) (a : SSrc) (off : BitVec 12)
  | ret (h : Hd)
  | xcall (h : Hd) (off : BitVec 32)
  | xcallr (h : Hd) (a : SSrc) (off : BitVec 12)
  | xret (h : Hd)
  | gate (h : Hd)
  | ends (h : Hd)
  | yield (h : Hd) (a : SSrc) (b : SB)
  | trap (h : Hd) (imm : BitVec 12)
  | svc (h : Hd) (imm : BitVec 12)
  | bkpt (h : Hd) (imm : BitVec 12)
  | graft (h : Hd) (d : Fin 4) (a b : SSrc) (rights : BitVec 2)
  -- class 1 (R150–R154)
  | add (h : Hd) (w32 : Bool) (d : IDst) (a : ISrc) (b : IB)
  | sub (h : Hd) (w32 : Bool) (d : IDst) (a : ISrc) (b : IB)
  | mul (h : Hd) (w32 : Bool) (d : IDst) (a : ISrc) (b : IB)
  | mulh (h : Hd) (w32 : Bool) (d : IDst) (a : ISrc) (b : IB)
  | mulhu (h : Hd) (w32 : Bool) (d : IDst) (a : ISrc) (b : IB)
  | div (h : Hd) (w32 : Bool) (d : IDst) (a : ISrc) (b : IB)
  | divu (h : Hd) (w32 : Bool) (d : IDst) (a : ISrc) (b : IB)
  | rem (h : Hd) (w32 : Bool) (d : IDst) (a : ISrc) (b : IB)
  | remu (h : Hd) (w32 : Bool) (d : IDst) (a : ISrc) (b : IB)
  | and (h : Hd) (w32 : Bool) (d : IDst) (a : ISrc) (b : IB)
  | or (h : Hd) (w32 : Bool) (d : IDst) (a : ISrc) (b : IB)
  | xor (h : Hd) (w32 : Bool) (d : IDst) (a : ISrc) (b : IB)
  | andn (h : Hd) (w32 : Bool) (d : IDst) (a : ISrc) (b : IB)
  | shl (h : Hd) (w32 : Bool) (d : IDst) (a : ISrc) (b : IB)
  | shr (h : Hd) (w32 : Bool) (d : IDst) (a : ISrc) (b : IB)
  | sar (h : Hd) (w32 : Bool) (d : IDst) (a : ISrc) (b : IB)
  | rol (h : Hd) (w32 : Bool) (d : IDst) (a : ISrc) (b : IB)
  | min (h : Hd) (w32 : Bool) (d : IDst) (a : ISrc) (b : IB)
  | max (h : Hd) (w32 : Bool) (d : IDst) (a : ISrc) (b : IB)
  | minu (h : Hd) (w32 : Bool) (d : IDst) (a : ISrc) (b : IB)
  | maxu (h : Hd) (w32 : Bool) (d : IDst) (a : ISrc) (b : IB)
  | set (h : Hd) (c : Cond) (w32 : Bool) (d : IDst) (a : ISrc) (b : IB)
  | sel (h : Hd) (w32 : Bool) (d : IDst) (a : ISrc) (b : IB) (c : SSrc)
  | clz (h : Hd) (w32 : Bool) (d : IDst) (a : ISrc)
  | ctz (h : Hd) (w32 : Bool) (d : IDst) (a : ISrc)
  | popc (h : Hd) (w32 : Bool) (d : IDst) (a : ISrc)
  | ext (h : Hd) (w32 : Bool) (d : IDst) (a : ISrc) (b : IB)
  | extu (h : Hd) (w32 : Bool) (d : IDst) (a : ISrc) (b : IB)
  | ins (h : Hd) (w32 : Bool) (d : IDst) (a : ISrc) (b : IB) (c : SSrc)
  | lea (h : Hd) (d : IDst) (a b : ISrc) (sh : BitVec 3)
  | li (h : Hd) (d : IDst) (imm : BitVec 32)
  | liX (h : Hd) (d : IDst) (imm : BitVec 64)
  | bswap (h : Hd) (w32 : Bool) (d : IDst) (a : ISrc)
  -- class 2 (R176–R181)
  | fadd (h : Hd) (f : FFmt) (m : Rnd) (d : Fin 32) (a b : SSrc)
  | fsub (h : Hd) (f : FFmt) (m : Rnd) (d : Fin 32) (a b : SSrc)
  | fmul (h : Hd) (f : FFmt) (m : Rnd) (d : Fin 32) (a b : SSrc)
  | fma (h : Hd) (f : FFmt) (m : Rnd) (d : Fin 32) (a b c : SSrc)
  | fnms (h : Hd) (f : FFmt) (m : Rnd) (d : Fin 32) (a b c : SSrc)
  | fdiv (h : Hd) (f : FFmt) (m : Rnd) (d : Fin 32) (a b : SSrc)
  | fsqrt (h : Hd) (f : FFmt) (m : Rnd) (d : Fin 32) (a : SSrc)
  | fmin (h : Hd) (f : FFmt) (d : Fin 32) (a b : SSrc)
  | fmax (h : Hd) (f : FFmt) (d : Fin 32) (a b : SSrc)
  | fabs (h : Hd) (f : FFmt) (d : Fin 32) (a : SSrc)
  | fneg (h : Hd) (f : FFmt) (d : Fin 32) (a : SSrc)
  | fset (h : Hd) (f : FFmt) (c : FCond) (d : Fin 32) (a b : SSrc)
  | fclass (h : Hd) (f : FFmt) (d : Fin 32) (a : SSrc)
  | fcvt (h : Hd) (df : FFmt) (m : Rnd) (sf : FFmt) (d : Fin 32) (a : SSrc)
  | ftoi (h : Hd) (sf : FFmt) (m : Rnd) (iw : IWidth) (d : Fin 32) (a : SSrc)
  | itof (h : Hd) (df : FFmt) (m : Rnd) (uns : Bool) (d : Fin 32) (a : SSrc)
  -- class 3 (R224)
  | ld (h : Hd) (sz : Size) (sx : Bool) (acq : Bool) (sc : Scope) (d : Fin 32) (ad : Addr)
  | st (h : Hd) (sz : Size) (rel : Bool) (sc : Scope) (d : Fin 32) (ad : Addr)
  | ldf (h : Hd) (sz : Size) (sx : Bool) (acq : Bool) (sc : Scope) (d : Fin 32) (ad : Addr)
  | stf (h : Hd) (sz : Size) (rel : Bool) (sc : Scope) (d : Fin 32) (ad : Addr)
  | sete (h : Hd) (sz : Size) (rel : Bool) (sc : Scope) (ad : Addr)
  | pref (h : Hd) (l2 : Bool) (ad : Addr)
  | fence (h : Hd) (o : Ord) (sc : Scope)
  | ifence (h : Hd) (sc : Scope)
  | cinv (h : Hd) (ad : Option Addr)
  | repl (h : Hd) (g : Deg) (ad : Addr)
  | aadd (h : Hd) (dw : Bool) (o : Ord) (sc : Scope) (d : Fin 32) (a : SSrc) (b : SB)
  | aand (h : Hd) (dw : Bool) (o : Ord) (sc : Scope) (d : Fin 32) (a : SSrc) (b : SB)
  | aor (h : Hd) (dw : Bool) (o : Ord) (sc : Scope) (d : Fin 32) (a : SSrc) (b : SB)
  | axor (h : Hd) (dw : Bool) (o : Ord) (sc : Scope) (d : Fin 32) (a : SSrc) (b : SB)
  | amin (h : Hd) (dw : Bool) (o : Ord) (sc : Scope) (d : Fin 32) (a : SSrc) (b : SB)
  | amax (h : Hd) (dw : Bool) (o : Ord) (sc : Scope) (d : Fin 32) (a : SSrc) (b : SB)
  | aminu (h : Hd) (dw : Bool) (o : Ord) (sc : Scope) (d : Fin 32) (a : SSrc) (b : SB)
  | amaxu (h : Hd) (dw : Bool) (o : Ord) (sc : Scope) (d : Fin 32) (a : SSrc) (b : SB)
  | aswp (h : Hd) (dw : Bool) (o : Ord) (sc : Scope) (d : Fin 32) (a : SSrc) (b : SB)
  | acas (h : Hd) (dw : Bool) (o : Ord) (sc : Scope) (d : Fin 32) (a : SSrc) (b : SB)
  | adec (h : Hd) (o : Ord) (sc : Scope) (d : Fin 32) (a : SSrc)
  | radd (h : Hd) (dw : Bool) (rel : Bool) (sc : Scope) (a b : SSrc)
  -- class 4 (R183)
  | vld (h : Hd) (t : ETy) (k : Fin 8) (d : Fin 32) (ad : Addr)
  | vst (h : Hd) (t : ETy) (k : Fin 8) (ad : Addr) (c : VSrc)
  | vlds (h : Hd) (t : ETy) (k : Fin 8) (d : Fin 32) (ad : Addr)
  | vsts (h : Hd) (t : ETy) (k : Fin 8) (ad : Addr) (c : VSrc)
  | vgath (h : Hd) (t : ETy) (k : Fin 8) (d : Fin 32) (a : SSrc) (b : VSrc) (sh : BitVec 3)
  | vscat (h : Hd) (t : ETy) (k : Fin 8) (a : SSrc) (b c : VSrc) (sh : BitVec 3)
  | vadd (h : Hd) (t : ETy) (k : Fin 8) (d : Fin 32) (a b : VSrc)
  | vsub (h : Hd) (t : ETy) (k : Fin 8) (d : Fin 32) (a b : VSrc)
  | vmul (h : Hd) (t : ETy) (k : Fin 8) (d : Fin 32) (a b : VSrc)
  | vfma (h : Hd) (t : ETy) (k : Fin 8) (d : Fin 32) (a b c : VSrc)
  | vdiv (h : Hd) (t : ETy) (k : Fin 8) (d : Fin 32) (a b : VSrc)
  | vsqrt (h : Hd) (t : ETy) (k : Fin 8) (d : Fin 32) (a : VSrc)
  | vmin (h : Hd) (t : ETy) (k : Fin 8) (u : Bool) (d : Fin 32) (a b : VSrc)
  | vmax (h : Hd) (t : ETy) (k : Fin 8) (u : Bool) (d : Fin 32) (a b : VSrc)
  | vabs (h : Hd) (t : ETy) (k : Fin 8) (d : Fin 32) (a : VSrc)
  | vneg (h : Hd) (t : ETy) (k : Fin 8) (d : Fin 32) (a : VSrc)
  | vand (h : Hd) (t : ETy) (k : Fin 8) (d : Fin 32) (a b : VSrc)
  | vor (h : Hd) (t : ETy) (k : Fin 8) (d : Fin 32) (a b : VSrc)
  | vxor (h : Hd) (t : ETy) (k : Fin 8) (d : Fin 32) (a b : VSrc)
  | vshl (h : Hd) (t : ETy) (k : Fin 8) (d : Fin 32) (a : VSrc) (b : VB)
  | vshr (h : Hd) (t : ETy) (k : Fin 8) (d : Fin 32) (a : VSrc) (b : VB)
  | vsar (h : Hd) (t : ETy) (k : Fin 8) (d : Fin 32) (a : VSrc) (b : VB)
  | vcmp (h : Hd) (t : ETy) (k : Fin 8) (c : BitVec 3) (d : Fin 8) (a b : VSrc)
  | vsel (h : Hd) (t : ETy) (k : Fin 8) (d : Fin 32) (a b : VSrc) (c : KSrc)
  | vbcast (h : Hd) (t : ETy) (k : Fin 8) (d : Fin 32) (a : SSrc)
  | vext (h : Hd) (t : ETy) (d : Fin 32) (a : VSrc) (b : SB)
  | vins (h : Hd) (t : ETy) (d : Fin 32) (a : SSrc) (b : SB)
  | vperm (h : Hd) (t : ETy) (k : Fin 8) (d : Fin 32) (a b : VSrc)
  | vred (h : Hd) (t : ETy) (k : Fin 8) (op : RedOp) (d : Fin 32) (a : VSrc)
  | vcvt (h : Hd) (t : ETy) (k : Fin 8) (src : BitVec 4) (m : Rnd) (sat : Bool) (part : BitVec 3) (d : Fin 32) (a : VSrc)
  | vqntScaled (h : Hd) (t : ETy) (k : Fin 8) (m : Rnd) (sat : Bool) (part : BitVec 2) (d : Fin 32) (a : VSrc) (c : SSrc)
  | vqntBlock (h : Hd) (sel : Bool) (part : BitVec 2) (d : Fin 32) (a b : VSrc)
  | kop (h : Hd) (op : KOp) (d : Fin 8) (a : KSrc) (b : Option KSrc)
  | kmov (h : Hd) (d : SKDst) (a : SKSrc)
  | kpop (h : Hd) (t : ETy) (d : Fin 32) (a : KSrc)
  | viota (h : Hd) (t : ETy) (k : Fin 8) (d : VKDst)
  -- class 5 (R247)
  | mma (h : Hd) (t : MTy) (sat : Bool) (d : Fin 8) (a b : SSrc) (sa sb : BitVec 16)
  | mmaBx4 (h : Hd) (d : Fin 8) (a b e0 e1 : SSrc) (x0 x1 : BitVec 16)
  | mzero (h : Hd) (d : Fin 8)
  | mlda (h : Hd) (d : Fin 8) (a : SSrc) (b : SB)
  | msta (h : Hd) (t : StTy) (sat : Bool) (d : Fin 8) (a : SSrc) (c : Option SSrc) (stride : BitVec 16)
  | mova (h : Hd) (d : Fin 32) (a : Fin 8) (b : SB)
  | cpy (h : Hd) (ch : Fin 4) (d : Fin 32) (a b : SSrc) (imm : BitVec 32)
  | cpy2 (h : Hd) (ch : Fin 4) (d : Fin 32) (a b e0 e1 : SSrc) (x0 : BitVec 16)
  | cpyg (h : Hd) (ch : Fin 4) (d : Fin 32) (a b e0 e1 : SSrc) (x0 : BitVec 16)
  | cpwait (h : Hd) (ch : Fin 4) (a : Option SSrc)
  | cpstat (h : Hd) (ch : Fin 4) (d : Fin 32)
  | cpfill (h : Hd) (ch : Fin 4) (d : Fin 32) (a b : SSrc) (imm : BitVec 32)
  -- class 6 (R289)
  | spawn (h : Hd) (a : SSrc)
  | bar (h : Hd) (lvl : Scope)
  | barw (h : Hd) (lvl : Scope) (d : Fin 32) (b : SB)
  | waitf (h : Hd) (d : Fin 32) (a : SSrc) (b : SB)
  | send (h : Hd) (a c : SSrc) (off : BitVec 32)
  | post (h : Hd) (a : SSrc) (b : SB)
  | vtadv (h : Hd) (b : SB)
  | cnew (h : Hd) (a : SSrc) (len : BitVec 32)
  | cins (h : Hd) (a b : SSrc) (off : BitVec 32)
  | cdel (h : Hd) (a : SSrc)
  | cset (h : Hd) (a b : SSrc) (off : BitVec 32)
  | cget (h : Hd) (d : Fin 32) (b : SB)
  | cship (h : Hd)
  | cdone (h : Hd)
  -- class 7 (R337)
  | mfc (h : Hd) (d : Fin 32) (reg : BitVec 12)
  | mtc (h : Hd) (a : SSrc) (reg : BitVec 12)
  | eret (h : Hd) (next : Bool)
  | tlbiAll (h : Hd)
  | tlbiVa (h : Hd) (a : SSrc)
  | tlbiIpa (h : Hd) (a : SSrc)
  | sectTag (h : Hd) (a b : SSrc)
  | sectZero (h : Hd) (a : SSrc)
  | sectClrp (h : Hd) (a : SSrc)
  | creinj (h : Hd) (a : SSrc)
  | snap (h : Hd)
  | idle (h : Hd) (d : Fin 32) (b : SB)
  | resume (h : Hd) (a : SSrc) (b : SB)
  -- events of the hardware, the host and the links (rows 166–254)
  | longResultWriteback (c : CtxRef) (id : Nat)
  | issueSelect (u : UnitRef)
  | notifyWrite (src : NotifySrc) (v : Word)
  | pendingNotifyMap
  | queueServiceTurn
  | dependenceEval (slot : Nat)
  | placementAdmit (slot : Nat)
  | contextTakesWork (c : CtxRef)
  | pinnedQueueFeed (launch : Nat) (pcore : Nat)
  | spillRingReturn (q : QueueRef)
  | overflowPushResume (id : Nat)
  | priorityPreemptRequest (q : QueueRef)
  | activityForecast
  | completionAddition (launch : Nat)
  | slotunmap (v : Word)
  | lnresv (fn : Nat) (va : Word)
  | lnfree (fn : Nat) (v : Word)
  | coretagWrite (pcore : Nat) (v : Word)
  | kptagWrite (kp : Nat) (v : Word)
  | mapinv (v : Word)
  | kpstart (kp : Nat) (v : Word)
  | rcRegisterRead (fn : Nat) (off : Nat)
  | powerOn (r : BringUp)
  | registerWrite (fn : Nat) (off : Nat) (v : Word)
  | storeDrain (u : UnitRef) (idx : Nat)
  | l1Fill (u : UnitRef) (idx : Nat)
  | replicaFill (idx : Nat)
  | replicaInvalidation (idx : Nat)
  | homeEviction (line : Nat)
  | replicaEpoch (die : Nat)
  | atomicAtHome (id : Nat)
  | releaseAtHome (u : UnitRef) (idx : Nat)
  | acquireReply (u : UnitRef) (idx : Nat)
  | walk (id : Nat)
  | walkRestart (id : Nat)
  | heldFaultRetry (id : Nat)
  | resumew (fn : Nat) (v : Word)
  | prgResponse (fid : Nat) (code : PrgCode)
  | atsInvalidation (fn : Nat) (pasid : Nat) (page : Nat) (log2 : Nat)
  | tlbiw (v : Word)
  | trapMigration (c : CtxRef)
  | doubleTrap (c : CtxRef)
  | eretReturn (c : CtxRef)
  | safePointSave (c : CtxRef)
  | pgraceExpiry (launch : Nat)
  | poisonEvent (t : PoisonTarget)
  | capsulePark (id : Nat)
  | capsuleInject (launch : Nat)
  | capsuleLand (id : Nat)
  | capsuleRetirement (id : Nat)
  | messageDelivery (id : Nat)
  | depositArrival (id : Nat)
  | requestAck (id : Nat)
  | remoteAccessAtTarget (id : Nat) (ext : RemoteReply)
  | barrierPhaseComplete (launch : Nat) (lvl : Scope) (group : Nat)
  | barwTimeout (c : CtxRef)
  | waitfTimeout (c : CtxRef)
  | idleTimeout (c : CtxRef)
  | wakeWrite (v : Word)
  | horizonPublish (launch : Nat)
  | engineCommandStart (u : UnitRef) (e : Engine)
  | matrixCommandComplete (u : UnitRef)
  | copyPageReach (u : UnitRef) (ch : Fin 4)
  | copyDelivery (u : UnitRef) (ch : Fin 4)
  | copyComplete (u : UnitRef) (ch : Fin 4)
  | tenctlSlice (part : Nat)
  | tenctlStop (part : Nat)
  | tenctlRun (part : Nat)
  | keyGenerate (slot : Nat)
  | keyRetire (slot : Nat)
  | vfReset (vf : Nat)
  | cxlMemRead (off : Nat) (size : Nat)
  | cxlMemWrite (off : Nat) (bytes : List Byte)
  | hostSnoop (addr : Nat) (bytes : List Byte)
  | hostQueueEntry (id : Nat)
  | islandFrequencyChange (n : Nat)
  | gweikFlit (die : Nat) (port : Nat) (flit : BitVec 256)
  | collectiveContribution (id : Nat)
  | ctimeout (group : Nat)
  | devstatRst (v : Word)
  | islctlWrite (n : Nat) (v : Word)
  | hsreply (fn : Nat) (v : Word)
  | capAdjust (die : Nat) (power : Nat) (junction : Nat)
  | dbgdataRead (carried : Word)
  | snaptrig (v : Word)
  | snapshotLatch (src : SnapSrc)
  | tdispRequest (vf : Nat) (req : TdispReq)
  | atsTranslationCompletion (id : Nat) (r : AtsResult)
  | backInvalidateResponse (line : Nat) (half : Bool) (data : Option (BitVec 512))
  deriving DecidableEq, Repr

end Sys2Proof
end

