-- ==== Sys2Proof/WellFormed.lean ====
section
/-! DEFINITION. Which terms of `Instr` stand for an instruction the encoding tables admit: the accepted subsets of R106,
R107, R112, R134, R183, R188–R190, R224, R247, R289 and R337 that the syntax does not already rule out.
An event is well formed when the numbers it carries name something the part has. -/
namespace Sys2Proof

/-- Element width in bits (R182). -/
def ETy.width : ETy → Nat
  | .i8 | .e4m3 | .e5m2 => 8
  | .i16 | .f16 | .bf16 => 16
  | .i32 | .f32 => 32
  | .i64 | .f64 => 64
  | .e2m1 => 4

/-- L, the number of lanes (R182). -/
def ETy.lanes (t : ETy) : Nat := 512 / t.width

/-- The integer element types. -/
def ETy.isInt : ETy → Bool
  | .i8 | .i16 | .i32 | .i64 => true
  | _ => false

/-- F16, BF16, F32, F64: the types of the floating-point lane operations (R184). -/
def ETy.isFloat : ETy → Bool
  | .f16 | .bf16 | .f32 | .f64 => true
  | _ => false

/-- "As VADD": I8–I64, F16, BF16, F32, F64. -/
def ETy.isArith (t : ETy) : Bool := t.isInt || t.isFloat

/-- All but E2M1. -/
def ETy.notE2m1 : ETy → Bool
  | .e2m1 => false
  | _ => true

/-- The types of VGATH and VSCAT. -/
def ETy.isGather : ETy → Bool
  | .i32 | .i64 | .f32 | .f64 => true
  | _ => false

/-- The types of VQNT's scaled form (R189). -/
def ETy.isQuant : ETy → Bool
  | .e4m3 | .e5m2 | .i8 => true
  | _ => false

/-- Element-type codes (R106). -/
def ETy.ofCode : Nat → Option ETy
  | 0 => some .i8 | 1 => some .i16 | 2 => some .i32 | 3 => some .i64
  | 4 => some .f16 | 5 => some .bf16 | 6 => some .f32 | 7 => some .f64
  | 8 => some .e4m3 | 9 => some .e5m2 | 10 => some .e2m1
  | _ => none

/-- Whether VCVT admits the source code `st`, destination `dt` and part `p` (R188); code 0xB is E8M0, of 8 bits. -/
def cvtOk (st : Nat) (dt : ETy) (p : Nat) : Bool :=
  let lanes (l : Nat) : Bool := p * min l dt.lanes < max l dt.lanes
  dt.notE2m1 &&
    (if st = 11 then dt == .f32 && lanes 64
     else match ETy.ofCode st with
       | some .e2m1 => dt.isFloat && lanes 128
       | some t => lanes t.lanes
       | none => false)

/-- The condition codes VCMP accepts: R106's for an integer type, R179's for a floating-point type (R185). -/
def vcmpOk (t : ETy) (c : Nat) : Bool := if t.isInt then c < 6 else t.isFloat && c < 5

/-- The control registers of R131 and R132. -/
def ctlAssigned (n : Nat) : Bool :=
  n < 0x007 || (0x008 ≤ n && n ≤ 0x016) || (0x100 ≤ n && n ≤ 0x10C) || (0x110 ≤ n && n ≤ 0x12F)

/-- The user-readable control registers of R131. -/
def ctlUser (n : Nat) : Bool := n ≤ 0x016

/-- The registers marked RO in R131 and R132. -/
def ctlReadOnly (n : Nat) : Bool :=
  n ≤ 0x006 || n = 0x00B || n = 0x00C || (0x00E ≤ n && n ≤ 0x015) || n = 0x107 || n = 0x109

/-- An unsigned immediate limit in place of B (R289, R337). -/
def SB.limitOk : SB → Nat → Bool
  | .reg _, _ => true
  | .imm v, hi => v.toNat ≤ hi

/-- No register or the value of B is free of a further limit. -/
def UnitRef.ok : UnitRef → Bool
  | .core p => p < 1024
  | .kp n => n < 32

/-- A context of a compute core is 0–7; of a kingpost 0–19 (four own, sixteen guest slots). -/
def CtxRef.ok (c : CtxRef) : Bool :=
  match c.unit with
  | .core p => p < 1024 && c.ctx < 8
  | .kp n => n < 32 && c.ctx < 20

/-- Well-formed: for an instruction, the encoding tables admit it; for an event, its numbers are in range. -/
def Instr.wf : Instr → Bool
  | .bri _ _ _ _ _ => true
  | .ld _ sz sx _ _ _ _ | .ldf _ sz sx _ _ _ _ => !(sx && sz == .d)
  | .fence _ o _ => o != .plain
  | .ifence _ sc => sc != .sys
  | .vld _ t _ _ _ | .vst _ t _ _ _ | .vlds _ t _ _ _ | .vsts _ t _ _ _ => t.notE2m1
  | .vgath _ t _ _ _ _ _ | .vscat _ t _ _ _ _ _ => t.isGather
  | .vadd _ t _ _ _ _ | .vsub _ t _ _ _ _ | .vmul _ t _ _ _ _ | .vfma _ t _ _ _ _ _ => t.isArith
  | .vdiv _ t _ _ _ _ | .vsqrt _ t _ _ _ => t.isFloat
  | .vmin _ t _ u _ _ _ | .vmax _ t _ u _ _ _ => t.isArith && (!u || t.isInt)
  | .vabs _ t _ _ _ | .vneg _ t _ _ _ => t.isArith
  | .vand _ t _ _ _ _ | .vor _ t _ _ _ _ | .vxor _ t _ _ _ _ => t.isInt
  | .vshl _ t _ _ _ _ | .vshr _ t _ _ _ _ | .vsar _ t _ _ _ _ => t.isInt
  | .vcmp _ t _ c _ _ _ => vcmpOk t c.toNat
  | .vsel _ t _ _ _ _ _ | .vbcast _ t _ _ _ | .vext _ t _ _ _ | .vins _ t _ _ _ | .vperm _ t _ _ _ _ => t.notE2m1
  | .vred _ t _ _ _ _ => t.notE2m1
  | .vcvt _ t _ src _ _ part _ _ => cvtOk src.toNat t part.toNat
  | .vqntScaled _ t _ _ _ _ _ _ _ => t.isQuant
  | .kop _ op _ _ b => b.isSome || op == .and
  | .kmov _ d a => !(match d, a with | .s _, .s _ => true | _, _ => false)
  | .viota _ t _ d => t.notE2m1 && (match d with | .v _ => t.isInt | .k _ => true)
  | .mma _ t sat _ _ _ _ _ => !sat || t == .int8
  | .msta _ t sat _ _ c _ => (!sat || t == .e4m3) && (c.isSome == (t == .bx4))
  | .mova _ _ _ b => b.limitOk 63
  | .cpy2 _ _ _ _ _ _ _ x0 | .cpyg _ _ _ _ _ _ _ x0 => x0 != 0
  | .barw _ _ _ b | .waitf _ _ _ b | .vtadv _ b => b.limitOk 2047
  | .cget _ _ b => b.limitOk 31
  | .idle _ _ b => b.limitOk 2047
  | .resume _ _ b => b.limitOk 1
  | .mfc _ _ r => ctlAssigned r.toNat
  | .mtc _ _ r => ctlAssigned r.toNat && !ctlReadOnly r.toNat
  -- events
  | .longResultWriteback c _ | .contextTakesWork c | .trapMigration c | .doubleTrap c | .eretReturn c
  | .safePointSave c | .barwTimeout c | .waitfTimeout c | .idleTimeout c => c.ok
  | .issueSelect u | .storeDrain u _ | .l1Fill u _ | .releaseAtHome u _ | .acquireReply u _
  | .engineCommandStart u _ | .matrixCommandComplete u | .copyPageReach u _ | .copyDelivery u _ | .copyComplete u _ => u.ok
  | .notifyWrite src _ => (match src with | .host fn => fn < 64 | .door p => p < 64)
  | .dependenceEval slot | .placementAdmit slot => slot < 64
  | .pinnedQueueFeed _ p | .coretagWrite p _ => p < 1024
  | .kptagWrite k _ | .kpstart k _ => k < 32
  | .lnresv fn _ | .lnfree fn _ | .rcRegisterRead fn _ | .registerWrite fn _ _ | .resumew fn _ | .hsreply fn _
  | .atsInvalidation fn _ _ _ => fn < 64
  | .replicaEpoch d | .capAdjust d _ _ => d < 4
  | .tenctlSlice p | .tenctlStop p | .tenctlRun p => p < 64
  | .keyGenerate s | .keyRetire s => s < 64
  | .vfReset vf | .tdispRequest vf _ => 1 ≤ vf && vf < 64
  | .gweikFlit d p _ => d < 4 && p < 18
  | .islctlWrite n _ | .islandFrequencyChange n => n < 256
  | .cxlMemRead _ n => n ≤ 64
  | .cxlMemWrite _ bs => bs.length ≤ 64
  | .hostSnoop _ bs => bs.length ≤ 64
  | _ => true

/-- The base-word bits of a class 0–7 instruction; none for a live-mask word and for an event. -/
def Instr.hd : Instr → Option Hd
  | .nop h | .br h _ _ _ _ | .bri h _ _ _ _ | .bk h _ _ _ _ | .jmp h _ | .jmpr h _ _ | .call h _ | .callr h _ _
  | .ret h | .xcall h _ | .xcallr h _ _ | .xret h | .gate h | .ends h | .yield h _ _ | .trap h _ | .svc h _ | .bkpt h _
  | .graft h _ _ _ _ => some h
  | .add h _ _ _ _ | .sub h _ _ _ _ | .mul h _ _ _ _ | .mulh h _ _ _ _ | .mulhu h _ _ _ _ | .div h _ _ _ _
  | .divu h _ _ _ _ | .rem h _ _ _ _ | .remu h _ _ _ _ | .and h _ _ _ _ | .or h _ _ _ _ | .xor h _ _ _ _
  | .andn h _ _ _ _ | .shl h _ _ _ _ | .shr h _ _ _ _ | .sar h _ _ _ _ | .rol h _ _ _ _ | .min h _ _ _ _
  | .max h _ _ _ _ | .minu h _ _ _ _ | .maxu h _ _ _ _ | .set h _ _ _ _ _ | .sel h _ _ _ _ _ | .clz h _ _ _
  | .ctz h _ _ _ | .popc h _ _ _ | .ext h _ _ _ _ | .extu h _ _ _ _ | .ins h _ _ _ _ _ | .lea h _ _ _ _ | .li h _ _
  | .liX h _ _ | .bswap h _ _ _ => some h
  | .fadd h _ _ _ _ _ | .fsub h _ _ _ _ _ | .fmul h _ _ _ _ _ | .fma h _ _ _ _ _ _ | .fnms h _ _ _ _ _ _
  | .fdiv h _ _ _ _ _ | .fsqrt h _ _ _ _ | .fmin h _ _ _ _ | .fmax h _ _ _ _ | .fabs h _ _ _ | .fneg h _ _ _
  | .fset h _ _ _ _ _ | .fclass h _ _ _ | .fcvt h _ _ _ _ _ | .ftoi h _ _ _ _ _ | .itof h _ _ _ _ _ => some h
  | .ld h _ _ _ _ _ _ | .st h _ _ _ _ _ | .ldf h _ _ _ _ _ _ | .stf h _ _ _ _ _ | .sete h _ _ _ _ | .pref h _ _
  | .fence h _ _ | .ifence h _ | .cinv h _ | .repl h _ _ => some h
  | .aadd h _ _ _ _ _ _ | .aand h _ _ _ _ _ _ | .aor h _ _ _ _ _ _ | .axor h _ _ _ _ _ _ | .amin h _ _ _ _ _ _
  | .amax h _ _ _ _ _ _ | .aminu h _ _ _ _ _ _ | .amaxu h _ _ _ _ _ _ | .aswp h _ _ _ _ _ _ | .acas h _ _ _ _ _ _
  | .adec h _ _ _ _ | .radd h _ _ _ _ _ => some h
  | .vld h _ _ _ _ | .vst h _ _ _ _ | .vlds h _ _ _ _ | .vsts h _ _ _ _ | .vgath h _ _ _ _ _ _ | .vscat h _ _ _ _ _ _
  | .vadd h _ _ _ _ _ | .vsub h _ _ _ _ _ | .vmul h _ _ _ _ _ | .vfma h _ _ _ _ _ _ | .vdiv h _ _ _ _ _
  | .vsqrt h _ _ _ _ | .vmin h _ _ _ _ _ _ | .vmax h _ _ _ _ _ _ | .vabs h _ _ _ _ | .vneg h _ _ _ _
  | .vand h _ _ _ _ _ | .vor h _ _ _ _ _ | .vxor h _ _ _ _ _ | .vshl h _ _ _ _ _ | .vshr h _ _ _ _ _
  | .vsar h _ _ _ _ _ | .vcmp h _ _ _ _ _ _ | .vsel h _ _ _ _ _ _ | .vbcast h _ _ _ _ | .vext h _ _ _ _
  | .vins h _ _ _ _ | .vperm h _ _ _ _ _ | .vred h _ _ _ _ _ | .vcvt h _ _ _ _ _ _ _ _ | .vqntScaled h _ _ _ _ _ _ _ _
  | .vqntBlock h _ _ _ _ _ | .kop h _ _ _ _ | .kmov h _ _ | .kpop h _ _ _ | .viota h _ _ _ => some h
  | .mma h _ _ _ _ _ _ _ | .mmaBx4 h _ _ _ _ _ _ _ | .mzero h _ | .mlda h _ _ _ | .msta h _ _ _ _ _ _ | .mova h _ _ _
  | .cpy h _ _ _ _ _ | .cpy2 h _ _ _ _ _ _ _ | .cpyg h _ _ _ _ _ _ _ | .cpwait h _ _ | .cpstat h _ _
  | .cpfill h _ _ _ _ _ => some h
  | .spawn h _ | .bar h _ | .barw h _ _ _ | .waitf h _ _ _ | .send h _ _ _ | .post h _ _ | .vtadv h _ | .cnew h _ _
  | .cins h _ _ _ | .cdel h _ | .cset h _ _ _ | .cget h _ _ | .cship h | .cdone h => some h
  | .mfc h _ _ | .mtc h _ _ | .eret h _ | .tlbiAll h | .tlbiVa h _ | .tlbiIpa h _ | .sectTag h _ _ | .sectZero h _
  | .sectClrp h _ | .creinj h _ | .snap h | .idle h _ _ | .resume h _ _ => some h
  | _ => none

/-- An event of the hardware, the host or the links (rows 166–254), not an instruction. -/
def Instr.isEvent (i : Instr) : Bool :=
  match i with
  | .liveMaskWord _ => false
  | _ => i.hd.isNone

end Sys2Proof
end

