-- ==== Sys2Proof/Decode.lean ====
section
/-! DEFINITION. Decoding (R99–R116): the base word and its fields, the operand codes, `decode`, total on any bytes, which
rejects by name; and after it `encode`, written from the same tables. -/
namespace Sys2Proof

/-! ### The base word (R101) -/

/-- The fields of a base word (R101). -/
structure Fields where
  len : BitVec 2
  w   : Bool
  s   : Bool
  op  : BitVec 10
  fn  : BitVec 4
  d   : BitVec 7
  a   : BitVec 7
  b   : BitVec 7
  c   : BitVec 7
  k   : BitVec 3
  m   : BitVec 3
  imm : BitVec 12
  deriving DecidableEq, Repr

/-- The fields of a 64-bit base word (R101). -/
def Fields.unpack (x : BitVec 64) : Fields where
  len := x.extractLsb' 0 2
  w := x.getLsbD 2
  s := x.getLsbD 3
  op := x.extractLsb' 4 10
  fn := x.extractLsb' 14 4
  d := x.extractLsb' 18 7
  a := x.extractLsb' 25 7
  b := x.extractLsb' 32 7
  c := x.extractLsb' 39 7
  k := x.extractLsb' 46 3
  m := x.extractLsb' 49 3
  imm := x.extractLsb' 52 12

/-- The base word that holds the fields (R101). -/
def Fields.pack (f : Fields) : BitVec 64 :=
  f.imm ++ f.m ++ f.k ++ f.c ++ f.b ++ f.a ++ f.d ++ f.fn ++ f.op ++ BitVec.ofBool f.s ++ BitVec.ofBool f.w ++ f.len

/-- Why bytes are not an instruction. Every one raises ILLEGAL (R115). -/
inductive DecodeErr where
  /-- a live-mask word with a bit of [63:61] set -/
  | liveMask
  /-- OP names no opcode (R114) -/
  | unassigned
  /-- LEN is not permitted for the opcode (R112) -/
  | badLength
  /-- S = 1 and the 8 bytes that follow are no live-mask word (R105) -/
  | noLiveMask
  /-- FN, M, C or IMM12 holds a code the opcode does not accept (R106, R107, R108) -/
  | badSelector
  /-- a specifier names a register the field does not accept (R102) -/
  | badSpecifier
  /-- a field or K bit the instruction does not use is not zero (R101, R103, R108–R111) -/
  | unusedField
  /-- fewer bytes than the instruction measures -/
  | short
  deriving DecidableEq, Repr

/-! ### Specifiers (R24, R102) -/

/-- Scalar registers: specifiers 0–31. -/
def specS (x : BitVec 7) : Except DecodeErr (Fin 32) :=
  if h : x.toNat < 32 then .ok ⟨x.toNat, h⟩ else .error .badSpecifier

/-- Vector registers: specifiers 32–63. -/
def specV (x : BitVec 7) : Except DecodeErr (Fin 32) :=
  if h : 32 ≤ x.toNat ∧ x.toNat < 64 then .ok ⟨x.toNat - 32, by omega⟩ else .error .badSpecifier

/-- Mask registers: specifiers 64–71. -/
def specK (x : BitVec 7) : Except DecodeErr (Fin 8) :=
  if h : 64 ≤ x.toNat ∧ x.toNat < 72 then .ok ⟨x.toNat - 64, by omega⟩ else .error .badSpecifier

/-- Accumulators: specifiers 72–79. -/
def specA (x : BitVec 7) : Except DecodeErr (Fin 8) :=
  if h : 72 ≤ x.toNat ∧ x.toNat < 80 then .ok ⟨x.toNat - 72, by omega⟩ else .error .badSpecifier

/-- Mail registers: specifiers 80–87. -/
def specM (x : BitVec 7) : Except DecodeErr (Fin 8) :=
  if h : 80 ≤ x.toNat ∧ x.toNat < 88 then .ok ⟨x.toNat - 80, by omega⟩ else .error .badSpecifier

/-- Grafts: specifiers 88–91. -/
def specH (x : BitVec 7) : Except DecodeErr (Fin 4) :=
  if h : 88 ≤ x.toNat ∧ x.toNat < 92 then .ok ⟨x.toNat - 88, by omega⟩ else .error .badSpecifier

/-- Specifier of a scalar register. -/
def codeS (r : Fin 32) : BitVec 7 := BitVec.ofNat 7 r.val
/-- Specifier of a vector register. -/
def codeV (r : Fin 32) : BitVec 7 := BitVec.ofNat 7 (32 + r.val)
/-- Specifier of a mask register. -/
def codeK (r : Fin 8) : BitVec 7 := BitVec.ofNat 7 (64 + r.val)
/-- Specifier of an accumulator. -/
def codeA (r : Fin 8) : BitVec 7 := BitVec.ofNat 7 (72 + r.val)
/-- Specifier of a mail register. -/
def codeM (r : Fin 8) : BitVec 7 := BitVec.ofNat 7 (80 + r.val)
/-- Specifier of a graft. -/
def codeH (r : Fin 4) : BitVec 7 := BitVec.ofNat 7 (88 + r.val)

/-! ### Sources with their last-use bits -/

/-- A scalar source. -/
def srcS (x : BitVec 7) (k : Bool) : Except DecodeErr SSrc := do return ⟨← specS x, k⟩
/-- A vector source. -/
def srcV (x : BitVec 7) (k : Bool) : Except DecodeErr VSrc := do return ⟨← specV x, k⟩
/-- A mask source. -/
def srcK (x : BitVec 7) (k : Bool) : Except DecodeErr KSrc := do return ⟨← specK x, k⟩

/-- A class-1 source: scalar or mail (R150). -/
def srcI (x : BitVec 7) (k : Bool) : Except DecodeErr ISrc :=
  if x.toNat < 32 then do return .s (← specS x) k else do return .m (← specM x)

/-- A class-1 destination: scalar or mail (R150). -/
def dstI (x : BitVec 7) : Except DecodeErr IDst :=
  if x.toNat < 32 then do return .s (← specS x) else do return .m (← specM x)

/-- Class-1 operand B: 127 selects IMM12 (R108). -/
def opIB (x : BitVec 7) (k : Bool) (imm : BitVec 12) : Except DecodeErr IB :=
  if x.toNat = 127 then .ok (.imm imm) else do return .reg (← srcI x k)

/-- A scalar operand B or IMM12 (R108). -/
def opSB (x : BitVec 7) (k : Bool) (imm : BitVec 12) : Except DecodeErr SB :=
  if x.toNat = 127 then .ok (.imm imm) else do return .reg (← srcS x k)

/-- A vector operand B or IMM12 (R108). -/
def opVB (x : BitVec 7) (k : Bool) (imm : BitVec 12) : Except DecodeErr VB :=
  if x.toNat = 127 then .ok (.imm imm) else do return .reg (← srcV x k)

/-- KMOV's source. -/
def srcSK (x : BitVec 7) (k : Bool) : Except DecodeErr SKSrc :=
  if x.toNat < 32 then do return .s (← srcS x k) else do return .k (← srcK x k)

/-- KMOV's destination. -/
def dstSK (x : BitVec 7) : Except DecodeErr SKDst :=
  if x.toNat < 32 then do return .s (← specS x) else do return .k (← specK x)

/-- VIOTA's destination. -/
def dstVK (x : BitVec 7) : Except DecodeErr VKDst :=
  if x.toNat < 64 then do return .v (← specV x) else do return .k (← specK x)

/-! ### Codes of FN, M and C (R106, R107) -/

/-- An accepted code, or a named rejection. -/
def sel {α : Type} : Option α → Except DecodeErr α
  | some x => .ok x
  | none => .error .badSelector

/-- Condition codes (R106). -/
def Cond.ofCode : Nat → Option Cond
  | 0 => some .eq | 1 => some .ne | 2 => some .lt | 3 => some .ge | 4 => some .ltu | 5 => some .geu
  | _ => none
/-- Condition codes (R106). -/
def Cond.code : Cond → Nat
  | .eq => 0 | .ne => 1 | .lt => 2 | .ge => 3 | .ltu => 4 | .geu => 5

/-- BK's tests (R106). -/
def BkTest.ofCode : Nat → Option BkTest
  | 0 => some .any | 1 => some .all | 2 => some .none
  | _ => Option.none
/-- BK's tests (R106). -/
def BkTest.code : BkTest → Nat
  | .any => 0 | .all => 1 | .none => 2

/-- Class-2 formats (R106). -/
def FFmt.ofCode : Nat → Option FFmt
  | 0 => some .f64 | 1 => some .f32 | 2 => some .f16 | 3 => some .bf16
  | _ => none
/-- Class-2 formats (R106). -/
def FFmt.code : FFmt → Nat
  | .f64 => 0 | .f32 => 1 | .f16 => 2 | .bf16 => 3

/-- Rounding modes (R106). -/
def Rnd.ofCode : Nat → Option Rnd
  | 0 => some .rne | 1 => some .rtz | 2 => some .rdn | 3 => some .rup
  | _ => none
/-- Rounding modes (R106). -/
def Rnd.code : Rnd → Nat
  | .rne => 0 | .rtz => 1 | .rdn => 2 | .rup => 3

/-- Comparison codes of FSET (R179). -/
def FCond.ofCode : Nat → Option FCond
  | 0 => some .eq | 1 => some .lt | 2 => some .le | 3 => some .un | 4 => some .ne
  | _ => none
/-- Comparison codes of FSET (R179). -/
def FCond.code : FCond → Nat
  | .eq => 0 | .lt => 1 | .le => 2 | .un => 3 | .ne => 4

/-- Widths of FTOI (R181). -/
def IWidth.ofCode : Nat → Option IWidth
  | 0 => some .i8 | 1 => some .i16 | 2 => some .i32 | 3 => some .i64
  | _ => none
/-- Widths of FTOI (R181). -/
def IWidth.code : IWidth → Nat
  | .i8 => 0 | .i16 => 1 | .i32 => 2 | .i64 => 3

/-- Access sizes (R106). -/
def Size.ofCode : Nat → Option Size
  | 0 => some .b | 1 => some .h | 2 => some .w | 3 => some .d
  | _ => none
/-- Access sizes (R106). -/
def Size.code : Size → Nat
  | .b => 0 | .h => 1 | .w => 2 | .d => 3

/-- Scopes and barrier levels (R107). -/
def Scope.ofCode : Nat → Option Scope
  | 0 => some .core | 1 => some .quad | 2 => some .tile | 3 => some .die | 4 => some .pkg | 5 => some .sys
  | _ => none
/-- Scopes and barrier levels (R107). -/
def Scope.code : Scope → Nat
  | .core => 0 | .quad => 1 | .tile => 2 | .die => 3 | .pkg => 4 | .sys => 5

/-- Orderings (R107). -/
def Ord.ofCode : Nat → Option Ord
  | 0 => some .plain | 1 => some .acq | 2 => some .rel | 3 => some .ar
  | _ => none
/-- Orderings (R107). -/
def Ord.code : Ord → Nat
  | .plain => 0 | .acq => 1 | .rel => 2 | .ar => 3

/-- Element-type codes (R106). -/
def ETy.code : ETy → Nat
  | .i8 => 0 | .i16 => 1 | .i32 => 2 | .i64 => 3 | .f16 => 4 | .bf16 => 5 | .f32 => 6 | .f64 => 7
  | .e4m3 => 8 | .e5m2 => 9 | .e2m1 => 10

/-- MMA's operand types other than BX4 (R106). -/
def MTy.ofCode : Nat → Option MTy
  | 0 => some .int8 | 4 => some .f16 | 5 => some .bf16 | 6 => some .f32 | 8 => some .e4m3 | 9 => some .e5m2
  | _ => none
/-- MMA's operand types other than BX4 (R106). -/
def MTy.code : MTy → Nat
  | .int8 => 0 | .f16 => 4 | .bf16 => 5 | .f32 => 6 | .e4m3 => 8 | .e5m2 => 9

/-- MSTA's stored types (R106). -/
def StTy.ofCode : Nat → Option StTy
  | 2 => some .i32 | 5 => some .bf16 | 6 => some .f32 | 8 => some .e4m3 | 10 => some .bx4
  | _ => none
/-- MSTA's stored types (R106). -/
def StTy.code : StTy → Nat
  | .i32 => 2 | .bf16 => 5 | .f32 => 6 | .e4m3 => 8 | .bx4 => 10

/-- REPL's degrees (R224). -/
def Deg.ofCode : Nat → Option Deg
  | 1 => some .d1 | 2 => some .d2 | 3 => some .d4
  | _ => none
/-- REPL's degrees (R224). -/
def Deg.code : Deg → Nat
  | .d1 => 1 | .d2 => 2 | .d4 => 3

/-- VRED's operations (R187). -/
def RedOp.ofCode : Nat → Option RedOp
  | 0 => some .add | 1 => some .min | 2 => some .max
  | _ => none
/-- VRED's operations (R187). -/
def RedOp.code : RedOp → Nat
  | .add => 0 | .min => 1 | .max => 2

/-- KOP's operations of two sources (R190). -/
def KOp.ofCode : Nat → Option KOp
  | 0 => some .and | 1 => some .or | 2 => some .xor | 3 => some .andn
  | _ => none
/-- KOP's operations of two sources (R190). -/
def KOp.code : KOp → Nat
  | .and => 0 | .or => 1 | .xor => 2 | .andn => 3

/-! ### The opcode map (R112, R114) -/

/-- OP is one of the 158 assigned opcodes (R114). -/
def opAssigned (op : Nat) : Bool :=
  op ≤ 0x012 || (0x080 ≤ op && op ≤ 0x09F) || (0x100 ≤ op && op ≤ 0x10F) || (0x180 ≤ op && op ≤ 0x195) ||
  (0x200 ≤ op && op ≤ 0x222) || (0x280 ≤ op && op ≤ 0x284) || (0x286 ≤ op && op ≤ 0x28B) ||
  (0x300 ≤ op && op ≤ 0x30D) || (0x380 ≤ op && op ≤ 0x388)

/-- LEN is permitted for OP and FN (R112). -/
def lenPermitted (op fn len : Nat) : Bool :=
  if op = 0x09E then len == 1 || len == 2
  else if op = 0x280 then if fn = 0xA then len == 2 else len == 1
  else if op = 0x287 || op = 0x288 then len == 2
  else if op = 0x002 || op = 0x004 || op = 0x006 || op = 0x009 || op = 0x283 || op = 0x286 || op = 0x28B ||
    op = 0x304 || op = 0x307 || op = 0x308 || op = 0x30A then len == 1
  else len == 0

/-- Instruction length in bytes from LEN (R101); a live-mask word is 8 bytes. -/
def lenBytes (len : BitVec 2) : Nat := if len = 1#2 then 12 else if len = 2#2 then 16 else 8

/-- The measure of check 1 of R84, from LEN and S of the base word alone (R100). -/
def measure (x : BitVec 64) : Nat :=
  let f := Fields.unpack x
  if f.len = 3#2 then 8 else lenBytes f.len + (if f.s then 8 else 0)

/-! ### Fields to instructions -/

/-- K bit of operand A. -/
def Fields.kA (f : Fields) : Bool := f.k.getLsbD 0
/-- K bit of operand B. -/
def Fields.kB (f : Fields) : Bool := f.k.getLsbD 1
/-- K bit of operand C. -/
def Fields.kC (f : Fields) : Bool := f.k.getLsbD 2
/-- A as a scalar source. -/
def Fields.sA (f : Fields) : Except DecodeErr SSrc := srcS f.a f.kA
/-- B as a scalar source. -/
def Fields.sB (f : Fields) : Except DecodeErr SSrc := srcS f.b f.kB
/-- C as a scalar source. -/
def Fields.sC (f : Fields) : Except DecodeErr SSrc := srcS f.c f.kC
/-- A as a vector source. -/
def Fields.vA (f : Fields) : Except DecodeErr VSrc := srcV f.a f.kA
/-- B as a vector source. -/
def Fields.vB (f : Fields) : Except DecodeErr VSrc := srcV f.b f.kB
/-- C as a vector source. -/
def Fields.vC (f : Fields) : Except DecodeErr VSrc := srcV f.c f.kC
/-- B as scalar or immediate. -/
def Fields.sb (f : Fields) : Except DecodeErr SB := opSB f.b f.kB f.imm
/-- The address operand of class 3 and 4 (R225). -/
def Fields.addr (f : Fields) : Except DecodeErr Addr := do return ⟨← f.sA, ← f.sb⟩
/-- M as a mask register (R107). -/
def Fields.mreg (f : Fields) : Fin 8 := ⟨f.m.toNat, f.m.isLt⟩
/-- C as a scope (R107). -/
def Fields.scope (f : Fields) : Except DecodeErr Scope := sel (Scope.ofCode f.c.toNat)
/-- FN as an element type. -/
def Fields.ety (f : Fields) : Except DecodeErr ETy := sel (ETy.ofCode f.fn.toNat)
/-- FN[1:0] as an access size. -/
def Fields.size (f : Fields) : Except DecodeErr Size := sel (Size.ofCode (f.fn.toNat % 4))
/-- FN[1:0] as a float format. -/
def Fields.ffmt (f : Fields) : Except DecodeErr FFmt := sel (FFmt.ofCode (f.fn.toNat % 4))
/-- FN[3:2] as a rounding mode. -/
def Fields.rnd (f : Fields) : Except DecodeErr Rnd := sel (Rnd.ofCode (f.fn.toNat / 4))
/-- FN[1:0] as a copy channel. -/
def Fields.chan (f : Fields) : Fin 4 := ⟨f.fn.toNat % 4, Nat.mod_lt _ (by decide)⟩
/-- M as an ordering. -/
def Fields.ord (f : Fields) : Except DecodeErr Ord := sel (Ord.ofCode f.m.toNat)
/-- FN[0], the 32-bit form of class 1. -/
def Fields.w32 (f : Fields) : Bool := f.fn.getLsbD 0

/-- A class-1 instruction of D, A, B. -/
def parseI3 (f : Fields) (mk : Bool → IDst → ISrc → IB → Instr) : Except DecodeErr Instr := do
  return mk f.w32 (← dstI f.d) (← srcI f.a f.kA) (← opIB f.b f.kB f.imm)

/-- A class-1 instruction of D, A. -/
def parseI2 (f : Fields) (mk : Bool → IDst → ISrc → Instr) : Except DecodeErr Instr := do
  return mk f.w32 (← dstI f.d) (← srcI f.a f.kA)

/-- A class-2 instruction of D, A, B with rounding. -/
def parseF3 (f : Fields) (mk : FFmt → Rnd → Fin 32 → SSrc → SSrc → Instr) : Except DecodeErr Instr := do
  return mk (← f.ffmt) (← f.rnd) (← specS f.d) (← f.sA) (← f.sB)

/-- An atomic of D, A, B (0x18A–0x193). -/
def parseAtomic (f : Fields) (mk : Bool → Ord → Scope → Fin 32 → SSrc → SB → Instr) : Except DecodeErr Instr := do
  let dw ← sel (if f.fn = 3#4 then some true else if f.fn = 2#4 then some false else none)
  return mk dw (← f.ord) (← f.scope) (← specS f.d) (← f.sA) (← f.sb)

/-- A vector instruction of D, A, B. -/
def parseV3 (f : Fields) (mk : ETy → Fin 8 → Fin 32 → VSrc → VSrc → Instr) : Except DecodeErr Instr := do
  return mk (← f.ety) f.mreg (← specV f.d) (← f.vA) (← f.vB)

/-- A vector instruction of D, A. -/
def parseV2 (f : Fields) (mk : ETy → Fin 8 → Fin 32 → VSrc → Instr) : Except DecodeErr Instr := do
  return mk (← f.ety) f.mreg (← specV f.d) (← f.vA)

/-- Class 0 (R134). -/
def parse0 (h : Hd) (f : Fields) (t : BitVec 64) (n : Nat) : Except DecodeErr Instr :=
  let off := t.setWidth 32
  match n with
  | 0x00 => .ok (.nop h)
  | 0x01 => do return .br h (← sel (Cond.ofCode f.fn.toNat)) (← f.sA) (← f.sB) f.imm
  | 0x02 => do
    let c ← sel (Cond.ofCode f.fn.toNat)
    let a ← f.sA
    if f.b = 127#7 then return .bri h c a f.imm off else .error .badSpecifier
  | 0x03 => do return .bk h (← sel (BkTest.ofCode f.fn.toNat)) (← srcK f.a f.kA) (← srcK f.b f.kB) f.imm
  | 0x04 => .ok (.jmp h off)
  | 0x05 => do return .jmpr h (← f.sA) f.imm
  | 0x06 => .ok (.call h off)
  | 0x07 => do return .callr h (← f.sA) f.imm
  | 0x08 => .ok (.ret h)
  | 0x09 => .ok (.xcall h off)
  | 0x0A => do return .xcallr h (← f.sA) f.imm
  | 0x0B => .ok (.xret h)
  | 0x0C => .ok (.gate h)
  | 0x0D => .ok (.ends h)
  | 0x0E => do return .yield h (← f.sA) (← f.sb)
  | 0x0F => .ok (.trap h f.imm)
  | 0x10 => .ok (.svc h f.imm)
  | 0x11 => .ok (.bkpt h f.imm)
  | 0x12 => do return .graft h (← specH f.d) (← f.sA) (← f.sB) (f.imm.setWidth 2)
  | _ => .error .unassigned

/-- Class 1 (R150–R154). -/
def parse1 (h : Hd) (f : Fields) (t : BitVec 64) (n : Nat) : Except DecodeErr Instr :=
  match n with
  | 0x00 => parseI3 f (.add h)
  | 0x01 => parseI3 f (.sub h)
  | 0x02 => parseI3 f (.mul h)
  | 0x03 => parseI3 f (.mulh h)
  | 0x04 => parseI3 f (.mulhu h)
  | 0x05 => parseI3 f (.div h)
  | 0x06 => parseI3 f (.divu h)
  | 0x07 => parseI3 f (.rem h)
  | 0x08 => parseI3 f (.remu h)
  | 0x09 => parseI3 f (.and h)
  | 0x0A => parseI3 f (.or h)
  | 0x0B => parseI3 f (.xor h)
  | 0x0C => parseI3 f (.andn h)
  | 0x0D => parseI3 f (.shl h)
  | 0x0E => parseI3 f (.shr h)
  | 0x0F => parseI3 f (.sar h)
  | 0x10 => parseI3 f (.rol h)
  | 0x11 => parseI3 f (.min h)
  | 0x12 => parseI3 f (.max h)
  | 0x13 => parseI3 f (.minu h)
  | 0x14 => parseI3 f (.maxu h)
  | 0x15 => do
    let c ← sel (Cond.ofCode (f.fn.toNat / 2))
    parseI3 f (.set h c)
  | 0x16 => do
    let c ← f.sC
    parseI3 f fun w d a b => .sel h w d a b c
  | 0x17 => parseI2 f (.clz h)
  | 0x18 => parseI2 f (.ctz h)
  | 0x19 => parseI2 f (.popc h)
  | 0x1A => parseI3 f (.ext h)
  | 0x1B => parseI3 f (.extu h)
  | 0x1C => do
    let c ← f.sC
    parseI3 f fun w d a b => .ins h w d a b c
  | 0x1D => do return .lea h (← dstI f.d) (← srcI f.a f.kA) (← srcI f.b f.kB) (f.imm.setWidth 3)
  | 0x1E => do
    let d ← dstI f.d
    if f.len = 2#2 then return .liX h d t else return .li h d (t.setWidth 32)
  | 0x1F => parseI2 f (.bswap h)
  | _ => .error .unassigned

/-- Class 2 (R176–R181). -/
def parse2 (h : Hd) (f : Fields) (n : Nat) : Except DecodeErr Instr :=
  match n with
  | 0x0 => parseF3 f (.fadd h)
  | 0x1 => parseF3 f (.fsub h)
  | 0x2 => parseF3 f (.fmul h)
  | 0x3 => do
    let c ← f.sC
    parseF3 f fun t m d a b => .fma h t m d a b c
  | 0x4 => do
    let c ← f.sC
    parseF3 f fun t m d a b => .fnms h t m d a b c
  | 0x5 => parseF3 f (.fdiv h)
  | 0x6 => do return .fsqrt h (← f.ffmt) (← f.rnd) (← specS f.d) (← f.sA)
  | 0x7 => do return .fmin h (← f.ffmt) (← specS f.d) (← f.sA) (← f.sB)
  | 0x8 => do return .fmax h (← f.ffmt) (← specS f.d) (← f.sA) (← f.sB)
  | 0x9 => do return .fabs h (← f.ffmt) (← specS f.d) (← f.sA)
  | 0xA => do return .fneg h (← f.ffmt) (← specS f.d) (← f.sA)
  | 0xB => do return .fset h (← f.ffmt) (← sel (FCond.ofCode f.imm.toNat)) (← specS f.d) (← f.sA) (← f.sB)
  | 0xC => do return .fclass h (← f.ffmt) (← specS f.d) (← f.sA)
  | 0xD => do return .fcvt h (← f.ffmt) (← f.rnd) (← sel (FFmt.ofCode f.imm.toNat)) (← specS f.d) (← f.sA)
  | 0xE => do return .ftoi h (← f.ffmt) (← f.rnd) (← sel (IWidth.ofCode f.imm.toNat)) (← specS f.d) (← f.sA)
  | 0xF => do return .itof h (← f.ffmt) (← f.rnd) (f.imm.getLsbD 0) (← specS f.d) (← f.sA)
  | _ => .error .unassigned

/-- M of a load: plain or acquire (R107). -/
def acqOf (o : Ord) : Except DecodeErr Bool := sel (match o with | .plain => some false | .acq => some true | _ => none)
/-- M of a store: plain or release (R107). -/
def relOf (o : Ord) : Except DecodeErr Bool := sel (match o with | .plain => some false | .rel => some true | _ => none)

/-- Class 3 (R224). -/
def parse3 (h : Hd) (f : Fields) (n : Nat) : Except DecodeErr Instr :=
  match n with
  | 0x00 => do return .ld h (← f.size) (f.fn.getLsbD 2) (← acqOf (← f.ord)) (← f.scope) (← specS f.d) (← f.addr)
  | 0x01 => do return .st h (← f.size) (← relOf (← f.ord)) (← f.scope) (← specS f.d) (← f.addr)
  | 0x02 => do return .ldf h (← f.size) (f.fn.getLsbD 2) (← acqOf (← f.ord)) (← f.scope) (← specS f.d) (← f.addr)
  | 0x03 => do return .stf h (← f.size) (← relOf (← f.ord)) (← f.scope) (← specS f.d) (← f.addr)
  | 0x04 => do return .sete h (← f.size) (← relOf (← f.ord)) (← f.scope) (← f.addr)
  | 0x05 => do return .pref h (f.c.getLsbD 0) (← f.addr)
  | 0x06 => do return .fence h (← f.ord) (← f.scope)
  | 0x07 => do return .ifence h (← f.scope)
  | 0x08 => if f.c.getLsbD 0 then .ok (.cinv h none) else do return .cinv h (some (← f.addr))
  | 0x09 => do return .repl h (← sel (Deg.ofCode f.c.toNat)) (← f.addr)
  | 0x0A => parseAtomic f (.aadd h)
  | 0x0B => parseAtomic f (.aand h)
  | 0x0C => parseAtomic f (.aor h)
  | 0x0D => parseAtomic f (.axor h)
  | 0x0E => parseAtomic f (.amin h)
  | 0x0F => parseAtomic f (.amax h)
  | 0x10 => parseAtomic f (.aminu h)
  | 0x11 => parseAtomic f (.amaxu h)
  | 0x12 => parseAtomic f (.aswp h)
  | 0x13 => parseAtomic f (.acas h)
  | 0x14 => do return .adec h (← f.ord) (← f.scope) (← specS f.d) (← f.sA)
  | 0x15 => do
    let dw ← sel (if f.fn = 3#4 then some true else if f.fn = 2#4 then some false else none)
    return .radd h dw (← relOf (← f.ord)) (← f.scope) (← f.sA) (← f.sB)
  | _ => .error .unassigned

/-- Class 4 (R183). -/
def parse4 (h : Hd) (f : Fields) (n : Nat) : Except DecodeErr Instr :=
  match n with
  | 0x00 => do return .vld h (← f.ety) f.mreg (← specV f.d) (← f.addr)
  | 0x01 => do return .vst h (← f.ety) f.mreg (← f.addr) (← f.vC)
  | 0x02 => do return .vlds h (← f.ety) f.mreg (← specV f.d) (← f.addr)
  | 0x03 => do return .vsts h (← f.ety) f.mreg (← f.addr) (← f.vC)
  | 0x04 => do return .vgath h (← f.ety) f.mreg (← specV f.d) (← f.sA) (← f.vB) (f.imm.setWidth 3)
  | 0x05 => do return .vscat h (← f.ety) f.mreg (← f.sA) (← f.vB) (← f.vC) (f.imm.setWidth 3)
  | 0x06 => parseV3 f (.vadd h)
  | 0x07 => parseV3 f (.vsub h)
  | 0x08 => parseV3 f (.vmul h)
  | 0x09 => do
    let c ← f.vC
    parseV3 f fun t k d a b => .vfma h t k d a b c
  | 0x0A => parseV3 f (.vdiv h)
  | 0x0B => parseV2 f (.vsqrt h)
  | 0x0C => parseV3 f fun t k d a b => .vmin h t k (f.imm.getLsbD 0) d a b
  | 0x0D => parseV3 f fun t k d a b => .vmax h t k (f.imm.getLsbD 0) d a b
  | 0x0E => parseV2 f (.vabs h)
  | 0x0F => parseV2 f (.vneg h)
  | 0x10 => parseV3 f (.vand h)
  | 0x11 => parseV3 f (.vor h)
  | 0x12 => parseV3 f (.vxor h)
  | 0x13 => do return .vshl h (← f.ety) f.mreg (← specV f.d) (← f.vA) (← opVB f.b f.kB f.imm)
  | 0x14 => do return .vshr h (← f.ety) f.mreg (← specV f.d) (← f.vA) (← opVB f.b f.kB f.imm)
  | 0x15 => do return .vsar h (← f.ety) f.mreg (← specV f.d) (← f.vA) (← opVB f.b f.kB f.imm)
  | 0x16 => do return .vcmp h (← f.ety) f.mreg (f.imm.setWidth 3) (← specK f.d) (← f.vA) (← f.vB)
  | 0x17 => do
    let c ← srcK f.c f.kC
    parseV3 f fun t k d a b => .vsel h t k d a b c
  | 0x18 => do return .vbcast h (← f.ety) f.mreg (← specV f.d) (← f.sA)
  | 0x19 => do return .vext h (← f.ety) (← specS f.d) (← f.vA) (← f.sb)
  | 0x1A => do return .vins h (← f.ety) (← specV f.d) (← f.sA) (← f.sb)
  | 0x1B => parseV3 f (.vperm h)
  | 0x1C => do return .vred h (← f.ety) f.mreg (← sel (RedOp.ofCode f.imm.toNat)) (← specS f.d) (← f.vA)
  | 0x1D => do
    let m ← sel (Rnd.ofCode (f.imm.toNat / 16 % 4))
    return .vcvt h (← f.ety) f.mreg (f.imm.setWidth 4) m (f.imm.getLsbD 6) (f.imm.extractLsb' 8 3) (← specV f.d) (← f.vA)
  | 0x1E => do
    let t ← f.ety
    let d ← specV f.d
    let a ← f.vA
    if t = .e2m1 then return .vqntBlock h (f.imm.getLsbD 10) (f.imm.extractLsb' 8 2) d a (← f.vB)
    else
      let m ← sel (Rnd.ofCode (f.imm.toNat % 4))
      return .vqntScaled h t f.mreg m (f.imm.getLsbD 2) (f.imm.extractLsb' 8 2) d a (← f.sC)
  | 0x1F => do
    let d ← specK f.d
    let a ← srcK f.a f.kA
    if f.imm = 4#12 then return .kop h .and d a none
    else return .kop h (← sel (KOp.ofCode f.imm.toNat)) d a (some (← srcK f.b f.kB))
  | 0x20 => do return .kmov h (← dstSK f.d) (← srcSK f.a f.kA)
  | 0x21 => do return .kpop h (← f.ety) (← specS f.d) (← srcK f.a f.kA)
  | 0x22 => do return .viota h (← f.ety) f.mreg (← dstVK f.d)
  | _ => .error .unassigned

/-- Class 5 (R247). -/
def parse5 (h : Hd) (f : Fields) (t : BitVec 64) (n : Nat) : Except DecodeErr Instr :=
  let x0 := t.extractLsb' 32 16
  let x1 := t.extractLsb' 48 16
  let e0 := srcS (t.extractLsb' 0 7) (t.getLsbD 28)
  let e1 := srcS (t.extractLsb' 7 7) (t.getLsbD 29)
  match n with
  | 0x0 => do
    let d ← specA f.d
    let a ← f.sA
    let b ← f.sB
    if f.fn = 10#4 then return .mmaBx4 h d a b (← e0) (← e1) x0 x1
    else return .mma h (← sel (MTy.ofCode f.fn.toNat)) (f.m.getLsbD 0) d a b (t.extractLsb' 0 16) (t.extractLsb' 16 16)
  | 0x1 => do return .mzero h (← specA f.d)
  | 0x2 => do return .mlda h (← specA f.d) (← f.sA) (← f.sb)
  | 0x3 => do
    let ty ← sel (StTy.ofCode f.fn.toNat)
    let d ← specA f.d
    let a ← f.sA
    let st := t.extractLsb' 0 16
    let sat := t.getLsbD 16
    if ty = .bx4 then return .msta h ty sat d a (some (← f.sC)) st else return .msta h ty sat d a none st
  | 0x4 => do return .mova h (← specV f.d) (← specA f.a) (← f.sb)
  | 0x6 => do return .cpy h f.chan (← specS f.d) (← f.sA) (← f.sB) (t.setWidth 32)
  | 0x7 => do return .cpy2 h f.chan (← specS f.d) (← f.sA) (← f.sB) (← e0) (← e1) x0
  | 0x8 => do return .cpyg h f.chan (← specS f.d) (← f.sA) (← f.sB) (← e0) (← e1) x0
  | 0x9 => if f.imm = 1#12 then .ok (.cpwait h f.chan none) else do return .cpwait h f.chan (some (← f.sA))
  | 0xA => do return .cpstat h f.chan (← specS f.d)
  | 0xB => do return .cpfill h f.chan (← specS f.d) (← f.sA) (← f.sB) (t.setWidth 32)
  | _ => .error .unassigned

/-- Class 6 (R289). -/
def parse6 (h : Hd) (f : Fields) (t : BitVec 64) (n : Nat) : Except DecodeErr Instr :=
  let off := t.setWidth 32
  match n with
  | 0x0 => do return .spawn h (← f.sA)
  | 0x1 => do return .bar h (← sel (Scope.ofCode f.fn.toNat))
  | 0x2 => do return .barw h (← sel (Scope.ofCode f.fn.toNat)) (← specS f.d) (← f.sb)
  | 0x3 => do return .waitf h (← specS f.d) (← f.sA) (← f.sb)
  | 0x4 => do return .send h (← f.sA) (← f.sC) off
  | 0x5 => do return .post h (← f.sA) (← f.sb)
  | 0x6 => do return .vtadv h (← f.sb)
  | 0x7 => do return .cnew h (← f.sA) off
  | 0x8 => do return .cins h (← f.sA) (← f.sB) off
  | 0x9 => do return .cdel h (← f.sA)
  | 0xA => do return .cset h (← f.sA) (← f.sB) off
  | 0xB => do return .cget h (← specS f.d) (← f.sb)
  | 0xC => .ok (.cship h)
  | 0xD => .ok (.cdone h)
  | _ => .error .unassigned

/-- Class 7 (R337). -/
def parse7 (h : Hd) (f : Fields) (n : Nat) : Except DecodeErr Instr :=
  match n with
  | 0x0 => do return .mfc h (← specS f.d) f.imm
  | 0x1 => do return .mtc h (← f.sA) f.imm
  | 0x2 => .ok (.eret h (f.imm.getLsbD 0))
  | 0x3 =>
    match f.imm.toNat with
    | 0 => .ok (.tlbiAll h)
    | 1 => do return .tlbiVa h (← f.sA)
    | 2 => do return .tlbiIpa h (← f.sA)
    | _ => .error .badSelector
  | 0x4 =>
    match f.imm.toNat with
    | 0 => do return .sectTag h (← f.sA) (← f.sB)
    | 1 => do return .sectZero h (← f.sA)
    | 2 => do return .sectClrp h (← f.sA)
    | _ => .error .badSelector
  | 0x5 => do return .creinj h (← f.sA)
  | 0x6 => .ok (.snap h)
  | 0x7 => do return .idle h (← specS f.d) (← f.sb)
  | 0x8 => do return .resume h (← f.sA) (← f.sb)
  | _ => .error .unassigned

/-- An instruction from its fields, its tail and its head bits, by class (R114); the fields it does not use are not looked
at here. -/
def parse (h : Hd) (f : Fields) (t : BitVec 64) : Except DecodeErr Instr :=
  let n := f.op.toNat % 128
  match f.op.toNat / 128 with
  | 0 => parse0 h f t n
  | 1 => parse1 h f t n
  | 2 => parse2 h f n
  | 3 => parse3 h f n
  | 4 => parse4 h f n
  | 5 => parse5 h f t n
  | 6 => parse6 h f t n
  | _ => parse7 h f n

/-! ### Instructions to fields: the encoding tables of R134, R150, R176, R183, R224, R247, R289, R337 -/

/-- A base word with nothing but OP, W and S. -/
def Fields.base (h : Hd) (op : Nat) : Fields where
  len := 0
  w := h.w
  s := h.live.isSome
  op := BitVec.ofNat 10 op
  fn := 0
  d := 0
  a := 0
  b := 0
  c := 0
  k := 0
  m := 0
  imm := 0

/-- K bits of A, B, C (R103). -/
def kBits (a b c : Bool) : BitVec 3 := BitVec.ofBool c ++ BitVec.ofBool b ++ BitVec.ofBool a

/-- Specifier of a class-1 source. -/
def ISrc.spec : ISrc → BitVec 7
  | .s r _ => codeS r
  | .m r => codeM r
/-- K bit of a class-1 source. -/
def ISrc.kb : ISrc → Bool
  | .s _ k => k
  | .m _ => false
/-- Specifier of a class-1 destination. -/
def IDst.spec : IDst → BitVec 7
  | .s r => codeS r
  | .m r => codeM r
/-- B, its K bit and IMM12 of a class-1 operand B. -/
def IB.enc : IB → BitVec 7 × Bool × BitVec 12
  | .reg x => (x.spec, x.kb, 0)
  | .imm v => (127, false, v)
/-- B, its K bit and IMM12 of a scalar operand B. -/
def SB.enc : SB → BitVec 7 × Bool × BitVec 12
  | .reg x => (codeS x.r, x.k, 0)
  | .imm v => (127, false, v)
/-- B, its K bit and IMM12 of a vector operand B. -/
def VB.enc : VB → BitVec 7 × Bool × BitVec 12
  | .reg x => (codeV x.r, x.k, 0)
  | .imm v => (127, false, v)
/-- KMOV's source. -/
def SKSrc.enc : SKSrc → BitVec 7 × Bool
  | .s x => (codeS x.r, x.k)
  | .k x => (codeK x.r, x.k)
/-- KMOV's destination. -/
def SKDst.spec : SKDst → BitVec 7
  | .s r => codeS r
  | .k r => codeK r
/-- VIOTA's destination. -/
def VKDst.spec : VKDst → BitVec 7
  | .v r => codeV r
  | .k r => codeK r

/-- A four-bit FN from a number. -/
def fnc (n : Nat) : BitVec 4 := BitVec.ofNat 4 n
/-- FN of a class-1 instruction (R106). -/
def fnW (w32 : Bool) : BitVec 4 := if w32 then 1#4 else 0#4
/-- FN of a rounding class-2 instruction (R106). -/
def fnF (t : FFmt) (m : Rnd) : BitVec 4 := fnc (4 * m.code + t.code)
/-- C of a scope (R107). -/
def cScope (s : Scope) : BitVec 7 := BitVec.ofNat 7 s.code
/-- M of an ordering (R107). -/
def mOrd (o : Ord) : BitVec 3 := BitVec.ofNat 3 o.code
/-- M of a mask register (R107). -/
def mMask (k : Fin 8) : BitVec 3 := BitVec.ofNat 3 k.val

/-- Fields of a class-1 instruction of D, A, B. -/
def encI3 (h : Hd) (op : Nat) (fn : BitVec 4) (d : IDst) (a : ISrc) (b : IB) : Fields :=
  { Fields.base h op with fn := fn, d := d.spec, a := a.spec, b := b.enc.1, k := kBits a.kb b.enc.2.1 false, imm := b.enc.2.2 }
/-- Fields of a class-1 instruction of D, A. -/
def encI2 (h : Hd) (op : Nat) (w32 : Bool) (d : IDst) (a : ISrc) : Fields :=
  { Fields.base h op with fn := fnW w32, d := d.spec, a := a.spec, k := kBits a.kb false false }
/-- Fields of a class-2 instruction of D, A, B. -/
def encF3 (h : Hd) (op : Nat) (fn : BitVec 4) (d : Fin 32) (a b : SSrc) : Fields :=
  { Fields.base h op with fn := fn, d := codeS d, a := codeS a.r, b := codeS b.r, k := kBits a.k b.k false }
/-- Fields of a class-2 instruction of D, A. -/
def encF2 (h : Hd) (op : Nat) (fn : BitVec 4) (d : Fin 32) (a : SSrc) (imm : BitVec 12) : Fields :=
  { Fields.base h op with fn := fn, d := codeS d, a := codeS a.r, k := kBits a.k false false, imm := imm }
/-- Fields of an address operand. -/
def Fields.withAddr (f : Fields) (ad : Addr) : Fields :=
  { f with a := codeS ad.a.r, b := ad.b.enc.1, k := kBits ad.a.k ad.b.enc.2.1 false, imm := ad.b.enc.2.2 }
/-- Fields of a class-3 access. -/
def encMem (h : Hd) (op : Nat) (fn : BitVec 4) (m : Ord) (sc : Scope) (d : BitVec 7) (ad : Addr) : Fields :=
  { (Fields.base h op).withAddr ad with fn := fn, m := mOrd m, c := cScope sc, d := d }
/-- Fields of an atomic. -/
def encAtomic (h : Hd) (op : Nat) (dw : Bool) (o : Ord) (sc : Scope) (d : Fin 32) (a : SSrc) (b : SB) : Fields :=
  encMem h op (if dw then 3 else 2) o sc (codeS d) ⟨a, b⟩
/-- Fields of a vector instruction of D, A, B. -/
def encV3 (h : Hd) (op : Nat) (t : ETy) (k : Fin 8) (d : Fin 32) (a b : VSrc) : Fields :=
  { Fields.base h op with
    fn := fnc t.code, m := mMask k, d := codeV d, a := codeV a.r, b := codeV b.r, k := kBits a.k b.k false }
/-- Fields of a vector instruction of D, A. -/
def encV2 (h : Hd) (op : Nat) (t : ETy) (k : Fin 8) (d : Fin 32) (a : VSrc) : Fields :=
  { Fields.base h op with fn := fnc t.code, m := mMask k, d := codeV d, a := codeV a.r, k := kBits a.k false false }
/-- Fields of a vector shift. -/
def encVS (h : Hd) (op : Nat) (t : ETy) (k : Fin 8) (d : Fin 32) (a : VSrc) (b : VB) : Fields :=
  { Fields.base h op with
    fn := fnc t.code, m := mMask k, d := codeV d, a := codeV a.r, b := b.enc.1, k := kBits a.k b.enc.2.1 false
    imm := b.enc.2.2 }
/-- Fields of a vector memory access. -/
def encVMem (h : Hd) (op : Nat) (t : ETy) (k : Fin 8) (ad : Addr) : Fields :=
  { (Fields.base h op).withAddr ad with fn := fnc t.code, m := mMask k }
/-- Fields with an operand A alone. -/
def encA (h : Hd) (op : Nat) (a : SSrc) (imm : BitVec 12) : Fields :=
  { Fields.base h op with a := codeS a.r, k := kBits a.k false false, imm := imm }
/-- Fields with a B that may be an immediate, and D. -/
def encDB (h : Hd) (op : Nat) (d : BitVec 7) (b : SB) : Fields :=
  { Fields.base h op with d := d, b := b.enc.1, k := kBits false b.enc.2.1 false, imm := b.enc.2.2 }
/-- Fields with A and a B that may be an immediate, and D. -/
def encDAB (h : Hd) (op : Nat) (d : BitVec 7) (a : SSrc) (b : SB) : Fields :=
  { Fields.base h op with d := d, a := codeS a.r, b := b.enc.1, k := kBits a.k b.enc.2.1 false, imm := b.enc.2.2 }
/-- Fields of a copy command. -/
def encCpy (h : Hd) (op : Nat) (len : BitVec 2) (ch : Fin 4) (d : Fin 32) (a b : SSrc) : Fields :=
  { Fields.base h op with
    len := len, fn := fnc ch.val, d := codeS d, a := codeS a.r, b := codeS b.r, k := kBits a.k b.k false }
/-- An IMM32 tail (R109). -/
def tail32 (x : BitVec 32) : BitVec 64 := x.setWidth 64
/-- An extension word with E0, E1, X0 and X1 (R111). -/
def tailExt (e0 e1 : SSrc) (x0 x1 : BitVec 16) : BitVec 64 :=
  x1 ++ x0 ++ 0#2 ++ BitVec.ofBool e1.k ++ BitVec.ofBool e0.k ++ 0#14 ++ codeS e1.r ++ codeS e0.r

/-- The fields and the tail that encode an instruction; none for a live-mask word and for an event. -/
def Instr.enc : Instr → Option (Fields × BitVec 64)
  -- class 0
  | .nop h => some (Fields.base h 0x000, 0)
  | .br h c a b off => some ({ encF3 h 0x001 (fnc c.code) 0 a b with imm := off }, 0)
  | .bri h c a imm off =>
    some ({ encA h 0x002 a imm with len := 1, fn := fnc c.code, b := 127 }, tail32 off)
  | .bk h t a b off =>
    some ({ Fields.base h 0x003 with fn := fnc t.code, a := codeK a.r, b := codeK b.r, k := kBits a.k b.k false, imm := off }, 0)
  | .jmp h off => some ({ Fields.base h 0x004 with len := 1 }, tail32 off)
  | .jmpr h a off => some (encA h 0x005 a off, 0)
  | .call h off => some ({ Fields.base h 0x006 with len := 1 }, tail32 off)
  | .callr h a off => some (encA h 0x007 a off, 0)
  | .ret h => some (Fields.base h 0x008, 0)
  | .xcall h off => some ({ Fields.base h 0x009 with len := 1 }, tail32 off)
  | .xcallr h a off => some (encA h 0x00A a off, 0)
  | .xret h => some (Fields.base h 0x00B, 0)
  | .gate h => some (Fields.base h 0x00C, 0)
  | .ends h => some (Fields.base h 0x00D, 0)
  | .yield h a b => some (encDAB h 0x00E 0 a b, 0)
  | .trap h imm => some ({ Fields.base h 0x00F with imm := imm }, 0)
  | .svc h imm => some ({ Fields.base h 0x010 with imm := imm }, 0)
  | .bkpt h imm => some ({ Fields.base h 0x011 with imm := imm }, 0)
  | .graft h d a b r => some ({ encF3 h 0x012 0 0 a b with d := codeH d, imm := r.setWidth 12 }, 0)
  -- class 1
  | .add h w d a b => some (encI3 h 0x080 (fnW w) d a b, 0)
  | .sub h w d a b => some (encI3 h 0x081 (fnW w) d a b, 0)
  | .mul h w d a b => some (encI3 h 0x082 (fnW w) d a b, 0)
  | .mulh h w d a b => some (encI3 h 0x083 (fnW w) d a b, 0)
  | .mulhu h w d a b => some (encI3 h 0x084 (fnW w) d a b, 0)
  | .div h w d a b => some (encI3 h 0x085 (fnW w) d a b, 0)
  | .divu h w d a b => some (encI3 h 0x086 (fnW w) d a b, 0)
  | .rem h w d a b => some (encI3 h 0x087 (fnW w) d a b, 0)
  | .remu h w d a b => some (encI3 h 0x088 (fnW w) d a b, 0)
  | .and h w d a b => some (encI3 h 0x089 (fnW w) d a b, 0)
  | .or h w d a b => some (encI3 h 0x08A (fnW w) d a b, 0)
  | .xor h w d a b => some (encI3 h 0x08B (fnW w) d a b, 0)
  | .andn h w d a b => some (encI3 h 0x08C (fnW w) d a b, 0)
  | .shl h w d a b => some (encI3 h 0x08D (fnW w) d a b, 0)
  | .shr h w d a b => some (encI3 h 0x08E (fnW w) d a b, 0)
  | .sar h w d a b => some (encI3 h 0x08F (fnW w) d a b, 0)
  | .rol h w d a b => some (encI3 h 0x090 (fnW w) d a b, 0)
  | .min h w d a b => some (encI3 h 0x091 (fnW w) d a b, 0)
  | .max h w d a b => some (encI3 h 0x092 (fnW w) d a b, 0)
  | .minu h w d a b => some (encI3 h 0x093 (fnW w) d a b, 0)
  | .maxu h w d a b => some (encI3 h 0x094 (fnW w) d a b, 0)
  | .set h c w d a b => some (encI3 h 0x095 (fnc (2 * c.code + w.toNat)) d a b, 0)
  | .sel h w d a b c =>
    some ({ encI3 h 0x096 (fnW w) d a b with c := codeS c.r, k := kBits a.kb b.enc.2.1 c.k }, 0)
  | .clz h w d a => some (encI2 h 0x097 w d a, 0)
  | .ctz h w d a => some (encI2 h 0x098 w d a, 0)
  | .popc h w d a => some (encI2 h 0x099 w d a, 0)
  | .ext h w d a b => some (encI3 h 0x09A (fnW w) d a b, 0)
  | .extu h w d a b => some (encI3 h 0x09B (fnW w) d a b, 0)
  | .ins h w d a b c =>
    some ({ encI3 h 0x09C (fnW w) d a b with c := codeS c.r, k := kBits a.kb b.enc.2.1 c.k }, 0)
  | .lea h d a b sh => some ({ encI3 h 0x09D 0 d a (.reg b) with imm := sh.setWidth 12 }, 0)
  | .li h d imm => some ({ Fields.base h 0x09E with len := 1, d := d.spec }, tail32 imm)
  | .liX h d imm => some ({ Fields.base h 0x09E with len := 2, d := d.spec }, imm)
  | .bswap h w d a => some (encI2 h 0x09F w d a, 0)
  -- class 2
  | .fadd h f m d a b => some (encF3 h 0x100 (fnF f m) d a b, 0)
  | .fsub h f m d a b => some (encF3 h 0x101 (fnF f m) d a b, 0)
  | .fmul h f m d a b => some (encF3 h 0x102 (fnF f m) d a b, 0)
  | .fma h f m d a b c => some ({ encF3 h 0x103 (fnF f m) d a b with c := codeS c.r, k := kBits a.k b.k c.k }, 0)
  | .fnms h f m d a b c => some ({ encF3 h 0x104 (fnF f m) d a b with c := codeS c.r, k := kBits a.k b.k c.k }, 0)
  | .fdiv h f m d a b => some (encF3 h 0x105 (fnF f m) d a b, 0)
  | .fsqrt h f m d a => some (encF2 h 0x106 (fnF f m) d a 0, 0)
  | .fmin h f d a b => some (encF3 h 0x107 (fnc f.code) d a b, 0)
  | .fmax h f d a b => some (encF3 h 0x108 (fnc f.code) d a b, 0)
  | .fabs h f d a => some (encF2 h 0x109 (fnc f.code) d a 0, 0)
  | .fneg h f d a => some (encF2 h 0x10A (fnc f.code) d a 0, 0)
  | .fset h f c d a b => some ({ encF3 h 0x10B (fnc f.code) d a b with imm := BitVec.ofNat 12 c.code }, 0)
  | .fclass h f d a => some (encF2 h 0x10C (fnc f.code) d a 0, 0)
  | .fcvt h df m sf d a => some (encF2 h 0x10D (fnF df m) d a (BitVec.ofNat 12 sf.code), 0)
  | .ftoi h sf m iw d a => some (encF2 h 0x10E (fnF sf m) d a (BitVec.ofNat 12 iw.code), 0)
  | .itof h df m u d a => some (encF2 h 0x10F (fnF df m) d a (if u then 1 else 0), 0)
  -- class 3
  | .ld h sz sx q sc d ad =>
    some (encMem h 0x180 (fnc (4 * sx.toNat + sz.code)) (if q then .acq else .plain) sc (codeS d) ad, 0)
  | .st h sz q sc d ad => some (encMem h 0x181 (fnc sz.code) (if q then .rel else .plain) sc (codeS d) ad, 0)
  | .ldf h sz sx q sc d ad =>
    some (encMem h 0x182 (fnc (4 * sx.toNat + sz.code)) (if q then .acq else .plain) sc (codeS d) ad, 0)
  | .stf h sz q sc d ad => some (encMem h 0x183 (fnc sz.code) (if q then .rel else .plain) sc (codeS d) ad, 0)
  | .sete h sz q sc ad => some (encMem h 0x184 (fnc sz.code) (if q then .rel else .plain) sc 0 ad, 0)
  | .pref h l2 ad => some ({ (Fields.base h 0x185).withAddr ad with c := if l2 then 1 else 0 }, 0)
  | .fence h o sc => some ({ Fields.base h 0x186 with m := mOrd o, c := cScope sc }, 0)
  | .ifence h sc => some ({ Fields.base h 0x187 with c := cScope sc }, 0)
  | .cinv h none => some ({ Fields.base h 0x188 with c := 1 }, 0)
  | .cinv h (some ad) => some ((Fields.base h 0x188).withAddr ad, 0)
  | .repl h g ad => some ({ (Fields.base h 0x189).withAddr ad with c := BitVec.ofNat 7 g.code }, 0)
  | .aadd h dw o sc d a b => some (encAtomic h 0x18A dw o sc d a b, 0)
  | .aand h dw o sc d a b => some (encAtomic h 0x18B dw o sc d a b, 0)
  | .aor h dw o sc d a b => some (encAtomic h 0x18C dw o sc d a b, 0)
  | .axor h dw o sc d a b => some (encAtomic h 0x18D dw o sc d a b, 0)
  | .amin h dw o sc d a b => some (encAtomic h 0x18E dw o sc d a b, 0)
  | .amax h dw o sc d a b => some (encAtomic h 0x18F dw o sc d a b, 0)
  | .aminu h dw o sc d a b => some (encAtomic h 0x190 dw o sc d a b, 0)
  | .amaxu h dw o sc d a b => some (encAtomic h 0x191 dw o sc d a b, 0)
  | .aswp h dw o sc d a b => some (encAtomic h 0x192 dw o sc d a b, 0)
  | .acas h dw o sc d a b => some (encAtomic h 0x193 dw o sc d a b, 0)
  | .adec h o sc d a =>
    some ({ encA h 0x194 a 0 with fn := 3, m := mOrd o, c := cScope sc, d := codeS d }, 0)
  | .radd h dw q sc a b =>
    some ({ encF3 h 0x195 (if dw then 3 else 2) 0 a b with m := mOrd (if q then .rel else .plain), c := cScope sc }, 0)
  -- class 4
  | .vld h t k d ad => some ({ encVMem h 0x200 t k ad with d := codeV d }, 0)
  | .vst h t k ad c =>
    some ({ encVMem h 0x201 t k ad with c := codeV c.r, k := kBits ad.a.k ad.b.enc.2.1 c.k }, 0)
  | .vlds h t k d ad => some ({ encVMem h 0x202 t k ad with d := codeV d }, 0)
  | .vsts h t k ad c =>
    some ({ encVMem h 0x203 t k ad with c := codeV c.r, k := kBits ad.a.k ad.b.enc.2.1 c.k }, 0)
  | .vgath h t k d a b sh =>
    some ({ encV3 h 0x204 t k d ⟨a.r, a.k⟩ b with a := codeS a.r, imm := sh.setWidth 12 }, 0)
  | .vscat h t k a b c sh =>
    some ({ encV3 h 0x205 t k 0 ⟨a.r, a.k⟩ b with
      d := 0, a := codeS a.r, c := codeV c.r, k := kBits a.k b.k c.k, imm := sh.setWidth 12 }, 0)
  | .vadd h t k d a b => some (encV3 h 0x206 t k d a b, 0)
  | .vsub h t k d a b => some (encV3 h 0x207 t k d a b, 0)
  | .vmul h t k d a b => some (encV3 h 0x208 t k d a b, 0)
  | .vfma h t k d a b c => some ({ encV3 h 0x209 t k d a b with c := codeV c.r, k := kBits a.k b.k c.k }, 0)
  | .vdiv h t k d a b => some (encV3 h 0x20A t k d a b, 0)
  | .vsqrt h t k d a => some (encV2 h 0x20B t k d a, 0)
  | .vmin h t k u d a b => some ({ encV3 h 0x20C t k d a b with imm := if u then 1 else 0 }, 0)
  | .vmax h t k u d a b => some ({ encV3 h 0x20D t k d a b with imm := if u then 1 else 0 }, 0)
  | .vabs h t k d a => some (encV2 h 0x20E t k d a, 0)
  | .vneg h t k d a => some (encV2 h 0x20F t k d a, 0)
  | .vand h t k d a b => some (encV3 h 0x210 t k d a b, 0)
  | .vor h t k d a b => some (encV3 h 0x211 t k d a b, 0)
  | .vxor h t k d a b => some (encV3 h 0x212 t k d a b, 0)
  | .vshl h t k d a b => some (encVS h 0x213 t k d a b, 0)
  | .vshr h t k d a b => some (encVS h 0x214 t k d a b, 0)
  | .vsar h t k d a b => some (encVS h 0x215 t k d a b, 0)
  | .vcmp h t k c d a b => some ({ encV3 h 0x216 t k 0 a b with d := codeK d, imm := c.setWidth 12 }, 0)
  | .vsel h t k d a b c => some ({ encV3 h 0x217 t k d a b with c := codeK c.r, k := kBits a.k b.k c.k }, 0)
  | .vbcast h t k d a => some ({ encV2 h 0x218 t k d ⟨a.r, a.k⟩ with a := codeS a.r }, 0)
  | .vext h t d a b => some ({ encDAB h 0x219 (codeS d) ⟨a.r, a.k⟩ b with fn := fnc t.code, a := codeV a.r }, 0)
  | .vins h t d a b => some ({ encDAB h 0x21A (codeV d) a b with fn := fnc t.code }, 0)
  | .vperm h t k d a b => some (encV3 h 0x21B t k d a b, 0)
  | .vred h t k op d a => some ({ encV2 h 0x21C t k 0 a with d := codeS d, imm := BitVec.ofNat 12 op.code }, 0)
  | .vcvt h t k src m sat part d a =>
    some ({ encV2 h 0x21D t k d a with
      imm := 0#1 ++ part ++ 0#1 ++ BitVec.ofBool sat ++ BitVec.ofNat 2 m.code ++ src }, 0)
  | .vqntScaled h t k m sat part d a c =>
    some ({ encV2 h 0x21E t k d a with
      c := codeS c.r, k := kBits a.k false c.k, imm := 0#2 ++ part ++ 0#5 ++ BitVec.ofBool sat ++ BitVec.ofNat 2 m.code }, 0)
  | .vqntBlock h s part d a b =>
    some ({ encV3 h 0x21E .e2m1 0 d a b with imm := 0#1 ++ BitVec.ofBool s ++ part ++ 0#8 }, 0)
  | .kop h op d a none =>
    some ({ Fields.base h 0x21F with d := codeK d, a := codeK a.r, k := kBits a.k false false, imm := if op = .and then 4 else 7 }, 0)
  | .kop h op d a (some b) =>
    some ({ Fields.base h 0x21F with
      d := codeK d, a := codeK a.r, b := codeK b.r, k := kBits a.k b.k false, imm := BitVec.ofNat 12 op.code }, 0)
  | .kmov h d a => some ({ Fields.base h 0x220 with d := d.spec, a := a.enc.1, k := kBits a.enc.2 false false }, 0)
  | .kpop h t d a =>
    some ({ Fields.base h 0x221 with fn := fnc t.code, d := codeS d, a := codeK a.r, k := kBits a.k false false }, 0)
  | .viota h t k d => some ({ Fields.base h 0x222 with fn := fnc t.code, m := mMask k, d := d.spec }, 0)
  -- class 5
  | .mma h t sat d a b sa sb =>
    some ({ encF3 h 0x280 (fnc t.code) 0 a b with len := 1, d := codeA d, m := if sat then 1 else 0 }, tail32 (sb ++ sa))
  | .mmaBx4 h d a b e0 e1 x0 x1 =>
    some ({ encF3 h 0x280 10 0 a b with len := 2, d := codeA d }, tailExt e0 e1 x0 x1)
  | .mzero h d => some ({ Fields.base h 0x281 with d := codeA d }, 0)
  | .mlda h d a b => some (encDAB h 0x282 (codeA d) a b, 0)
  | .msta h t sat d a none x =>
    some ({ encA h 0x283 a 0 with len := 1, fn := fnc t.code, d := codeA d }, tail32 (0#15 ++ BitVec.ofBool sat ++ x))
  | .msta h t sat d a (some c) x =>
    some ({ encA h 0x283 a 0 with
      len := 1, fn := fnc t.code, d := codeA d, c := codeS c.r, k := kBits a.k false c.k }, tail32 (0#15 ++ BitVec.ofBool sat ++ x))
  | .mova h d a b => some ({ encDB h 0x284 (codeV d) b with a := codeA a }, 0)
  | .cpy h ch d a b imm => some (encCpy h 0x286 1 ch d a b, tail32 imm)
  | .cpy2 h ch d a b e0 e1 x0 => some (encCpy h 0x287 2 ch d a b, tailExt e0 e1 x0 0)
  | .cpyg h ch d a b e0 e1 x0 => some (encCpy h 0x288 2 ch d a b, tailExt e0 e1 x0 0)
  | .cpwait h ch none => some ({ Fields.base h 0x289 with fn := fnc ch.val, imm := 1 }, 0)
  | .cpwait h ch (some a) => some ({ encA h 0x289 a 0 with fn := fnc ch.val }, 0)
  | .cpstat h ch d => some ({ Fields.base h 0x28A with fn := fnc ch.val, d := codeS d }, 0)
  | .cpfill h ch d a b imm => some (encCpy h 0x28B 1 ch d a b, tail32 imm)
  -- class 6
  | .spawn h a => some (encA h 0x300 a 0, 0)
  | .bar h l => some ({ Fields.base h 0x301 with fn := fnc l.code }, 0)
  | .barw h l d b => some ({ encDB h 0x302 (codeS d) b with fn := fnc l.code }, 0)
  | .waitf h d a b => some (encDAB h 0x303 (codeS d) a b, 0)
  | .send h a c off =>
    some ({ encA h 0x304 a 0 with len := 1, c := codeS c.r, k := kBits a.k false c.k }, tail32 off)
  | .post h a b => some (encDAB h 0x305 0 a b, 0)
  | .vtadv h b => some (encDB h 0x306 0 b, 0)
  | .cnew h a len => some ({ encA h 0x307 a 0 with len := 1 }, tail32 len)
  | .cins h a b off => some ({ encF3 h 0x308 0 0 a b with len := 1 }, tail32 off)
  | .cdel h a => some (encA h 0x309 a 0, 0)
  | .cset h a b off => some ({ encF3 h 0x30A 0 0 a b with len := 1 }, tail32 off)
  | .cget h d b => some (encDB h 0x30B (codeS d) b, 0)
  | .cship h => some (Fields.base h 0x30C, 0)
  | .cdone h => some (Fields.base h 0x30D, 0)
  -- class 7
  | .mfc h d r => some ({ Fields.base h 0x380 with d := codeS d, imm := r }, 0)
  | .mtc h a r => some (encA h 0x381 a r, 0)
  | .eret h nx => some ({ Fields.base h 0x382 with imm := if nx then 1 else 0 }, 0)
  | .tlbiAll h => some (Fields.base h 0x383, 0)
  | .tlbiVa h a => some (encA h 0x383 a 1, 0)
  | .tlbiIpa h a => some (encA h 0x383 a 2, 0)
  | .sectTag h a b => some (encF3 h 0x384 0 0 a b, 0)
  | .sectZero h a => some (encA h 0x384 a 1, 0)
  | .sectClrp h a => some (encA h 0x384 a 2, 0)
  | .creinj h a => some (encA h 0x385 a 0, 0)
  | .snap h => some (Fields.base h 0x386, 0)
  | .idle h d b => some (encDB h 0x387 (codeS d) b, 0)
  | .resume h a b => some (encDAB h 0x388 0 a b, 0)
  | _ => none

/-! ### Decode and encode -/

/-- A fetched word: the base word, its tail (zero where LEN gives none, zero-extended where it is IMM32) and the 8 bytes
after the instruction. -/
structure Raw where
  base : BitVec 64
  tail : BitVec 64
  live : BitVec 64
  deriving DecidableEq, Repr

/-- A word whose LEN is 0b11 and whose bits [63:61] are zero (R105, R113). -/
def isLiveMask (x : BitVec 64) : Bool := x.extractLsb' 0 2 == 3#2 && x.extractLsb' 61 3 == 0#3

/-- Decode (R115), except its last check, PRIV, which needs the fetch domain. -/
def decodeRaw (r : Raw) : Except DecodeErr Instr :=
  let f := Fields.unpack r.base
  if f.len = 3#2 then
    if isLiveMask r.base then .ok (.liveMaskWord (r.base.extractLsb' 2 59)) else .error .liveMask
  else if !opAssigned f.op.toNat then .error .unassigned
  else if !lenPermitted f.op.toNat f.fn.toNat f.len.toNat then .error .badLength
  else if f.s && !isLiveMask r.live then .error .noLiveMask
  else
    let h : Hd := ⟨f.w, if f.s then some (r.live.extractLsb' 2 59) else none⟩
    match parse h f r.tail with
    | .error e => .error e
    | .ok i => if !i.wf then .error .badSelector else if i.enc = some (f, r.tail) then .ok i else .error .unusedField

/-- The fetched word of a little-endian value (R99). -/
def Raw.ofNat (v : Nat) : Raw :=
  let len := v % 4
  { base := BitVec.ofNat 64 v
    tail := if len = 1 then BitVec.ofNat 64 (v / 2 ^ 64 % 2 ^ 32) else if len = 2 then BitVec.ofNat 64 (v / 2 ^ 64) else 0
    live := BitVec.ofNat 64 (v / 2 ^ (8 * lenBytes (BitVec.ofNat 2 len))) }

/-- Little-endian value of bytes (R3, R99). -/
def bytesToNat : List Byte → Nat
  | [] => 0
  | b :: bs => b.toNat + 256 * bytesToNat bs

/-- The n low bytes of a value, lowest first (R3). -/
def natToBytes : Nat → Nat → List Byte
  | 0, _ => []
  | n + 1, v => BitVec.ofNat 8 v :: natToBytes n (v / 256)

/-- Decode bytes: the instruction and how many bytes it takes with its live-mask word. Total; refuses by name. -/
def decode (bs : List Byte) : Except DecodeErr (Instr × Nat) :=
  let v := bytesToNat bs
  if bs.length < 8 ∨ bs.length < measure (BitVec.ofNat 64 v) then .error .short
  else match decodeRaw (Raw.ofNat v) with
    | .ok i => .ok (i, measure (BitVec.ofNat 64 v))
    | .error e => .error e

/-- The little-endian value of an instruction, its live-mask word included (R99, R105, R113); none for an event. -/
def Instr.value (i : Instr) : Option (Nat × Nat) :=
  match i with
  | .liveMaskWord bits => some (8, bits.toNat * 4 + 3)
  | _ =>
    match i.enc, i.hd with
    | some (f, t), some h =>
      let n := lenBytes f.len
      let v := f.pack.toNat + t.toNat * 2 ^ 64
      match h.live with
      | none => some (n, v)
      | some bits => some (n + 8, v + (bits.toNat * 4 + 3) * 2 ^ (8 * n))
    | _, _ => none

/-- The bytes of an instruction, its live-mask word included; none for an event. -/
def encode (i : Instr) : Option (List Byte) := i.value.map fun (n, v) => natToBytes n v

/-- Length in bytes of an instruction without its live-mask word (R99). -/
def Instr.bytes (i : Instr) : Nat :=
  match i.enc with
  | some (f, _) => lenBytes f.len
  | none => 8

/-- Bytes to the next instruction in line: the live-mask word of an S = 1 instruction is passed (R136). -/
def Hd.after (h : Hd) (n : Nat) : Nat := n + (if h.live.isSome then 8 else 0)

/-- The instruction read from `nbits` bits numbered from the first byte's least significant bit; bits above are zero. -/
def decodeTableWord (nbits w : Nat) : Option Instr :=
  match decode (natToBytes 24 (w % 2 ^ nbits)) with
  | .ok (i, _) => some i
  | .error _ => none

end Sys2Proof
end

