-- ==== Sys2Proof/Config.lean ====
section
/-! DEFINITION. What one part fixes, and the free values: constants without a body, about which nothing can be proved
but what holds for every value. -/
namespace Sys2Proof

/-- The product: true for the module ZK8-M-1920L, false for the bare package ZK8-P-1920B (R2, R367). -/
opaque Config.isModule : Bool

/-- A choice the spec leaves open (R8). -/
opaque Config.freeBool : Nat → Bool

/-- How bring-up ends (R364): the spec gives the ways and leaves open which. -/
opaque Config.bringUp : Nat → BringUp

/-- Which of the steps that may come next comes next, where the spec gives no order among them. -/
opaque Config.choice : Nat → Nat

/-- How many free choices come before the next event that the progress promise owes (R82): any finite number. -/
opaque Config.patience : Nat → Nat

/-- How many MSI-X vectors a function has (R352). -/
opaque Config.msixVectors : Nat → Nat

end Sys2Proof
end

