-- ==== Sys2Proof/Machine/State.lean ====
section
/-! DEFINITION. The state of one ZK8 package: plain data, holding every piece of state the spec gives the machine
(INVENTORY.md lists each with its rule), the reasons a step can stop, and the state after reset. -/
namespace Sys2Proof.Machine

/-- A finite map: pairs with strictly rising keys. -/
abbrev NMap (β : Type) := List (Nat × β)

/-- Bytes by address: pairs with strictly rising addresses, none of value zero (what an unlisted address reads as). -/
abbrev Memory := List Host.Cell

/-! ### Registers of a strand -/

/-- A register: its value or freed (R128), its place in the pending set (R120), the long-latency result that may still
write it (R120), and its poison mark (R334). -/
structure RegCell (n : Nat) where
  val    : Option (BitVec n)
  pend   : Bool
  late   : Option Nat
  poison : Bool
  deriving DecidableEq, Repr

/-- A freed register. -/
def RegCell.freed {n : Nat} : RegCell n := ⟨none, false, none, false⟩

/-- A full mail register: the word, and its sender's NX and timestamp (R129, R301, R304). -/
structure Mail where
  word : Word
  nx   : Bool
  ts   : Nat
  deriving DecidableEq, Repr

/-- A graft (R90): bit 0 of rights is READ, bit 1 WRITE. -/
structure Graft where
  base   : Word
  len    : Nat
  rights : BitVec 2
  deriving DecidableEq, Repr

/-- Four staged or active grafts. -/
abbrev Grafts := Vector (Option Graft) 4

/-- The active set of one crossing, with its grantor and its base depth; the outer set is the next frame (R90, R127, R141). It
is kept beside the crossing record that also holds it, so a write of software to a spilled record does not change it while the crossing is
open: the model's choice (log 70). -/
structure Frame where
  grafts  : Grafts
  grantor : Dom
  base    : Nat
  deriving DecidableEq, Repr

/-- A crossing record (R141). -/
structure CrossRec where
  ret    : Word
  dom    : Dom
  base   : Nat
  g      : Vector (RegCell 64) 8
  staged : Grafts
  deriving DecidableEq, Repr

/-- The l and i registers of one window (R123). -/
structure Window where
  l : Vector (RegCell 64) 8
  i : Vector (RegCell 64) 8
  deriving DecidableEq, Repr

/-- Where a long-latency result goes (R119): the scalar or vector register that carries its number, or nowhere. -/
inductive LateVal where
  | s (v : Word)
  | v (v : Vec) (lanes : BitVec 64) (lane : Nat)
  | none
  deriving DecidableEq, Repr

/-- A leaf of a translation (R213, R217), combined over both stages. -/
structure Leaf where
  pa   : Nat
  tag  : Dom
  repl : BitVec 2
  nc   : Bool
  sync : Bool
  pubw : Bool
  pubr : Bool
  d    : Bool
  x    : Bool
  w    : Bool
  r    : Bool
  deriving DecidableEq, Repr

/-- Which of the places of R277 serves a read. -/
inductive LoadAt where
  | l1 | l2 | home
  deriving DecidableEq, Repr

/-- Where an access that is still to be performed goes: device memory through a leaf, the host window (`ro` with W = 0), the scratchpad
of another core of this package, or the strand's own. -/
inductive LoadFrom where
  | mem (l : Leaf) (k : LoadAt)
  | host (ro : Bool)
  | far (pcore : Nat)
  | own
  deriving DecidableEq, Repr

/-- What a store does at its target: bytes, with the full bit set (STF) or only the full bit cleared (SETE, no bytes). -/
inductive StKind where
  | plain | full | empty
  deriving DecidableEq, Repr

/-- A release carried by a store-buffer entry, or by an operation at a home (R228, R272). -/
structure RelInfo where
  sc   : Scope
  sig  : Sig
  sync : Bool
  deriving DecidableEq, Repr

/-- What an access that is still to be performed does: a load, an atomic by its number from AADD on, with its operands, an ADEC of
the record at a VA (R238, R240), the last two with the release they carry; or a store to the own scratchpad (R267). -/
inductive LateOp where
  | load
  | rmw (f : Nat) (b cmp : Word) (rel : Option RelInfo)
  | dec (va : Word) (rel : Option RelInfo)
  | put (k : StKind) (v : Word)
  deriving DecidableEq, Repr

/-- A load, an atomic, an ADEC or a store to the own scratchpad that has issued and is not yet performed (R265, R267): the lane it fills (0
for a scalar), its place, its physical or host address or its offset in a scratchpad, its bytes, whether it extends the sign, and what it
does. -/
structure DLoad where
  lane : Nat
  src  : LoadFrom
  pa   : Nat
  n    : Nat
  sx   : Bool
  op   : LateOp
  deriving DecidableEq, Repr

/-- An outstanding long-latency result (R119, R120), with the flags it will OR into FFLAGS (R194) and the loads of it that are still to
be performed (R267). -/
structure Late where
  id    : Nat
  val   : LateVal
  flags : BitVec 5
  todo  : List DLoad
  deriving DecidableEq, Repr

/-- A trap (R317, R320). -/
structure TrapInfo where
  cause : Nat
  acc   : Nat
  fdom  : Dom
  pc    : Word
  next  : Word
  addr  : Word
  lanes : Word
  info  : Word
  more  : Nat
  /-- the order in which traps were raised (R319) -/
  ord   : Nat
  deriving DecidableEq, Repr

/-- A handler window (R321): its cause, the pc that trapped, its record's address, its depth, and the crossings open when it
began. -/
structure Handler where
  cause : Nat
  pc    : Word
  recd  : Word
  depth : Nat
  cross : Nat
  deriving DecidableEq, Repr

/-- A word that a save area stores, as it is ordered (R304): its timestamp, its sender's key and number, and its place among that sender's. -/
structure Stamp where
  ts   : Nat
  key  : Nat
  born : Nat
  seq  : Nat
  deriving DecidableEq, Repr

/-- The first failure of a remote store the strand holds, and how many (R283). -/
structure HeldFail where
  cause : Nat
  va    : Word
  acc   : Nat
  count : Nat
  deriving DecidableEq, Repr

/-- UNACK of a saved strand, the REJECT that an acknowledgement has brought since, and the failure that it holds (R282, R283, R290). -/
structure Unacked where
  unack  : Nat
  reject : BitVec 8
  fail   : Option HeldFail
  deriving DecidableEq, Repr

/-- What is kept of a saved strand beside its save area (R331): the number that tells its messages from those of others (R296), the
sender's NX and the timestamp of each mail register that is full, the stamps of the deposits stored there (R303, R304), the poison of
its scalar, vector and mask registers (R334), its number, by which what it has on its way knows it (R266, R282), and the lines that it has
seen at home ahead of an invalidation (R266). -/
structure RestoreMark where
  born  : Nat
  mail  : List (Nat × Bool × Nat)
  deps  : List Stamp
  spois : BitVec 32
  vpois : BitVec 32
  kpois : BitVec 8
  sid   : Nat
  seen  : List Nat
  deriving DecidableEq, Repr

/-- The timestamps of what a save area stores and nothing has consumed (R303). -/
def RestoreMark.times (m : RestoreMark) : List Nat :=
  (m.mail.filterMap fun e => if 1 ≤ e.2.2 then some e.2.2 else none) ++ m.deps.map (·.ts)

/-- What a strand started from (R42, R297, R307, R79). -/
inductive StrandKind where
  | record | handler | stop | service
  deriving DecidableEq, Repr

/-- What of the engines a strand waits for: its matrix commands (R250), every command (R147), a MOVA into a register (R255), a copy
command on a channel, whole or up to an address (R262), the commands that cite a crossing (R93), what its matrix commands
still do with some bytes of its scratchpad (R249), or what any matrix command still does with a section of a unit (R342). -/
inductive CmdWait where
  | matrix
  | all
  | mova (v : Fin 32)
  | copy (ch : Fin 4) (upto : Option Word)
  | cites (n : Nat)
  | bytes (off n : Nat)
  | section_ (u n : Nat)
  deriving DecidableEq, Repr

/-- Why a strand is held (R117). -/
inductive Hold where
  | lates
  | mail (r : Fin 8)
  | barrier
  | fullBit (u : Nat) (word : Nat)
  | timed (word : Option (Nat × Nat))
  | idle (u : Nat) (ctx : Nat) (safe : Bool)
  | command (w : CmdWait)
  | queue (e : Engine)
  | parked
  | walk (id : Nat)
  | remote
  | acquire
  | sbFull
  | release (sc : Scope)
  | trap
  | guest
  | inbox (n : Nat)
  | host (a n : Nat)
  | home (line : Nat)
  | port
  deriving DecidableEq, Repr

/-- How far an engine command has come, for its strand (R46, R92, R263). -/
inductive CmdStatus where
  | live | done | stopped (err : Nat)
  deriving DecidableEq, Repr

/-- An engine command of a strand: a matrix command, a copy on a channel, or a capsule retirement. -/
inductive CmdKind where
  | matrix | copy (ch : Fin 4) | retire
  deriving DecidableEq, Repr

/-- The strand's view of a command it issued: the crossing it cites (R93) and its outcome. -/
structure CmdRec where
  id    : Nat
  kind  : CmdKind
  cites : Option Nat
  st    : CmdStatus
  bytes : Nat
  deriving DecidableEq, Repr

/-- An unconsumed report of a stopped command (R258). -/
structure Report where
  ch    : Fin 4
  err   : Nat
  cites : Option Nat
  deriving DecidableEq, Repr

/-- A remote request of the instruction at the strand's pc, by lane, with its reply (R211, R281). -/
structure RemReq where
  lane  : Nat
  id    : Nat
  va    : Word
  reply : Option RemoteReply
  deriving DecidableEq, Repr

/-- A capsule as a strand holds it (R131, R307). -/
structure HeldCap where
  mort : Fin 2
  stop : Nat
  deriving DecidableEq, Repr

/-- What a release that waits has sent on: the acquire information of a reply (R273, R274). -/
structure AcqInfo where
  line : Nat
  gen  : Nat
  cum  : Sig
  sat  : Bool
  deriving DecidableEq, Repr

/-- What a new strand still does before its first instruction (R41, R331): the trap of a check it has failed, the entry check, and
the restore of a save area, at a VA or at a physical address. -/
structure Start where
  entry   : Bool
  /-- an earlier check that the record failed: cause, access and address -/
  bad     : Option (Nat × Nat × Word)
  restore : Option Word
  phys    : Bool
  deriving DecidableEq, Repr

/-- The vector instruction at the strand's pc has these lanes still to do after a park (R192). -/
structure Replay where
  lanes : BitVec 64
  deriving DecidableEq, Repr

/-- A failed walk (R216–R218, R324): the ACC it records where that is not the access's own (a stage-1 table read 0, an A or D
update 4), the stage, the level, whether the entry was malformed, and the IPA of a failed stage-2 walk; or the poison it met. -/
structure WalkFault where
  acc   : Option Nat
  stage : Bool
  level : Nat
  mal   : Bool
  ipa   : Word
  /-- an entry lies in a line that answers with POISON (R223) -/
  poison : Bool
  deriving DecidableEq, Repr

/-- An instruction-cache line of 64 bytes (05): the partition and VA line, the tag and X of its page, the bytes. -/
structure ILine where
  part : Nat
  vline : Nat
  tag  : Dom
  x    : Bool
  data : BitVec 512
  deriving DecidableEq, Repr

/-- A strand (R42): one hardware context's worth of state. -/
structure Strand where
  sid      : Nat
  kind     : StrandKind
  pc       : Word
  dom      : Dom
  /-- the transfer to pc passes R87 whatever the page's tag -/
  permit   : Bool
  g        : Vector (RegCell 64) 8
  o        : Vector (RegCell 64) 8
  wins     : List Window
  /-- the pending bits [15:0] and poison bits [31:16] of spilled windows, by depth (R120) -/
  spillPend : NMap (BitVec 32)
  v        : Vector (RegCell 512) 32
  k        : Vector (RegCell 64) 8
  mail     : Vector (Option Mail) 8
  staged   : Grafts
  frames   : List Frame
  recs     : List CrossRec
  depth    : Nat
  store    : Nat
  nx       : Bool
  fflags   : BitVec 5
  strict   : Bool
  vtime    : Nat
  caller   : Dom
  launch   : Nat
  reject   : BitVec 8
  unack    : Nat
  cap      : Option HeldCap
  capId    : Word
  wsig     : Sig
  lates    : List Late
  cmds     : List CmdRec
  reports  : List Report
  rem      : List RemReq
  fail     : Option HeldFail
  hold     : Option Hold
  res      : Option Nat
  arrived  : Option Scope
  acq      : Option AcqInfo
  replay   : Option Replay
  faults   : List Nat
  denied   : Option (Nat × Word × Word)
  wfaults  : List (Nat × WalkFault)
  trap     : Option TrapInfo
  handler  : Option Handler
  home     : Option CtxRef
  /-- a guest slot taken by a migration that has not moved the strand yet (R319) -/
  gslot    : Option Nat
  returning : Bool
  start    : Option Start
  preempt  : Bool
  saving   : Option Word
  /-- the save slot a restored strand frees once its restore completes (R331) -/
  slot     : Option (Nat × Nat)
  mask     : Option (BitVec 59)
  pos      : Option Nat
  barPos   : Bool
  /-- the core's accumulators that a0, a1, … stand for (R74) -/
  accs     : List Nat
  prio     : Nat
  ctl      : Word
  lcore    : Nat
  part     : Nat
  startNo  : Nat
  /-- the number by which its messages are told from those of other strands: kept over a save (R43, R296) -/
  born     : Nat
  /-- the mark of its save area, until it is restored (R303, R331) -/
  mark     : Option RestoreMark
  /-- the CYCLE at which the limit of BARW, WAITF or IDLE passes (R294, R295, R345) -/
  limit    : Option Nat
  /-- the word that set the full bit its LDF or WAITF waits for (R231, R295) -/
  seen     : Option Word
  /-- the line that the instruction at pc was fetched from, once it has issued: it completes as fetched (R234) -/
  fetched  : Option ILine
  deriving DecidableEq, Repr

/-! ### Work -/

/-- Where a strand was saved at a safe point (R328, R329): its tile and slot, what it started from, the launch position a stop
strand keeps, and the unit and number of a kept store. -/
structure Saved where
  tile : Nat
  slot : Nat
  kind : StrandKind
  pos  : Option Nat
  kept : Option (Nat × Nat)
  deriving DecidableEq, Repr


/-- An entry of a ready or pinned queue: a copied record (R39) with what rides with it: the launch inherited (R37), the
partition, the restore mark (R331), the pusher's VTIME (R302) and the acquire of R241. -/
structure QEntry where
  /-- the home line of the record; 0 for a generated one -/
  line   : Nat
  addr   : Word
  code   : Word
  frame  : Word
  ctl    : Word
  launch : Nat
  part   : Nat
  index  : Nat
  /-- the restore mark (R331) -/
  mark   : Option RestoreMark
  saved  : Option Saved
  vtime  : Nat
  acq    : Option AcqInfo
  /-- the number of the strand whose pre-emption it has asked for (R80) -/
  asked  : Option Nat
  deriving DecidableEq, Repr

/-- A message (R296): its target core or host queue is with the flight. -/
structure Message where
  words  : Vector Word 4
  entry  : Word
  key    : Nat
  launch : Nat
  nx     : Bool
  dom    : Dom
  ts     : Nat
  born   : Nat
  seq    : Nat
  part   : Nat
  target : Nat
  i4     : Word
  miss   : Option Vec
  deriving DecidableEq, Repr

/-- A deposit (R300). -/
structure Deposit where
  /-- its number once it has arrived -/
  id   : Nat
  mreg : Fin 8
  ctx  : Nat
  word : Word
  nx   : Bool
  ts   : Nat
  key  : Nat
  born : Nat
  seq  : Nat
  launch : Nat
  /-- the strand the deposit is bound to once it has arrived -/
  sid  : Option Nat
  deriving DecidableEq, Repr

/-- An inbox entry (R298, R129). -/
inductive InboxEntry where
  | msg (m : Message)
  | dep (d : Deposit)
  deriving DecidableEq, Repr

/-- Who made a capsule move: the strand and instruction a park names (R335). -/
structure CapBy where
  lcore : Nat
  ctx   : Nat
  kp    : Bool
  own   : Bool
  pc    : Word
  deriving DecidableEq, Repr

/-- A capsule out of a mortise: its 256-byte prefix and its payload (R48), its launch, partition and timestamp. -/
structure Capsule where
  pfx     : List Byte
  payload : List Byte
  launch  : Nat
  part    : Nat
  ts      : Nat
  by_     : Option CapBy
  deriving DecidableEq, Repr

/-- A capsule landed in a mortise (R305); its bytes are in the scratchpad. -/
inductive MortState where
  | landed | running (sid : Nat) | saved
  deriving DecidableEq, Repr

/-- An occupied mortise: the capsule's launch, partition, timestamp, section tag (R95) and use. -/
structure Mort where
  launch : Nat
  part   : Nat
  ts     : Nat
  tag    : Dom
  use    : MortState
  deriving DecidableEq, Repr

/-- An entry of a tile's overflow area (R77, R298, R305). -/
inductive OverItem where
  | msg (id : Nat) (core : Nat) (m : Message)
  | cap (id : Nat) (core : Nat) (lcore : Nat) (stop : Nat) (c : Capsule)
  | entry (q : QueueRef) (e : QEntry)
  deriving DecidableEq, Repr

/-- An item of an overflow area with its offset there (R77). -/
structure Over where
  pos  : Nat
  item : OverItem
  deriving DecidableEq, Repr

/-- A queue of entries with its spill ring, and the place of the ring's oldest entry in its 256 or 128 KiB (R76, R77). -/
structure Queue where
  q    : List QEntry
  ring : List QEntry
  pos  : Nat
  deriving DecidableEq, Repr

/-- A tile: the handler base, the ready queues by priority, the overflow area with the offset of its next item, the save slots in
use, the forecast. -/
structure Tile where
  trapbase : Word
  ready    : NMap Queue
  ovf      : List Over
  ovfPos   : Nat
  saves    : List Nat
  actfc    : Word
  deriving DecidableEq, Repr

/-! ### Engines of a core -/

/-- A matrix command (R252–R255) with what it captured. -/
inductive MOp where
  | mma (t : MTy) (sat nx : Bool) (d : Nat) (a sa b sb : Nat)
  | bx4 (d : Nat) (a sa b sb e0 e1 : Nat)
  | zero (d : Nat)
  | lda (d : Nat) (a sa : Nat)
  | sta (t : StTy) (sat nx : Bool) (d : Nat) (a sa c : Nat)
  | mova (d : Nat) (r : Nat) (v : Fin 32)
  deriving DecidableEq, Repr

/-- An entry of a matrix queue. -/
structure MCmd where
  id  : Nat
  sid : Nat
  op  : MOp
  deriving DecidableEq, Repr

/-- What a copy command moves (R259–R261). -/
inductive COp where
  | cpy (dst src : Word) (len : Nat)
  | fill (dst : Word) (pat : Word) (len : Nat)
  | cpy2 (dst src : Word) (rows : Nat) (ss ds : Word) (bytes : Nat)
  | cpyg (dst src idx : Word) (rows : Nat) (ss : Word) (bytes : Nat)
  deriving DecidableEq, Repr

/-- A copy command with the rights, NX and issuer it captured (R92, R256). -/
structure CCmd where
  id     : Nat
  sid    : Nat
  ch     : Fin 4
  op     : COp
  dom    : Dom
  frames : List Frame
  nx     : Bool
  part   : Nat
  launch : Nat
  lcore  : Nat
  /-- the issuer as a fault record names it (R324) -/
  issuer : Word
  deriving DecidableEq, Repr

/-- A cached translation of one 64 KiB page, with the pages that its stage-1 leaf covers and the IPA pages its walk translated, each
with the pages that the stage-2 leaf covers (R219, R220, R341). -/
structure TlbEntry where
  die   : Nat
  part  : Nat
  vpage : Nat
  span  : Nat
  ipas  : List (Nat × Nat)
  leaf  : Leaf
  deriving DecidableEq, Repr

/-- What a channel has reached, as it stood then (R92): a page's translation, or section n of a unit with its tag and those of the
mortises that are occupied (R95). -/
inductive Reached where
  | page (e : TlbEntry)
  | sect (u : Nat) (n : Nat) (tag : BitVec 10) (m0 m1 : Option Dom)
  deriving DecidableEq, Repr

/-- A copy channel (R248, R256–R258): its running command, the destination bytes delivered, the faults it waits for
and the pages found absent, whether the pages that come next have been reached and have passed their checks, its write pointer, what
CPSTAT.ERR keeps, the bytes the command has overwritten (R257), and the pages and sections it has reached (R92). -/
structure Channel where
  cmd    : Option CCmd
  pos    : Nat
  faults : List Nat
  wf     : List (Nat × WalkFault)
  ready  : Bool
  wptr   : Word
  err    : Nat
  old    : NMap Byte
  at_    : List Reached
  deriving DecidableEq, Repr

/-! ### Caches and buffers of a core -/

/-- A store-buffer entry (R200), with a number of its own: later entries have higher ones. -/
structure SbEntry where
  id     : Nat
  sid    : Nat
  part   : Nat
  line   : Nat
  mask   : BitVec 128
  data   : LineData
  closed : Bool
  rel    : Option RelInfo
  deriving DecidableEq, Repr

/-- An L1 line; `host` for a line of the host window; `ro` when the translation it was filled through had W = 0 (R274); `past` once the core
has read the line at the L2 through a page with NC = 1 (R266, log 71); `part` is the partition it was filled for. -/
structure L1Line where
  line : Nat
  host : Bool
  ro   : Bool
  past : Bool
  part : Nat
  data : LineData
  deriving DecidableEq, Repr

/-- An L1 fill in flight; `live` until an invalidation covers it (R274, R238). -/
structure Fill where
  line : Nat
  ro   : Bool
  live : Bool
  past : Bool
  part : Nat
  data : LineData
  deriving DecidableEq, Repr

/-- An acquire whose reply is on its way to a core (R273, R274). -/
structure AcqReply where
  sid  : Nat
  info : AcqInfo
  deriving DecidableEq, Repr

/-- A compute core or a kingpost. -/
structure CoreUnit where
  en       : Bool
  tag      : Nat
  lcore    : Nat
  split    : BitVec 2
  wbs      : Word
  sect     : Vector (BitVec 10) 32
  sp       : Memory
  full     : List Nat
  spPoison : List Nat
  l1       : List L1Line
  fills    : List Fill
  sb       : List SbEntry
  ic       : List ILine
  acqTab   : List (Nat × Nat)
  replies  : List AcqReply
  acc      : NMap AccData
  mq       : List MCmd
  mrun     : Option MCmd
  cq       : List CCmd
  chan     : Vector Channel 4
  pinned   : Queue
  inbox    : List InboxEntry
  mort     : Vector (Option Mort) 2
  resvAcc  : NMap (List Nat)
  resvSp   : Option (Nat × Nat)
  last     : Nat
  wake     : List Nat
  refuse   : BitVec 8
  /-- stores kept for saved strands (R124, R328), each with the pending and poison bits of its windows -/
  kept     : NMap (NMap (BitVec 32))
  strands  : NMap Strand
  deriving DecidableEq, Repr

/-! ### Memory system -/

/-- The integrity tag of a line in LPDDR6 (R222, R334): clear, written under a key slot in its generation, or poisoned. -/
inductive DramTag where
  | clear | key (slot : Nat) (gen : Nat) | poisoned
  deriving DecidableEq, Repr

/-- A line at its home (R204, R222, R334): its owner while it is in the L2, whether it is dirty, whether it is marked
poisoned, the tag it has in LPDDR6, and what LPDDR6 holds where that is another owner's copy of an older value. -/
structure LineMeta where
  owner  : Option Nat
  dirty  : Bool
  poison : Bool
  dram   : DramTag
  old    : Option LineData
  deriving DecidableEq, Repr

/-- A 1 MiB region (R205, R207). -/
structure Region where
  deg   : BitVec 2
  rmiss : Nat
  wcol  : Nat
  deriving DecidableEq, Repr

/-- A replica on a die (R206), with its partition tag (R204); `chased` once an invalidation has been sent for it. -/
structure Replica where
  die  : Nat
  line : Nat
  owner : Nat
  chased : Bool
  data : LineData
  deriving DecidableEq, Repr

/-- A replica fill in flight (R279): `chased` once an invalidation has been sent after it, `live` until that invalidation
reaches the die first. -/
structure RepFill where
  die  : Nat
  line : Nat
  owner : Nat
  chased : Bool
  live : Bool
  data : LineData
  deriving DecidableEq, Repr

/-- An invalidation of a replica in flight, with the strands whose writes wait for its acknowledgement (R206), and the units
that have written the line or read it at home since it was sent: they do not go back to the replica (R266, R268). `excl` where a degree
that fell has sent it: no replica of its region is filled before its acknowledgement (R207, R237). -/
structure Inval where
  die  : Nat
  line : Nat
  sids : List Nat
  units : List Nat
  excl : Bool
  deriving DecidableEq, Repr

/-- A side-store entry (R273), with the partition whose key slot frees it. -/
structure SideEntry where
  gen  : Nat
  cum  : Sig
  part : Nat
  deriving DecidableEq, Repr

/-- A reduction word with its slots by key (R243). -/
structure RedWord where
  addr  : Nat
  f64   : Bool
  slots : NMap Word
  deriving DecidableEq, Repr

/-- Per-slice counters (R242). -/
structure SliceCnt where
  rfold     : Nat
  underflow : Nat
  deriving DecidableEq, Repr

/-- A RADD on its way to its home (R239, R243). -/
structure HomeReq where
  unit : UnitRef
  sid  : Nat
  part : Nat
  pa   : Nat
  f64  : Bool
  x    : Word
  key  : Nat
  rel  : Option RelInfo
  deriving DecidableEq, Repr

/-- A back-invalidate snoop in flight (R285). -/
structure Snoop where
  line : Nat
  half : Bool
  deriving DecidableEq, Repr

/-- How a walk ends: with the IPA pages it has translated, and a leaf with the pages that its stage-1 leaf covers. -/
inductive WalkRes where
  | leaf (l : Leaf) (span : Nat) (ipas : List (Nat × Nat))
  | fault (f : WalkFault) (ipas : List (Nat × Nat))
  deriving DecidableEq, Repr

/-- Whose access a walk or a fault serves. -/
inductive Waiter where
  | strand (sid : Nat)
  | chan (u : UnitRef) (ch : Fin 4)
  | retire (id : Nat)
  deriving DecidableEq, Repr

/-- A walk in flight (R219): what it has read, the entries in which it sets A and D (R218), and who waits for it. -/
structure Walk where
  die   : Nat
  part  : Nat
  vpage : Nat
  write : Bool
  res   : WalkRes
  aSet  : List Nat
  dSet  : List Nat
  who   : List Waiter
  deriving DecidableEq, Repr

/-- An ATS translation held in a die's cache (R212). -/
structure AtcEntry where
  die   : Nat
  fn    : Nat
  pasid : Nat
  page  : Nat
  log2  : Nat
  hpa   : Nat
  r     : Bool
  w     : Bool
  deriving DecidableEq, Repr

/-- A fault of a park, channel or retirement that still needs its reply (R324–R327): its record's words, its buffer (the die,
or the VF with its slot), and whether it has been recorded. -/
structure FaultRec where
  id    : Nat
  fid   : Option Nat
  die   : Nat
  vf    : Nat
  part  : Nat
  stage : Bool
  host  : Bool
  who   : Waiter
  launch : Nat
  lanes : Word
  acc   : Nat
  words : Vector Word 6
  deriving DecidableEq, Repr

/-- An ATS translation request in flight (R212). -/
structure AtsReq where
  die   : Nat
  fn    : Nat
  pasid : Nat
  page  : Nat
  sid   : Waiter
  deriving DecidableEq, Repr

/-! ### Fabric -/

/-- A request to a core-window target (R211, R281): what it does there. -/
inductive RemOp where
  | load (size : Nat)
  | ldf (size : Nat)
  | store (size : Nat) (v : Word) (full : Bool)
  | sete (size : Nat)
  | atomic (f : Nat) (dw : Bool) (b : Word) (cmp : Word)
  /-- the check of an atomic of this package, which comes when its bank performs it (R239, log 3) -/
  | probe (size : Nat)
  deriving DecidableEq, Repr

/-- What is on its way through the package's fabric or the host link. -/
inductive Flight where
  /-- `lane` is that of a vector load; of an access from another package (a strand number of 0) the strand there (R281) -/
  | access (sid : Nat) (lane : Nat) (pkg : Nat) (pcore : Nat) (lcore : Nat) (va : Word) (dom : Dom) (op : RemOp)
  | hostStore (sid : Nat) (hpa : Nat) (va : Word) (bytes : List Byte)
  | message (sid : Nat) (pkg : Nat) (pcore : Nat) (m : Message)
  | hostMsg (sid : Nat) (fn : Nat) (q : Nat) (m : Message)
  | collective (sid : Nat) (group : Nat) (op : Nat) (dst : Nat) (m : Message)
  | deposit (sid : Nat) (pkg : Nat) (pcore : Nat) (d : Deposit)
  | hop (pcore : Nat) (lcore : Nat) (stop : Nat) (c : Capsule)
  | ack (sid : Nat) (reject : Nat) (fail : Option (Nat × Word × Nat))
  deriving DecidableEq, Repr

/-- A capsule retirement in progress (R312): the payload bytes written, its own write signature, the captured rights, the core
that issued it and its issuer as a fault record names it, the faults it waits for, the pages found absent, and the pages and sections it
has reached (R92). -/
structure Retire where
  id     : Nat
  sid    : Nat
  cap    : Capsule
  dom    : Dom
  frames : List Frame
  pos    : Nat
  sig    : Sig
  faults : List Nat
  wf     : List (Nat × WalkFault)
  unit   : UnitRef
  lcore  : Nat
  tile   : Nat
  issuer : Word
  at_    : List Reached
  deriving DecidableEq, Repr

/-- A capsule that waits for a park slot (R335): the record's cause and address, whether RET is set, and the IPA. -/
structure ParkWait where
  id    : Nat
  cap   : Capsule
  cause : Nat
  va    : Word
  ret   : Bool
  ipa   : Word
  stop  : Nat
  /-- the mortise it keeps while it waits, by unit -/
  mort  : Option (Nat × Fin 2)
  deriving DecidableEq, Repr

/-- A park slot in use (R335, R343): the capsule's launch and timestamp. -/
structure ParkSlot where
  slot   : Nat
  launch : Nat
  ts     : Nat
  deriving DecidableEq, Repr

/-! ### Front end -/

/-- A launch packet as read (R44). -/
structure Packet where
  kind    : Nat
  det     : Bool
  pinned  : Bool
  preempt : Bool
  relSys  : Bool
  prio    : Nat
  entry   : Word
  args    : Word
  n       : Nat
  weights : Vector Nat 4
  spc     : Nat
  acc     : Nat
  scratch : Nat
  cores   : Nat
  bars    : BitVec 6
  done    : Word
  inc     : Word
  dep1    : Word × Word
  dep2    : Word × Word
  pasid   : Nat
  vf      : Nat
  deriving DecidableEq, Repr

/-- States of a queue slot (R60). -/
inductive SlotState where
  | free | read | depwait | placewait | idle | halt
  deriving DecidableEq, Repr

/-- A queue slot (R60–R63). -/
structure Slot where
  st      : SlotState
  part    : Nat
  qnum    : Nat
  ring    : Word
  log2n   : Nat
  level   : Nat
  weight  : Nat
  noevict : Bool
  head    : Nat
  tail    : Nat
  err     : BitVec 8
  packet  : Option Packet
  edom    : Dom
  cores   : List (Nat × Nat)
  order   : Nat
  taken   : Nat
  served  : Nat
  deriving DecidableEq, Repr

/-- A live launch (R66, R46): its packet, its queue, its cores as (logical, physical) in rising logical order, its entry
domain, the next index of each die (open) or core (pinned), its completion signature, the indices or capsules made, and what
ended it early. -/
structure Launch where
  num    : Nat
  part   : Nat
  qnum   : Nat
  pkt    : Packet
  cores  : List (Nat × Nat)
  edom   : Dom
  next   : NMap Nat
  csig   : Sig
  horizon : Nat
  killed : Bool
  deriving DecidableEq, Repr

/-- A reserved launch number (R67). -/
structure Resv where
  part : Nat
  va   : Word
  num  : Nat
  deriving DecidableEq, Repr

/-- LSTAT of a launch number (R333). -/
structure Lstat where
  code  : Nat
  ended : Nat
  deriving DecidableEq, Repr

/-! ### Partitions, functions, links -/

/-- A partition: translation registers (R215), table bases (R65, R70, R336, R354), tenant state (R353), parks (R335). -/
structure Part where
  mode    : BitVec 2
  s1root  : Word
  s2root  : Word
  mapbase : Word
  qtbase  : Word
  parkbase : Word
  dpbase  : Word
  tstate  : BitVec 2
  parked  : Nat
  parks   : List ParkSlot
  deriving DecidableEq, Repr

/-- TDISP states of a VF (R357). -/
inductive Tdi where
  | unlocked | locked | run | error
  deriving DecidableEq, Repr

/-- A host service queue (R358). -/
structure HostQ where
  ring  : Word
  tail  : BitVec 32
  st    : BitVec 2
  en    : Bool
  log2n : Nat
  head  : Word
  deriving DecidableEq, Repr

/-- A function, the PF as 0 and the VFs (R357, R325, R67, R358). -/
structure Fn where
  bind    : Nat
  tdi     : Tdi
  resvLatch : Word
  prqbase : Word
  prqUsed : List Nat
  prqSeq  : Nat
  prqovf  : Nat
  prqflag : Bool
  priOff  : Bool
  /-- PASIDs that the host has not enabled -/
  pasidOff : List Nat
  hsq     : NMap HostQ
  deriving DecidableEq, Repr

/-- A die: its fault buffer (R325, R327, R336), its bases (R336, R77) and its throttle cap (R367). -/
structure Die where
  fbbase    : Word
  fbhead    : Word
  fbtail    : Word
  fovf      : Bool
  flost     : Nat
  savebase  : Word
  spillbase : Word
  cap       : Nat
  /-- the hottest junction reported, in °C -/
  tj        : Nat
  /-- the degree of the regions that no entry of `regions` gives (R207) -/
  deg       : BitVec 2
  /-- the die has failed (R334) -/
  failed    : Bool
  deriving DecidableEq, Repr

/-- An island (R15, R366) with the cycles its cores have counted (R131). -/
structure Island where
  cur   : Nat
  req   : Nat
  cycle : Nat
  deriving DecidableEq, Repr

/-- What a Gweik port has open on a channel (R360, R361): the flits received of a packet. -/
structure GwPacket where
  die   : Nat
  port  : Nat
  chan  : Nat
  flits : List (BitVec 256)
  deriving DecidableEq, Repr

/-- A contribution taken by a switch (R362). -/
structure Contrib where
  idx  : Nat
  dst  : Nat
  m    : Message
  deriving DecidableEq, Repr

/-- A collective group of the switch's table: its contributors as (package, logical core), the operation and contributions of the
open round, and the contributors whose contribution an expiry has overtaken (R362, R363). -/
structure Group where
  members : List (Nat × Nat)
  op      : Nat
  got     : List Contrib
  late    : List Nat
  deriving DecidableEq, Repr

/-- What leaves the package: interrupts and messages to the host (R64, R325, R327, R352, R367, R212), answers to its reads, flits, and
what goes to another package (log 10). -/
inductive Out where
  | qmiss
  | fault (vf : Nat)
  | fbfull (die : Nat)
  | msix (fn : Nat) (vector : Nat)
  | thermtrip (die : Nat)
  | atsRequest (fn : Nat) (pasid : Nat) (page : Nat)
  | pageRequest (fn : Nat) (fid : Nat) (va : Word)
  | value (v : Word)
  | bytes (b : List Byte) (poisoned : Bool)
  | unsupported
  | remote (va : Word) (pkg : Nat)
  | reply (r : RemoteReply)
  | flit (die : Nat) (port : Nat) (chan : Nat) (bytes : List Byte)
  | result (pkg : Nat) (m : Message)
  deriving DecidableEq, Repr

/-- The state of a context that holds a strand (R117, R369): free to issue, held and why, with a trap pending, at a safe point on its way
into a save area, on its way home from a handler, or standing still because its tenant is STOPPED (R355). -/
inductive CtxState where
  | runs | held (h : Hold) | trapped | saving | returning | stopped
  deriving DecidableEq, Repr

/-- A context in a snapshot: its pc and its state (R369). -/
structure CtxSnap where
  ctx   : Nat
  pc    : Word
  state : CtxState
  deriving DecidableEq, Repr

/-- A core in a snapshot (R369): CYCLE, its contexts, and its store-buffer and queue occupancies. -/
structure CoreSnap where
  core  : Nat
  cycle : Nat
  ctxs  : List CtxSnap
  sbOcc : Nat
  qOcc  : Nat
  deriving DecidableEq, Repr

/-- A snapshot (R369): every core, and every slice's counters. -/
structure Snapshot where
  cores : List CoreSnap
  cnts  : NMap SliceCnt
  deriving DecidableEq, Repr

/-! ### The package -/

/-- The whole state of one package, with the model's own scheduling fields first. -/
structure State where
  agenda   : List Instr
  issuing  : Bool
  cur      : CtxRef
  turn     : Nat
  freeCtr  : Nat
  /-- the events that the progress promise still owes, and the free choices before the next of them (R82) -/
  duty     : List Instr
  patience : Nat
  nextId   : Nat
  outs     : List Out
  -- package
  phase    : BitVec 4
  failCode : BitVec 8
  failDie  : BitVec 4
  ready    : Bool
  gwdown   : BitVec 72
  pkgNo    : Nat
  pgrace   : Word
  replup   : Word
  replwmax : Word
  repldown : Word
  snapctl  : BitVec 16
  snaps    : Option Snapshot
  dbgsel   : Word
  plimit   : BitVec 16
  pwr      : BitVec 16
  trip     : Bool
  -- memory
  mem      : Memory
  lines    : NMap LineMeta
  keys     : NMap (Bool × Nat)
  regions  : NMap Region
  dir      : NMap (List Nat)
  reps     : List Replica
  repFills : List RepFill
  invs     : List Inval
  side     : NMap SideEntry
  satLines : List Nat
  reds     : List RedWord
  slices   : NMap SliceCnt
  /-- the restore marks by record (R331) -/
  marks    : NMap RestoreMark
  /-- the saved strands that have requests unacknowledged or hold a failure, by number (R282, R283) -/
  unacked  : NMap Unacked
  hostMem  : Memory
  hostOwn  : List (Nat × Bool)
  snoops   : List Snoop
  homeReqs : NMap HomeReq
  -- translation
  tlb      : List TlbEntry
  walks    : NMap Walk
  atc      : List AtcEntry
  atsReqs  : NMap AtsReq
  tlbiPend : List (Nat × Nat)
  mapCache : List (Nat × Nat × Word)
  faults   : List FaultRec
  -- agents
  parts    : NMap Part
  fns      : NMap Fn
  dies     : Vector Die 4
  tiles    : NMap Tile
  units    : NMap CoreUnit
  islands  : NMap Island
  -- front end
  slots    : NMap Slot
  /-- by level, the slot served last (R62) -/
  rrLast   : NMap Nat
  orderNo  : Nat
  pend     : List (Nat × Nat)
  nlost    : Bool
  notifylost : Nat
  launches : NMap Launch
  lstat    : NMap Lstat
  resvs    : List Resv
  -- fabric
  flights  : NMap Flight
  retires  : NMap Retire
  parkWait : NMap ParkWait
  pushWait : NMap (QueueRef × QEntry)
  groups   : NMap Group
  ctimeout : Nat
  gw       : List GwPacket
  gwErr    : List (Nat × Nat)
  deriving DecidableEq, Repr

/-! ### Stops -/

/-- Why the machine stops. -/
inductive Fault where
  /-- Raised when an instruction is executed in a context that holds no strand: no rule gives it a state to act on. The
  device never issues there (R117), so no run from reset meets it. Safe: nothing is claimed of such a step. -/
  | noStrand
  deriving DecidableEq, Repr

/-- Why an instruction has no meaning. -/
inductive Refusal where
  /-- The arm of `exec` rejects the instruction by name: it has not been modelled. Safe: nothing is claimed of it. -/
  | notModelled (mnemonic : String)
  deriving DecidableEq, Repr

/-! ### Reset -/

/-- A channel that has run nothing. -/
def Channel.reset : Channel := ⟨none, 0, [], [], false, 0, 0, [], []⟩

/-- A core or kingpost after bring-up (R70, R132, R195, R364). -/
def CoreUnit.reset : CoreUnit where
  en := false
  tag := 0
  lcore := 0
  split := 0
  wbs := 0
  sect := .replicate 32 0
  sp := []
  full := []
  spPoison := []
  l1 := []
  fills := []
  sb := []
  ic := []
  acqTab := []
  replies := []
  acc := []
  mq := []
  mrun := none
  cq := []
  chan := .replicate 4 Channel.reset
  pinned := ⟨[], [], 0⟩
  inbox := []
  mort := .replicate 2 none
  resvAcc := []
  resvSp := none
  last := 39
  wake := []
  refuse := 0
  kept := []
  strands := []

/-- A tile after bring-up. -/
def Tile.reset : Tile := ⟨0, [], [], 0, [], 0⟩

/-- A partition at reset. -/
def Part.reset : Part := ⟨0, 0, 0, 0, 0, 0, 0, 0, 0, []⟩

/-- A function at reset: VFBIND names the partition of its own number (log 6). -/
def Fn.reset (n : Nat) : Fn := ⟨n, .unlocked, 0, 0, [], 0, 0, false, false, [], []⟩

/-- A host service queue at reset (R358). -/
def HostQ.reset : HostQ := ⟨0, 0, 0, false, 0, 0⟩

/-- A queue slot at reset (R65). -/
def Slot.reset : Slot := ⟨.free, 0, 0, 0, 0, 0, 0, false, 0, 0, 0, none, 0, [], 0, 0, 0⟩

/-- A die at reset: SPILLBASE is the value bring-up sets (R77), CAP is 27 (R367). -/
def Die.reset (d : Nat) : Die :=
  ⟨0, 0, 0, false, 0, 0, BitVec.ofNat 64 (d * 0x80_0000_0000 + 0x77_F800_0000), 27, 0, 0, false⟩

/-- An island at reset (R366). -/
def Island.reset : Island := ⟨10, 10, 0⟩

/-- A line that nothing has touched since bring-up (R222): clear, not in the L2. -/
def LineMeta.reset : LineMeta := ⟨none, false, false, .clear, none⟩

/-- A region after reset (R205, R207). -/
def Region.reset : Region := ⟨0, 0, 0⟩

/-- The machine right after reset: power has just been applied, PHASE is 1 and READY is 0 (R364, R365); every register holds
the reset value its rule gives. -/
def State.reset : State where
  agenda := []
  issuing := false
  cur := ⟨.core 0, 0⟩
  turn := 0
  freeCtr := 0
  duty := []
  patience := 0
  nextId := 2
  outs := []
  phase := 1
  failCode := 0
  failDie := 0
  ready := false
  gwdown := 0
  pkgNo := 0
  pgrace := 1000
  replup := 64
  replwmax := 8
  repldown := 32
  snapctl := 0
  snaps := none
  dbgsel := 0
  plimit := if Config.isModule then 3200 else 1000
  pwr := 0
  trip := false
  mem := []
  lines := []
  keys := []
  regions := []
  dir := []
  reps := []
  repFills := []
  invs := []
  side := []
  satLines := []
  reds := []
  slices := []
  marks := []
  unacked := []
  hostMem := []
  hostOwn := []
  snoops := []
  homeReqs := []
  tlb := []
  walks := []
  atc := []
  atsReqs := []
  tlbiPend := []
  mapCache := []
  faults := []
  parts := []
  fns := []
  dies := #v[Die.reset 0, Die.reset 1, Die.reset 2, Die.reset 3]
  tiles := []
  units := []
  islands := []
  slots := []
  rrLast := []
  orderNo := 0
  pend := []
  nlost := false
  notifylost := 0
  launches := []
  lstat := []
  resvs := []
  flights := []
  retires := []
  parkWait := []
  pushWait := []
  groups := []
  ctimeout := 100
  gw := []
  gwErr := []

end Sys2Proof.Machine
end

