-- ==== Sys2Proof/Machine/Maps.lean ====
section
/-! DEFINITION. Operations over the plain data the state is made of: finite maps with rising keys, and memories in their
one canonical form (addresses rising, no entry of value zero). -/
namespace Sys2Proof.Machine

/-! ### Finite maps -/

/-- The value at a key. -/
def NMap.find {β : Type} : NMap β → Nat → Option β
  | [], _ => none
  | (k, x) :: m, n => if k = n then some x else NMap.find m n

/-- The value at a key, or a default where none is held. -/
def NMap.getD {β : Type} (m : NMap β) (n : Nat) (d : β) : β := (NMap.find m n).getD d

/-- Set the value at a key, keeping the keys rising. -/
def NMap.set {β : Type} : NMap β → Nat → β → NMap β
  | [], n, x => [(n, x)]
  | (k, y) :: m, n, x => if n < k then (n, x) :: (k, y) :: m else if n = k then (n, x) :: m else (k, y) :: NMap.set m n x

/-- Remove a key. -/
def NMap.del {β : Type} (m : NMap β) (n : Nat) : NMap β := m.filter fun e => e.1 != n

/-- The values held. -/
def NMap.vals {β : Type} (m : NMap β) : List β := m.map Prod.snd

/-- Apply a function to every value. -/
def NMap.mapV {β : Type} (f : Nat → β → β) (m : NMap β) : NMap β := m.map fun e => (e.1, f e.1 e.2)

/-- The least number, counting from `n`, that is not in the list; `fuel` bounds the search. -/
def leastFree (used : List Nat) : Nat → Nat → Option Nat
  | 0, _ => none
  | fuel + 1, n => if used.contains n then leastFree used fuel (n + 1) else some n

/-! ### Memories -/

/-- The byte at an address; an unlisted address reads as zero (R364, R222). -/
def Memory.read : Memory → Nat → Byte
  | [], _ => 0
  | (k, b) :: m, a => if k = a then b else Memory.read m a

/-- Set the byte at an address, keeping the canonical form. -/
def Memory.write : Memory → Nat → Byte → Memory
  | [], a, b => if b = 0 then [] else [(a, b)]
  | (k, c) :: m, a, b =>
    if a < k then (if b = 0 then (k, c) :: m else (a, b) :: (k, c) :: m)
    else if a = k then (if b = 0 then m else (a, b) :: m)
    else (k, c) :: Memory.write m a b

/-- Every address of the list is above `a`, they rise, and no byte is zero. -/
def Memory.wfAbove : Option Nat → Memory → Bool
  | _, [] => true
  | lo, (k, b) :: m => (match lo with | none => true | some a => a < k) && b != 0 && Memory.wfAbove (some k) m

/-- The canonical form: addresses strictly rising, and no entry equal to what an unlisted address reads as. -/
def Memory.wf (m : Memory) : Bool := Memory.wfAbove none m

/-- The n bytes from an address, lowest first, as a little-endian number (R3). -/
def Memory.readN (m : Memory) : Nat → Nat → Nat
  | _, 0 => 0
  | a, n + 1 => (m.read a).toNat + 256 * Memory.readN m (a + 1) n

/-- Write the n low bytes of a number from an address, lowest first (R3). -/
def Memory.writeN (m : Memory) : Nat → Nat → Nat → Memory
  | _, 0, _ => m
  | a, n + 1, v => Memory.writeN (m.write a (BitVec.ofNat 8 v)) (a + 1) n (v / 256)

/-- The n bytes from an address, as a list. -/
def Memory.readBytes (m : Memory) : Nat → Nat → List Byte
  | _, 0 => []
  | a, n + 1 => m.read a :: Memory.readBytes m (a + 1) n

/-- Write a list of bytes from an address. -/
def Memory.writeBytes (m : Memory) : Nat → List Byte → Memory
  | _, [] => m
  | a, b :: bs => Memory.writeBytes (m.write a b) (a + 1) bs

/-- Write zero to n bytes from an address (by removing their entries). -/
def Memory.clear (m : Memory) (a n : Nat) : Memory := m.filter fun c => !(a ≤ c.1 && c.1 < a + n)

/-- Write byte j of a line where bit j of the mask is set, for j from 0 to n − 1. -/
def Memory.writeMasked (m : Memory) (base : Nat) (mask : BitVec 128) (data : LineData) : Nat → Memory
  | 0 => m
  | n + 1 =>
    let m' := Memory.writeMasked m base mask data n
    if mask.getLsbD n then m'.write (base + n) (data.extractLsb' (8 * n) 8) else m'

/-! ### Bytes of lines -/

/-- A mask of n bytes from byte o of a line. -/
def byteMask (o n : Nat) : BitVec 128 := BitVec.ofNat 128 ((2 ^ n - 1) * 2 ^ o)

/-- The 1,024-bit mask that covers the bytes of a byte mask. -/
def spread (mask : BitVec 128) : Nat → LineData
  | 0 => 0
  | n + 1 => spread mask n ||| (if mask.getLsbD n then BitVec.ofNat 1024 (255 * 2 ^ (8 * n)) else 0)

/-- Bytes of `new` where the mask has a bit, of `old` elsewhere. -/
def mergeLine (mask : BitVec 128) (new old : LineData) : LineData :=
  let m := spread mask 128
  (new &&& m) ||| (old &&& ~~~m)

/-- The n bytes from byte o of a line, as a number. -/
def lineGet (d : LineData) (o n : Nat) : Nat := d.toNat / 2 ^ (8 * o) % 2 ^ (8 * n)

/-- A number's n bytes placed at byte o of an otherwise zero line. -/
def linePut (o n v : Nat) : LineData := BitVec.ofNat 1024 (v % 2 ^ (8 * n) * 2 ^ (8 * o))

/-- The line number of a physical address (R203). -/
def lineOf (pa : Nat) : Nat := pa / 128

/-- The bytes of a number list: n bytes, lowest first. -/
def bytesOf (n v : Nat) : List Byte := (List.range n).map fun i => BitVec.ofNat 8 (v / 256 ^ i)

/-- The little-endian number of a list of bytes. -/
def natOfBytes : List Byte → Nat
  | [] => 0
  | b :: bs => b.toNat + 256 * natOfBytes bs

/-- Sign extension of the low n bits of a word to 64 bits. -/
def sext (n : Nat) (v : Nat) : Word := BitVec.ofInt 64 ((BitVec.ofNat n v).toInt)

/-- Sign-extended 12-bit immediate (R108). -/
def imm12 (v : BitVec 12) : Word := v.signExtend 64

/-- Sign-extended 32-bit immediate. -/
def imm32 (v : BitVec 32) : Word := v.signExtend 64

/-- Population count. -/
def popcount (n : Nat) (v : Nat) : Nat := (List.range n).foldl (fun c i => c + v / 2 ^ i % 2) 0

end Sys2Proof.Machine
end

