-- ==== Sys2Proof/Machine/Flags.lean ====
section
/-! DEFINITION. Number formats and exact arithmetic (09): values are computed exactly on integers and dyadic or rational
numbers and rounded once; every flag of FFLAGS is computed here (R169, R170). -/
namespace Sys2Proof.Machine

/-! ### Flags (R170) -/

/-- INV. -/
def fInv : BitVec 5 := 16
/-- DZ. -/
def fDz : BitVec 5 := 8
/-- OVF. -/
def fOvf : BitVec 5 := 4
/-- UNF. -/
def fUnf : BitVec 5 := 2
/-- INX. -/
def fInx : BitVec 5 := 1

/-- A flag where a condition holds. -/
def flagIf (b : Bool) (f : BitVec 5) : BitVec 5 := if b then f else 0

/-! ### Formats (R156, R160, R162) -/

/-- How the top exponent codes are read: IEEE with signalling NaNs, IEEE without them (E5M2, and E4M3 with NX = 1), E4M3 with
NX = 0 (only all-ones fraction is NaN), and E2M1 (no NaN, no infinity). -/
inductive FKind where
  | ieee | ieee8 | ocp | small
  deriving DecidableEq, Repr

/-- A binary format: exponent width, fraction width, bias. -/
structure Fmt where
  ew   : Nat
  fw   : Nat
  bias : Nat
  kind : FKind
  deriving DecidableEq, Repr

/-- F64. -/
def Fmt.f64 : Fmt := ⟨11, 52, 1023, .ieee⟩
/-- F32. -/
def Fmt.f32 : Fmt := ⟨8, 23, 127, .ieee⟩
/-- F16. -/
def Fmt.f16 : Fmt := ⟨5, 10, 15, .ieee⟩
/-- BF16. -/
def Fmt.bf16 : Fmt := ⟨8, 7, 127, .ieee⟩
/-- E4M3 under NX (R160). -/
def Fmt.e4m3 (nx : Bool) : Fmt := ⟨4, 3, 7, if nx then .ieee8 else .ocp⟩
/-- E5M2. -/
def Fmt.e5m2 : Fmt := ⟨5, 2, 15, .ieee8⟩
/-- E2M1 (R162). -/
def Fmt.e2m1 : Fmt := ⟨2, 1, 1, .small⟩

/-- The format of a class-2 FN code (R106). -/
def fmtOfF : FFmt → Fmt
  | .f64 => .f64 | .f32 => .f32 | .f16 => .f16 | .bf16 => .bf16

/-- The floating format of an element type under NX; none for an integer type. -/
def fmtOfE (nx : Bool) : ETy → Option Fmt
  | .f16 => some .f16 | .bf16 => some .bf16 | .f32 => some .f32 | .f64 => some .f64
  | .e4m3 => some (.e4m3 nx) | .e5m2 => some .e5m2 | .e2m1 => some .e2m1
  | _ => none

/-- Width in bits. -/
def Fmt.width (f : Fmt) : Nat := 1 + f.ew + f.fw

/-- HasInf (R167). -/
def Fmt.hasInf (f : Fmt) : Bool := f.kind == .ieee || f.kind == .ieee8

/-- The all-ones exponent. -/
def Fmt.emax (f : Fmt) : Nat := 2 ^ f.ew - 1

/-- The sign bit in place. -/
def Fmt.signBit (f : Fmt) (neg : Bool) : Nat := if neg then 2 ^ (f.ew + f.fw) else 0

/-- The default NaN (R158, R160). E2M1 has none; zero stands for it and is never used. -/
def Fmt.defNan (f : Fmt) : Nat :=
  match f.kind with
  | .ieee | .ieee8 => f.emax * 2 ^ f.fw + 2 ^ (f.fw - 1)
  | .ocp => 0x7F
  | .small => 0

/-- Infinity (of a format that has one). -/
def Fmt.inf (f : Fmt) (neg : Bool) : Nat := f.signBit neg + f.emax * 2 ^ f.fw

/-- The largest finite magnitude's code (R158, R160, R162). -/
def Fmt.maxCode (f : Fmt) : Nat :=
  match f.kind with
  | .ieee | .ieee8 => f.emax * 2 ^ f.fw - 1
  | .ocp => 0x7E
  | .small => 7

/-- The largest finite value of a sign. -/
def Fmt.largest (f : Fmt) (neg : Bool) : Nat := f.signBit neg + f.maxCode

/-! ### Values -/

/-- The value of an encoding (R157): a NaN with whether it is signalling, an infinity, or (−1)^neg × m × 2^e. -/
inductive FV where
  | nan (sig : Bool)
  | inf (neg : Bool)
  | fin (neg : Bool) (m : Nat) (e : Int)
  deriving DecidableEq, Repr

/-- The value of an encoding (R157, R160, R162). -/
def Fmt.value (f : Fmt) (bits : Nat) : FV :=
  let neg := bits / 2 ^ (f.ew + f.fw) % 2 == 1
  let ex := bits / 2 ^ f.fw % 2 ^ f.ew
  let fr := bits % 2 ^ f.fw
  let fin : FV :=
    if ex = 0 then .fin neg fr (1 - f.bias - f.fw) else .fin neg (2 ^ f.fw + fr) (ex - f.bias - f.fw)
  if ex = f.emax then
    match f.kind with
    | .ieee => if fr = 0 then .inf neg else .nan (fr / 2 ^ (f.fw - 1) == 0)
    | .ieee8 => if fr = 0 then .inf neg else .nan false
    | .ocp => if fr = 2 ^ f.fw - 1 then .nan false else fin
    | .small => fin
  else fin

/-- A NaN. -/
def FV.isNan : FV → Bool
  | .nan _ => true
  | _ => false

/-- A signalling NaN. -/
def FV.isSig : FV → Bool
  | .nan s => s
  | _ => false

/-- An infinity. -/
def FV.isInf : FV → Bool
  | .inf _ => true
  | _ => false

/-- A zero. -/
def FV.isZero : FV → Bool
  | .fin _ m _ => m == 0
  | _ => false

/-- The sign. -/
def FV.neg : FV → Bool
  | .nan _ => false
  | .inf n => n
  | .fin n _ _ => n

/-- The same magnitude with the opposite sign. -/
def FV.negate : FV → FV
  | .nan s => .nan s
  | .inf n => .inf (!n)
  | .fin n m e => .fin (!n) m e

/-! ### Rounding (R165, R166) -/

/-- Whether a non-zero remainder moves the magnitude up: `twice` compares twice the remainder with the divisor. -/
def roundsUp (m : Rnd) (neg odd exact : Bool) (twice : Ordering) : Bool :=
  !exact && (match m with
    | .rne => twice == .gt || (twice == .eq && odd)
    | .rtz => false
    | .rdn => neg
    | .rup => !neg)

/-- n / d × 2^e as a multiple of 2^u, rounded; and whether that is exact. -/
def roundAt (m : Rnd) (neg : Bool) (n d : Nat) (e u : Int) : Nat × Bool :=
  let n' := if e ≥ u then n * 2 ^ (e - u).toNat else n
  let d' := if e ≥ u then d else d * 2 ^ (u - e).toNat
  let q := n' / d'
  let r := n' % d'
  let up := roundsUp m neg (q % 2 == 1) (r == 0) (compare (2 * r) d')
  (if up then q + 1 else q, r == 0)

/-- The exponent E with 2^E ≤ n / d × 2^e < 2^(E+1), for n, d > 0. -/
def magExp (n d : Nat) (e : Int) : Int :=
  let l : Int := (Nat.log2 n : Int) - Nat.log2 d
  let below := if l ≥ 0 then n < d * 2 ^ l.toNat else n * 2 ^ (-l).toNat < d
  (if below then l - 1 else l) + e

/-- A rounded result: its bits and flags. -/
structure FRes where
  bits  : Nat
  flags : BitVec 5
  deriving DecidableEq, Repr

/-- Overflow delivers an infinity in this mode (R165's table). -/
def ovfInf (m : Rnd) (neg : Bool) : Bool :=
  match m with
  | .rne => true
  | .rtz => false
  | .rdn => neg
  | .rup => !neg

/-- A value that overflowed, by R165's table and R167. -/
def Fmt.overflow (f : Fmt) (m : Rnd) (sat neg : Bool) : Nat :=
  if sat || !ovfInf m neg then f.largest neg else if f.hasInf then f.inf neg else f.defNan

/-- Round the exact (−1)^neg × n / d × 2^e, n > 0, once to the format (R165–R167). -/
def Fmt.round (f : Fmt) (m : Rnd) (sat neg : Bool) (n d : Nat) (e : Int) : FRes :=
  let emin : Int := 1 - f.bias
  let ex := magExp n d e
  let u : Int := (if ex < emin then emin else ex) - f.fw
  let (k, exact) := roundAt m neg n d e u
  let (k1, _) := roundAt m neg n d e (ex - f.fw)
  let tiny := ex < emin && !(ex + 1 == emin && k1 == 2 ^ (f.fw + 1))
  -- the grid point k × 2^u against the largest finite value
  let top := f.maxCode % 2 ^ f.fw + 2 ^ f.fw
  let tu : Int := (f.maxCode / 2 ^ f.fw : Nat) - (f.bias : Int) - f.fw
  let past := if u ≥ tu then k * 2 ^ (u - tu).toNat > top else k > top * 2 ^ (tu - u).toNat
  if past then ⟨f.overflow m sat neg, fOvf ||| fInx⟩
  else
    let bits :=
      if k < 2 ^ f.fw then k
      else
        let k' := if k = 2 ^ (f.fw + 1) then 2 ^ f.fw else k
        let u' := if k = 2 ^ (f.fw + 1) then u + 1 else u
        (u' + f.fw + f.bias).toNat * 2 ^ f.fw + (k' - 2 ^ f.fw)
    ⟨f.signBit neg + bits, flagIf (!exact) fInx ||| flagIf (tiny && !exact) fUnf⟩

/-- Deliver an exact value in a format (R165–R167, R159): the last step of every operation. `inv` is INV found on the way. -/
def Fmt.deliver (f : Fmt) (m : Rnd) (sat : Bool) (inv : Bool) : FV → FRes
  | .nan s => ⟨f.defNan, flagIf (inv || s) fInv⟩
  | .inf n => if sat || !f.hasInf then ⟨f.largest n, flagIf inv fInv ||| fInx⟩ else ⟨f.inf n, flagIf inv fInv⟩
  | .fin n 0 _ => ⟨f.signBit n, flagIf inv fInv⟩
  | .fin n k e =>
    let r := f.round m sat n k 1 e
    ⟨r.bits, r.flags ||| flagIf inv fInv⟩

/-! ### Exact operations on values: each gives the value and whether it is an invalid operation (R169) -/

/-- Exact sum of two finite values; the sign of an exact zero follows R165. -/
def addFin (m : Rnd) (n1 : Bool) (m1 : Nat) (e1 : Int) (n2 : Bool) (m2 : Nat) (e2 : Int) : FV :=
  if m1 = 0 && m2 = 0 && n1 == n2 then .fin n1 0 0
  else
    let e := if e1 ≤ e2 then e1 else e2
    let a : Int := (m1 * 2 ^ (e1 - e).toNat : Nat)
    let b : Int := (m2 * 2 ^ (e2 - e).toNat : Nat)
    let s := (if n1 then -a else a) + (if n2 then -b else b)
    if s = 0 then .fin (m == .rdn) 0 0 else .fin (s < 0) s.natAbs e

/-- Exact sum. -/
def addV (m : Rnd) (a b : FV) : FV × Bool :=
  match a, b with
  | .nan s, y => (.nan false, s || y.isSig)
  | x, .nan s => (.nan false, s || x.isSig)
  | .inf n1, .inf n2 => if n1 == n2 then (.inf n1, false) else (.nan false, true)
  | .inf n, .fin .. => (.inf n, false)
  | .fin .., .inf n => (.inf n, false)
  | .fin n1 m1 e1, .fin n2 m2 e2 => (addFin m n1 m1 e1 n2 m2 e2, false)

/-- Exact product. -/
def mulV (a b : FV) : FV × Bool :=
  match a, b with
  | .nan s, y => (.nan false, s || y.isSig)
  | x, .nan s => (.nan false, s || x.isSig)
  | .inf n1, y => if y.isZero then (.nan false, true) else (.inf (n1 != y.neg), false)
  | x, .inf n2 => if x.isZero then (.nan false, true) else (.inf (x.neg != n2), false)
  | .fin n1 m1 e1, .fin n2 m2 e2 => (.fin (n1 != n2) (m1 * m2) (e1 + e2), false)

/-- Addition (FADD). -/
def Fmt.add (f : Fmt) (m : Rnd) (a b : Nat) : FRes :=
  let (v, inv) := addV m (f.value a) (f.value b)
  f.deliver m false inv v

/-- Subtraction (FSUB). -/
def Fmt.sub (f : Fmt) (m : Rnd) (a b : Nat) : FRes :=
  let (v, inv) := addV m (f.value a) (f.value b).negate
  f.deliver m false inv v

/-- Multiplication (FMUL). -/
def Fmt.mul (f : Fmt) (m : Rnd) (a b : Nat) : FRes :=
  let (v, inv) := mulV (f.value a) (f.value b)
  f.deliver m false inv v

/-- a × b + c with one rounding (FMA); the product is negated for FNMS. -/
def Fmt.fma (f : Fmt) (m : Rnd) (negP : Bool) (a b c : Nat) : FRes :=
  let (p, inv1) := mulV (f.value a) (f.value b)
  let (v, inv2) := addV m (if negP then p.negate else p) (f.value c)
  f.deliver m false (inv1 || inv2) v

/-- Division (FDIV), with DZ (R169). -/
def Fmt.div (f : Fmt) (m : Rnd) (a b : Nat) : FRes :=
  match f.value a, f.value b with
  | .nan s, y => ⟨f.defNan, flagIf (s || y.isSig) fInv⟩
  | x, .nan s => ⟨f.defNan, flagIf (s || x.isSig) fInv⟩
  | .inf _, .inf _ => ⟨f.defNan, fInv⟩
  | .inf n, y => ⟨f.inf (n != y.neg), 0⟩
  | x, .inf n => ⟨f.signBit (x.neg != n), 0⟩
  | .fin n1 m1 e1, .fin n2 m2 e2 =>
    if m2 = 0 then (if m1 = 0 then ⟨f.defNan, fInv⟩ else ⟨f.inf (n1 != n2), fDz⟩)
    else if m1 = 0 then ⟨f.signBit (n1 != n2), 0⟩
    else f.round m false (n1 != n2) m1 m2 (e1 - e2)

/-- The integer square root by bits: the largest r < 2^n with r² ≤ x. -/
def isqrtBits (x : Nat) : Nat → Nat → Nat
  | 0, r => r
  | n + 1, r =>
    let r' := r + 2 ^ n
    isqrtBits x n (if r' * r' ≤ x then r' else r)

/-- Square root (FSQRT): the root is taken with more bits than the format has, and a last bit that says whether it is exact. -/
def Fmt.sqrt (f : Fmt) (m : Rnd) (a : Nat) : FRes :=
  match f.value a with
  | .nan s => ⟨f.defNan, flagIf s fInv⟩
  | .inf n => if n then ⟨f.defNan, fInv⟩ else ⟨f.inf false, 0⟩
  | .fin n k e =>
    if k = 0 then ⟨f.signBit n, 0⟩
    else if n then ⟨f.defNan, fInv⟩
    else
      let odd := e % 2 != 0
      let k1 := if odd then 2 * k else k
      let e1 := if odd then e - 1 else e
      let sh := 2 * f.fw + 8
      let x := k1 * 2 ^ (2 * sh)
      let r := isqrtBits x (Nat.log2 x / 2 + 1) 0
      let sticky := if r * r = x then 0 else 1
      f.round m false false (2 * r + sticky) 1 (e1 / 2 - (sh : Int) - 1)

/-- Comparison of two values that are not NaN, −0 equal to +0. -/
def cmpV (a b : FV) : Ordering :=
  match a, b with
  | .inf n1, .inf n2 => if n1 == n2 then .eq else if n1 then .lt else .gt
  | .inf n, _ => if n then .lt else .gt
  | _, .inf n => if n then .gt else .lt
  | .fin n1 m1 e1, .fin n2 m2 e2 =>
    let e := if e1 ≤ e2 then e1 else e2
    let a : Int := (m1 * 2 ^ (e1 - e).toNat : Nat)
    let b : Int := (m2 * 2 ^ (e2 - e).toNat : Nat)
    compare (if n1 then -a else a) (if n2 then -b else b)
  | _, _ => .eq

/-- Minimum or maximum of two encodings (R178). -/
def Fmt.minmax (f : Fmt) (isMax : Bool) (a b : Nat) : FRes :=
  let x := f.value a
  let y := f.value b
  let inv := flagIf (x.isSig || y.isSig) fInv
  if x.isNan && y.isNan then ⟨f.defNan, inv⟩
  else if x.isNan then ⟨b, inv⟩
  else if y.isNan then ⟨a, inv⟩
  else
    let aLess := match cmpV x y with
      | .lt => true
      | .gt => false
      | .eq => x.neg
    ⟨if aLess != isMax then a else b, inv⟩

/-- FSET's and VCMP's conditions (R179): the truth and the flags. -/
def Fmt.cond (f : Fmt) (c : FCond) (a b : Nat) : Bool × BitVec 5 :=
  let x := f.value a
  let y := f.value b
  let un := x.isNan || y.isNan
  let quietInv := match c with
    | .lt | .le => un
    | _ => false
  let t := match c with
    | .eq => !un && cmpV x y == .eq
    | .lt => !un && cmpV x y == .lt
    | .le => !un && cmpV x y != .gt
    | .un => un
    | .ne => un || cmpV x y != .eq
  (t, flagIf (quietInv || x.isSig || y.isSig) fInv)

/-- FCLASS (R180). -/
def Fmt.classMask (f : Fmt) (a : Nat) : Nat :=
  match f.value a with
  | .nan s => if s then 2 ^ 8 else 2 ^ 9
  | .inf n => if n then 2 ^ 0 else 2 ^ 7
  | .fin n m _ =>
    if m = 0 then (if n then 2 ^ 3 else 2 ^ 4)
    else if m < 2 ^ f.fw then (if n then 2 ^ 2 else 2 ^ 5)
    else (if n then 2 ^ 1 else 2 ^ 6)

/-- ConvertF (R167). -/
def convertF (src dst : Fmt) (m : Rnd) (sat : Bool) (a : Nat) : FRes :=
  let x := src.value a
  dst.deliver m sat x.isSig x

/-- A value rounded to an integer type of width w (R168): the result's w bits and the flags. -/
def toIntV (m : Rnd) (w : Nat) (x : FV) : FRes :=
  let hi : Int := 2 ^ (w - 1) - 1
  let lo : Int := -(2 ^ (w - 1))
  let enc (i : Int) : Nat := (i % 2 ^ w).toNat
  match x with
  | .nan _ => ⟨0, fInv⟩
  | .inf n => ⟨enc (if n then lo else hi), fInv⟩
  | .fin n k e =>
    let (q, exact) := roundAt m n k 1 e 0
    let v : Int := if n then -(q : Int) else q
    if v > hi then ⟨enc hi, fInv⟩
    else if v < lo then ⟨enc lo, fInv⟩
    else ⟨enc v, flagIf (!exact) fInx⟩

/-- An integer rounded to a format (R168). -/
def fromInt (f : Fmt) (m : Rnd) (sat : Bool) (v : Int) : FRes := f.deliver m sat false (.fin (v < 0) v.natAbs 0)

/-! ### Matrix accumulation (R171, R172) -/

/-- A value that is −0. -/
def FV.isNegZero (x : FV) : Bool := x.isZero && x.neg

/-- The exact sum of a group's products (R172). -/
def groupSum (ps : List FV) : FV :=
  if ps.any FV.isNan then .nan false
  else
    let pos := ps.any fun x => x.isInf && !x.neg
    let neg := ps.any fun x => x.isInf && x.neg
    if pos && neg then .nan false
    else if pos then .inf false
    else if neg then .inf true
    else if ps.all FV.isNegZero then .fin true 0 0
    else
      match ps.foldl (fun a x => (addV .rne a x).1) (.fin false 0 0) with
      | .fin n m e => .fin (n && m != 0) m e
      | v => v

/-- One group addition into an F32 accumulator word (R171, R172). -/
def accAdd (acc : Nat) (s : FV) : Nat := (Fmt.f32.deliver .rne false false (addV .rne (Fmt.f32.value acc) s).1).bits

/-- Split a list into groups of g. -/
def groupsOf {α : Type} (g : Nat) : Nat → List α → List (List α)
  | 0, _ => []
  | n + 1, l => l.take g :: groupsOf g n (l.drop g)

/-- Accumulate one output of a floating-point MMA other than BX4. -/
def accumulateF (f : Fmt) (g : Nat) (acc : Nat) (row col : List Nat) : Nat :=
  let ps := (row.zip col).map fun p => (mulV (f.value p.1) (f.value p.2)).1
  (groupsOf g (ps.length / g) ps).foldl (fun a grp => accAdd a (groupSum grp)) acc

/-- Accumulate one output of an INT8 MMA: groups of 8, wrapped or clamped at every group addition. -/
def accumulateI (sat : Bool) (acc : Nat) (row col : List Nat) : Nat :=
  let ps := (row.zip col).map fun p => (BitVec.ofNat 8 p.1).toInt * (BitVec.ofNat 8 p.2).toInt
  let step (a : Int) (grp : List Int) : Int :=
    let s := a + grp.foldl (· + ·) 0
    if sat then (if s > 2 ^ 31 - 1 then 2 ^ 31 - 1 else if s < -(2 ^ 31) then -(2 ^ 31) else s)
    else (BitVec.ofInt 32 s).toInt
  ((groupsOf 8 (ps.length / 8) ps).foldl step (BitVec.ofNat 32 acc).toInt % 2 ^ 32).toNat

/-- Accumulate one output of a BX4 MMA: eight groups of 16, two to a block; the exact group sum times both scales. -/
def accumulateB (acc : Nat) (row col : List Nat) (sa sb : List Nat) : Nat :=
  let ps := (row.zip col).map fun p => (mulV (Fmt.e2m1.value p.1) (Fmt.e2m1.value p.2)).1
  ((groupsOf 16 (ps.length / 16) ps).zipIdx).foldl
    (fun a (grp, n) =>
      let s1 := (mulV (groupSum grp) (Fmt.f32.value (sa.getD (n / 2) 0))).1
      accAdd a (mulV s1 (Fmt.f32.value (sb.getD (n / 2) 0))).1) acc

/-! ### The VRED tree (R173) -/

/-- One level of the tree. -/
def treeLevel (op : Nat → Nat → FRes) : List FRes → List FRes
  | a :: b :: l =>
    let r := op a.bits b.bits
    ⟨r.bits, a.flags ||| b.flags ||| r.flags⟩ :: treeLevel op l
  | l => l

/-- The whole tree over 2^n lanes. -/
def tree (op : Nat → Nat → FRes) : Nat → List FRes → FRes
  | 0, l => l.headD ⟨0, 0⟩
  | n + 1, l => tree op n (treeLevel op l)

/-! ### Quantisation to BX4 (R174) -/

/-- The E2M1 code of |x| / scale, saturated, and whether it is exact: RNE onto the E2M1 grid. -/
def quantE2m1 (x scale : FV) : Nat × Bool :=
  match x, scale with
  | .fin n m e, .fin _ sm se =>
    if m = 0 then (Fmt.e2m1.signBit n, true)
    else
      let r := Fmt.e2m1.round .rne true n m sm (e - se)
      (r.bits, r.flags == 0)
  | _, _ => (0, true)

/-- QuantBX4 (R174): the scale, the 32 codes, and VQNT's flags (R189): an infinity delivered as ±6 is inexact (R169). -/
def quantBX4 (xs : List Nat) : Nat × List Nat × BitVec 5 :=
  let f := Fmt.f32
  let vs := xs.map f.value
  let inv := flagIf (vs.any FV.isSig) fInv
  if vs.any FV.isNan then (0x7FC0_0000, vs.map fun _ => 0, inv)
  else if vs.any FV.isInf then
    (0x7F80_0000, vs.map fun v => Fmt.e2m1.signBit v.neg + (if v.isInf then 7 else 0), fInx)
  else
    let m := vs.foldl (fun a v => match v with
      | .fin _ k e => if cmpV a (.fin false k e) == .lt then .fin false k e else a
      | _ => a) (FV.fin false 0 0)
    match m with
    | .fin _ 0 _ => (0x3F80_0000, vs.map fun _ => 0, 0)
    | .fin _ k e =>
      let r := f.round .rne false false k 6 e
      let scale := if r.bits = 0 then 1 else r.bits
      let exact := r.flags == 0
      let es := vs.map fun v => quantE2m1 v (f.value scale)
      (scale, es.map Prod.fst, flagIf (!exact || es.any fun p => !p.2) fInx)
    | _ => (0, [], 0)

end Sys2Proof.Machine
end

