-- ==== Sys2Proof/Machine/Base.lean ====
section
/-! DEFINITION. Access to the parts of the state: units, strands, partitions, launches; the naming of cores, dies, tiles and
islands (R13, R15, R19); logical cores (R69, R71); rights of pages, grafts and scratchpad sections (R86–R97). -/
namespace Sys2Proof.Machine

/-! ### Names of places (R13, R15, R370) -/

/-- The key of a unit: compute cores 0–1023, kingpost n as 1024 + n. -/
def ukey : UnitRef → Nat
  | .core p => p
  | .kp n => 1024 + n

/-- The unit of a key. -/
def uref (k : Nat) : UnitRef := if k < 1024 then .core k else .kp (k - 1024)

/-- A kingpost. -/
def isKp : UnitRef → Bool
  | .core _ => false
  | .kp _ => true

/-- The tile of a unit, as 8 × die + tile. -/
def utile : UnitRef → Nat
  | .core p => p / 32
  | .kp n => n

/-- The die of a unit. -/
def udie (u : UnitRef) : Nat := utile u / 8

/-- The key of the island a unit counts cycles on: the quad of a core (R15); a kingpost counts its own (log 7). -/
def uisland : UnitRef → Nat
  | .core p => p / 4
  | .kp n => 256 + n

/-- Two compute cores lie in one group of a level (R19). -/
def sameGroup (sc : Scope) (a b : Nat) : Bool :=
  match sc with
  | .core => a == b
  | .quad => a / 4 == b / 4
  | .tile => a / 32 == b / 32
  | .die => a / 256 == b / 256
  | .pkg | .sys => true

/-- A scope is at least another. -/
def scopeGe (a b : Scope) : Bool := b.code ≤ a.code

/-- How many contexts a unit has (R117). -/
def nctx : UnitRef → Nat
  | .core _ => 8
  | .kp _ => 20

/-! ### Parts of the state -/

/-- A core or kingpost. -/
def State.unit (s : State) (u : UnitRef) : CoreUnit := NMap.getD s.units (ukey u) CoreUnit.reset
/-- Replace a core or kingpost. -/
def State.setUnit (s : State) (u : UnitRef) (x : CoreUnit) : State := { s with units := NMap.set s.units (ukey u) x }
/-- Change a core or kingpost. -/
def State.modUnit (s : State) (u : UnitRef) (f : CoreUnit → CoreUnit) : State := s.setUnit u (f (s.unit u))

/-- The strand in a context. -/
def State.strand (s : State) (c : CtxRef) : Option Strand := NMap.find (s.unit c.unit).strands c.ctx
/-- Put a strand into a context. -/
def State.setStrand (s : State) (c : CtxRef) (t : Strand) : State :=
  s.modUnit c.unit fun u => { u with strands := NMap.set u.strands c.ctx t }
/-- Free a context. -/
def State.delStrand (s : State) (c : CtxRef) : State :=
  s.modUnit c.unit fun u => { u with strands := NMap.del u.strands c.ctx }

/-- Every strand of the package with its context. -/
def State.allStrands (s : State) : List (CtxRef × Strand) :=
  s.units.flatMap fun e => e.2.strands.map fun t => (⟨uref e.1, t.1⟩, t.2)

/-- The context of the strand with a number. -/
def State.findSid (s : State) (sid : Nat) : Option (CtxRef × Strand) := s.allStrands.find? fun p => p.2.sid == sid
/-- Change the strand with a number, if it still exists. -/
def State.modSid (s : State) (sid : Nat) (f : Strand → Strand) : State :=
  match s.findSid sid with
  | some (c, t) => s.setStrand c (f t)
  | none => s

/-- A partition. -/
def State.part (s : State) (p : Nat) : Part := NMap.getD s.parts p Part.reset
/-- Change a partition. -/
def State.modPart (s : State) (p : Nat) (f : Part → Part) : State := { s with parts := NMap.set s.parts p (f (s.part p)) }
/-- A function. -/
def State.fn (s : State) (n : Nat) : Fn := NMap.getD s.fns n (Fn.reset n)
/-- Change a function. -/
def State.modFn (s : State) (n : Nat) (f : Fn → Fn) : State := { s with fns := NMap.set s.fns n (f (s.fn n)) }
/-- A tile. -/
def State.tile (s : State) (n : Nat) : Tile := NMap.getD s.tiles n Tile.reset
/-- Change a tile. -/
def State.modTile (s : State) (n : Nat) (f : Tile → Tile) : State := { s with tiles := NMap.set s.tiles n (f (s.tile n)) }
/-- A die. -/
def State.die (s : State) (d : Nat) : Die := s.dies.toList.getD d (Die.reset d)
/-- Change a die. -/
def State.modDie (s : State) (d : Nat) (f : Die → Die) : State :=
  if h : d < 4 then { s with dies := s.dies.set d (f s.dies[d]) } else s
/-- An island. -/
def State.island (s : State) (n : Nat) : Island := NMap.getD s.islands n Island.reset
/-- Change an island. -/
def State.modIsland (s : State) (n : Nat) (f : Island → Island) : State :=
  { s with islands := NMap.set s.islands n (f (s.island n)) }
/-- A queue slot. -/
def State.slot (s : State) (n : Nat) : Slot := NMap.getD s.slots n Slot.reset
/-- Change a queue slot. -/
def State.setSlot (s : State) (n : Nat) (x : Slot) : State := { s with slots := NMap.set s.slots n x }
/-- A live launch. -/
def State.launch (s : State) (n : Nat) : Option Launch := NMap.find s.launches n
/-- Change a live launch. -/
def State.modLaunch (s : State) (n : Nat) (f : Launch → Launch) : State :=
  match s.launch n with
  | some l => { s with launches := NMap.set s.launches n (f l) }
  | none => s
/-- LSTAT of a launch number. -/
def State.modLstat (s : State) (n : Nat) (f : Lstat → Lstat) : State :=
  { s with lstat := NMap.set s.lstat n (f (NMap.getD s.lstat n ⟨0, 0⟩)) }
/-- A slice's counters. -/
def State.modSlice (s : State) (n : Nat) (f : SliceCnt → SliceCnt) : State :=
  { s with slices := NMap.set s.slices n (f (NMap.getD s.slices n ⟨0, 0⟩)) }
/-- What the device sends outward. -/
def State.emit (s : State) (o : Out) : State := { s with outs := s.outs ++ [o] }
/-- A BAR0 or CXL.mem access that finds bring-up incomplete (R364). -/
def State.unsupported (s : State) : State := s.emit .unsupported
/-- Events to be performed by the next steps. -/
def State.later (s : State) (e : List Instr) : State := { s with agenda := s.agenda ++ e }
/-- A fresh number, and the state that has used it. -/
def State.fresh (s : State) : Nat × State := (s.nextId, { s with nextId := s.nextId + 1 })

/-- The VF bound to a partition, or 0 for none (R325, R357). -/
def State.vfOf (s : State) (p : Nat) : Nat :=
  (((List.range 64).drop 1).find? fun v => (s.fn v).bind == p).getD 0

/-- The function that a launch belongs to (R44): its packet's, and for a launch that is not live the partition's. -/
def State.launchFn (s : State) (launch part : Nat) : Nat :=
  match s.launch launch with
  | some l => l.pkt.vf
  | none => s.vfOf part

/-- The tile of kingpost `n` is the tile itself; the key of RADD and LCORE for a kingpost's own context (R243, R370). -/
def kpKey (n : Nat) : Nat := 2 ^ 18 + n

/-- A strand's home: its home core and context while it is migrated, else where it is (R131). -/
def homeOf (c : CtxRef) (t : Strand) : CtxRef := t.home.getD c

/-! ### Logical cores (R69–R71) -/

/-- The mapping-table entry of logical core `l` of a partition: the cached copy where there is one, else from memory. -/
def State.mapEntry (s : State) (p l : Nat) : Nat :=
  match s.mapCache.find? fun e => e.1 == p && e.2.1 == l with
  | some e => e.2.2.toNat
  | none => Memory.readN s.mem ((s.part p).mapbase.toNat + 4 * l) 4

/-- An entry is valid: V is set and the number is no reserved one (R69, R71); its reserved bits are not looked at (log 52). -/
def mapValid (l e : Nat) : Bool := l < 0x3_FF00 && e / 2 ^ 31 % 2 == 1
/-- PKG of an entry. -/
def mapPkg (e : Nat) : Nat := e / 2 ^ 10 % 256
/-- PCORE of an entry. -/
def mapPcore (e : Nat) : Nat := e % 1024

/-- The valid entries of an aligned block of logical cores all name this package's unit `f` of the same number. -/
def State.blockOk (s : State) (p l size div : Nat) : Bool :=
  let lo := l / size * size
  let e0 := s.mapEntry p l
  (List.range size).all fun i =>
    let e := s.mapEntry p (lo + i)
    !mapValid (lo + i) e || (mapPkg e == mapPkg e0 && mapPcore e / div == mapPcore e0 / div)

/-- Where a logical core is: its package and physical core; none when it is not a valid core of the partition. Its blocks must
keep R69's rules, and a core of this package must be enabled and carry the partition's tag. -/
def State.coreAt (s : State) (p l : Nat) : Option (Nat × Nat) :=
  let e := s.mapEntry p l
  if !mapValid l e || !s.blockOk p l 32 32 || !s.blockOk p l 4 4 then none
  else if mapPkg e != s.pkgNo then some (mapPkg e, mapPcore e)
  else
    let u := s.unit (.core (mapPcore e))
    if u.en && u.tag == p then some (s.pkgNo, mapPcore e) else none

/-! ### Rights (R86, R90) -/

/-- Kinds of access (R86). -/
inductive Acc where
  | read | write | both
  deriving DecidableEq, Repr

/-- The ACC code of a trap record (R320). -/
def Acc.trapCode : Acc → Nat
  | .read => 1 | .write => 2 | .both => 3
/-- The ACC code of a fault record (R324). -/
def Acc.faultCode : Acc → Nat
  | .read => 0 | .write => 1 | .both => 2
/-- The access writes. -/
def Acc.writes : Acc → Bool
  | .read => false
  | _ => true
/-- The access reads. -/
def Acc.reads : Acc → Bool
  | .write => false
  | _ => true

/-- PermOK (R86): the page's R and W admit the access. -/
def permOk (l : Leaf) (a : Acc) : Bool := (!a.reads || l.r) && (!a.writes || l.w)

/-- Allowed (R86): the domain condition. -/
def allowed (d : Dom) (l : Leaf) (a : Acc) : Bool :=
  let rd := d == 0 || d == l.tag || l.pubr
  let wr := d == 0 || d == l.tag || l.pubw
  (!a.reads || rd) && (!a.writes || wr)

/-- A graft covers an access: its whole range and its rights (R90). -/
def Graft.covers (g : Graft) (va size : Nat) (a : Acc) : Bool :=
  g.base.toNat ≤ va && va + size ≤ g.base.toNat + g.len &&
  (!a.reads || g.rights.getLsbD 0) && (!a.writes || g.rights.getLsbD 1)

/-- Some graft of a set covers an access. -/
def graftsCover (gs : Grafts) (va size : Nat) (a : Acc) : Bool :=
  gs.toList.any fun g => match g with
    | some g => g.covers va size a
    | none => false

/-- Reach (R86): directly, or through a graft whose grantor could reach it. -/
def reach : List Frame → Dom → Leaf → Nat → Nat → Acc → Bool
  | [], d, l, _, _, a => allowed d l a
  | f :: outer, d, l, va, size, a => allowed d l a || (graftsCover f.grafts va size a && reach outer f.grantor l va size a)

/-! ### Scratchpad (R14, R94–R97, R195, R197) -/

/-- The base of the own-scratchpad alias (R197). -/
def aliasBase : Nat := 0x7F_FFFF_FFC0_0000

/-- SPLIT.SZ as it acts: a kingpost's is fixed at 0b11 (R195). -/
def splitOf (u : UnitRef) (x : CoreUnit) : Nat := if isKp u then 3 else x.split.toNat

/-- Scratchpad size in bytes (R195). -/
def spSize (u : UnitRef) (x : CoreUnit) : Nat := (splitOf u x + 1) * 0x8_0000

/-- Offset of mortise m (R305). -/
def mortOff (u : UnitRef) (x : CoreUnit) (m : Nat) : Nat := spSize u x - 33280 + 16640 * m

/-- Which mortise holds an offset. -/
def mortAt (u : UnitRef) (x : CoreUnit) (off : Nat) : Option (Fin 2) :=
  if mortOff u x 0 ≤ off && off < mortOff u x 1 then some 0
  else if mortOff u x 1 ≤ off && off < spSize u x then some 1 else none

/-- The tag, PUBR and PUBW that check an offset (R94, R95). -/
def sectOf (u : UnitRef) (x : CoreUnit) (off : Nat) : Dom × Bool × Bool :=
  let sn := off / 65536
  if sn + 1 = spSize u x / 65536 then
    match mortAt u x off with
    | some m => match x.mort[m] with
      | some k => (k.tag, false, false)
      | none => (0, false, false)
    | none => (0, false, false)
  else
    let r := x.sect.toList.getD sn 0
    (r.setWidth 8, r.getLsbD 8, r.getLsbD 9)

/-- An occupied mortise's prefix covers some byte of the range (R305): no strand may store to it. -/
def hitsPrefix (u : UnitRef) (x : CoreUnit) (off n : Nat) : Bool :=
  [0, 1].any fun m =>
    (x.mort.toList.getD m none).isSome && off < mortOff u x m + 256 && mortOff u x m < off + n

/-- CheckSect (R94, R197): an access of n bytes at an offset by a domain. -/
def checkSect (u : UnitRef) (x : CoreUnit) (off n : Nat) (a : Acc) (d : Dom) : Bool :=
  let ok (o : Nat) : Bool :=
    let (tag, pr, pw) := sectOf u x o
    let l : Leaf := ⟨0, tag, 0, false, false, pw, pr, true, false, true, true⟩
    allowed d l a
  off + n ≤ spSize u x && (n == 0 || (ok off && ok (off + n - 1))) && !(a.writes && hitsPrefix u x off n)

/-- Regions of a virtual address (R210). -/
inductive Area where
  | paged | host | window (l off : Nat) | own (off : Nat) | bad
  deriving DecidableEq, Repr

/-- The region of an address (R210, R211): a reserved bit, or region 0b11 outside the alias, is bad. -/
def regionOf (va : Word) : Area :=
  let v := va.toNat
  if v / 2 ^ 55 != 0 then .bad
  else match v / 2 ^ 53 with
    | 0 => .paged
    | 1 => .host
    | 2 => if v / 2 ^ 40 % 2 ^ 13 = 0 then .window (v / 2 ^ 22 % 2 ^ 18) (v % 2 ^ 22) else .bad
    | _ => if aliasBase ≤ v then .own (v - aliasBase) else .bad

/-- IsScratchpad (R225): the own alias and the core window. -/
def isScratch (va : Word) : Bool :=
  match regionOf va with
  | .own _ | .window _ _ => true
  | _ => false

/-- Bytes are poisoned in a scratchpad (R334). -/
def spPoisoned (x : CoreUnit) (off n : Nat) : Bool := x.spPoison.any fun w => w * 8 < off + n && off < w * 8 + 8

/-- Write bytes to a scratchpad; a word all of whose bytes are written loses its poison (R334). -/
def spWrite (x : CoreUnit) (off : Nat) (bs : List Byte) : CoreUnit :=
  { x with
    sp := Memory.writeBytes x.sp off bs
    spPoison := x.spPoison.filter fun w => !(off ≤ w * 8 && w * 8 + 8 ≤ off + bs.length) }

/-- The full bit of a word (R197). -/
def fullBit (x : CoreUnit) (w : Nat) : Bool := x.full.contains w

/-- Set or clear a full bit. -/
def setFull (x : CoreUnit) (w : Nat) (b : Bool) : CoreUnit :=
  { x with full := if b then (if x.full.contains w then x.full else x.full ++ [w]) else x.full.filter (· != w) }

/-- Every word of a range of sections ← 0 with its full bit clear (R97, R342). -/
def zeroSect (x : CoreUnit) (off n : Nat) : CoreUnit :=
  { x with
    sp := Memory.clear x.sp off n
    full := x.full.filter fun w => !(off ≤ w * 8 && w * 8 < off + n)
    spPoison := x.spPoison.filter fun w => !(off ≤ w * 8 && w * 8 < off + n) }

end Sys2Proof.Machine
end

