-- ==== Sys2Proof/Machine/Home.lean ====
section
/-! DEFINITION. The home of a line (R201–R209, R221–R223): what the L2, its replicas, the reduction slots, the side store and
the dirty bitmap do when a read or a write is performed there, each as one step. -/
namespace Sys2Proof.Machine

/-! ### The physical map (R201–R203) -/

/-- What a physical address is (R201). -/
inductive PaKind where
  | mem | tags | door (part : Nat) | unbacked
  deriving DecidableEq, Repr

/-- The physical address map (R201, R57). -/
def paKind (pa : Nat) : PaKind :=
  if pa < 0x200_0000_0000 then (if pa % 2 ^ 39 < 0x78_0000_0000 then .mem else .tags)
  else if 0xF_FF00_0000_0000 ≤ pa && pa < 0xF_FF00_0040_0000 then .door ((pa - 0xF_FF00_0000_0000) / 65536)
  else .unbacked

/-- A translation may yield this address (R201): memory or a doorbell page. -/
def paBacked (pa : Nat) : Bool :=
  match paKind pa with
  | .mem | .door _ => true
  | _ => false

/-- The home die of a line (R201, R203). -/
def homeDie (line : Nat) : Nat := line / 2 ^ 32 % 4

/-- The home slice of a line on its die (R203). -/
def homeSlice (x : Nat) : Nat :=
  (x % 64) ^^^ (x / 2 ^ 6 % 64) ^^^ (x / 2 ^ 12 % 64) ^^^ (x / 2 ^ 18 % 64) ^^^ (x / 2 ^ 24 % 64) ^^^ (x / 2 ^ 30 % 64) ^^^
    (x / 2 ^ 36 % 64) ^^^ (x / 2 ^ 42 % 8)

/-- The package-wide number of a line's slice (R242). -/
def sliceNo (line : Nat) : Nat := 64 * homeDie line + homeSlice line

/-- The physical address of a visible offset (R202). -/
def paOfVisible (v : Nat) : Nat := v / 0x78_0000_0000 * 2 ^ 39 + v % 0x78_0000_0000

/-- The line at its home. -/
def State.line (s : State) (n : Nat) : LineMeta := NMap.getD s.lines n LineMeta.reset
/-- Replace a line's state at its home. -/
def State.setLine (s : State) (n : Nat) (m : LineMeta) : State := { s with lines := NMap.set s.lines n m }
/-- The 128 bytes of a line at its home. -/
def State.lineData (s : State) (n : Nat) : LineData := BitVec.ofNat 1024 (Memory.readN s.mem (128 * n) 128)

/-- The generation of a key slot: which key its tags are written under (R222, R356). -/
def State.keyGen (s : State) (slot : Nat) : Nat := (NMap.getD s.keys slot (false, 0)).2

/-! ### Replicas (R205–R208) -/

/-- The 1 MiB region of a line. -/
def regionNo (line : Nat) : Nat := line / 8192

/-- A region's state. -/
def State.region (s : State) (n : Nat) : Region := NMap.getD s.regions n ⟨(s.die (n / 2 ^ 19 % 4)).deg, 0, 0⟩
/-- Change a region. -/
def State.modRegion (s : State) (n : Nat) (f : Region → Region) : State :=
  { s with regions := NMap.set s.regions n (f (s.region n)) }

/-- A saturating 16-bit count (R207). -/
def sat16 (n : Nat) : Nat := min n 0xFFFF

/-- A degree code admits a replica on a die (R205). -/
def admits (deg : Nat) (home die : Nat) : Bool :=
  if deg = 0 then false else if deg = 1 then die == home ^^^ 1 else die != home

/-- Send an invalidation of a line to each of these dies (R206): the writes of these strands wait for it, and it chases the replica that is
there and the fill that was sent earlier (R279). -/
def State.chase (s : State) (line : Nat) (ds sids : List Nat) (excl : Bool) : State :=
  { s with
    invs := s.invs ++ ds.map fun d => ⟨d, line, sids, [], excl⟩
    reps := s.reps.map fun r => if r.line = line && ds.contains r.die then { r with chased := true } else r
    repFills := s.repFills.map fun f => if f.line = line && ds.contains f.die then { f with chased := true } else f }

/-- Invalidate every replica of a line (R206): the write of these strands waits for each invalidation, those on their way among them, and a
write that sends one counts in WCOL (R207). -/
def State.collapse (s : State) (line : Nat) (sids : List Nat) (count : Bool) : State :=
  let ds := NMap.getD s.dir line []
  let s1 := ({ s with
    invs := s.invs.map fun v => if v.line = line then { v with sids := v.sids ++ sids } else v
    dir := NMap.del s.dir line } : State).chase line ds sids false
  if count && !ds.isEmpty then s1.modRegion (regionNo line) fun r => { r with wcol := sat16 (r.wcol + 1) } else s1

/-- The collapse of a line with every acknowledgement awaited, as one step: a line that leaves its home leaves no copy (R206). -/
def State.collapseNow (s : State) (line : Nat) : State :=
  { s with
    reps := s.reps.filter fun r => r.line != line
    repFills := s.repFills.map fun f => if f.line = line then { f with live := false } else f
    invs := s.invs.filter fun v => v.line != line
    dir := NMap.del s.dir line }

/-- A die evicts a replica, and the home forgets it (R206), unless the home has forgotten it already, or knows the die by a newer fill. -/
def State.dropReplica (s : State) (r : Replica) : State :=
  let ds := (NMap.getD s.dir r.line []).filter (· != r.die)
  let s1 := { s with reps := s.reps.filter (· != r) }
  if r.chased || s.repFills.any fun f => f.die == r.die && f.line == r.line && !f.chased then s1
  else { s1 with dir := if ds.isEmpty then NMap.del s.dir r.line else NMap.set s.dir r.line ds }

/-- A fill reaches its die (R206, R279): it is installed unless a later invalidation has overtaken it, and one that was sent before it and
is still on its way is not. -/
def State.installReplica (s : State) (f : RepFill) (earlier later : List RepFill) : State :=
  let same (g : RepFill) : Bool := g.die == f.die && g.line == f.line
  if f.live then
    { s with
      repFills := (earlier.map fun g => if same g then { g with live := false } else g) ++ later
      reps := ⟨f.die, f.line, f.owner, f.chased, f.data⟩ :: s.reps.filter fun r => !(r.die == f.die && r.line == f.line) }
  else { s with repFills := earlier ++ later }

/-- A unit does not go back to the replicas that these invalidations are on their way to (R266, R268). -/
def State.keepOff (s : State) (u : UnitRef) (f : Inval → Bool) : State :=
  if s.invs.isEmpty then s
  else { s with invs := s.invs.map fun v => if f v && !v.units.contains (ukey u) then { v with units := v.units ++ [ukey u] } else v }

/-- A unit has written a line, or has read it at home: while invalidations of it are on their way, it does not go back to a replica, nor do
its strands where they move to (R266, R268). -/
def State.atHomeSeen (s : State) (u : UnitRef) (line : Nat) : State := s.keepOff u fun v => v.line == line

/-- A strand moves from one unit to another (R319, R322): what it has seen at home it has seen there too (R266). -/
def State.seenToo (s : State) (u u' : UnitRef) : State := s.keepOff u' fun v => v.units.contains (ukey u)

/-- The lines that a unit has seen at home ahead of an invalidation (R266). -/
def State.seenLines (s : State) (u : UnitRef) : List Nat :=
  ((s.invs.filter fun v => v.units.contains (ukey u)).map (·.line)).eraseDups

/-- Collapse the replicas of a region on dies that a degree excludes (R207, R237): until each is acknowledged no further one is filled. -/
def State.collapseExcluded (s : State) (region deg : Nat) : State :=
  s.dir.foldl (fun s e =>
    if regionNo e.1 = region then
      let out := e.2.filter fun d => !admits deg (homeDie e.1) d
      let keep := e.2.filter fun d => admits deg (homeDie e.1) d
      ({ s with dir := if keep.isEmpty then NMap.del s.dir e.1 else NMap.set s.dir e.1 keep } : State).chase e.1 out [] true
    else s) s

/-- A read at a home may fill a replica on a die (R205, R206): the degree admits it, the home knows none there, and no collapse of the
region's excluded replicas is on its way (R207, R237). -/
def State.mayFill (s : State) (line die deg : Nat) : Bool :=
  admits deg (homeDie line) die && !(NMap.getD s.dir line []).contains die &&
    !s.invs.any fun v => v.excl && regionNo v.line == regionNo line

/-- A replica of a line goes on its way to a die (R206). -/
def State.fillOn (s : State) (p line die : Nat) (d : LineData) : State :=
  { s with
    dir := NMap.set s.dir line (NMap.getD s.dir line [] ++ [die])
    repFills := s.repFills ++ [⟨die, line, p, false, true, d⟩] }

/-- The degree that a request goes by: its pin (R208), or the region's. -/
def State.degreeFor (s : State) (line : Nat) (pin : BitVec 2) : Nat :=
  if pin == 0 then (s.region (regionNo line)).deg.toNat else pin.toNat - 1

/-! ### Owners, tags and poison (R204, R221–R223, R334) -/

/-- How a request finds a line: readable, poisoned, or under another key slot (R223). -/
inductive Hit where
  | ok | poisoned | foreign
  deriving DecidableEq, Repr

/-- The line leaves the L2: its replicas have collapsed, a dirty line is written back under its owner's slot or, poisoned, with
the poison tag (R206, R221, R334). -/
def State.evict (s : State) (line : Nat) : State :=
  let m := s.line line
  let s := s.collapseNow line
  match m.owner with
  | none => s
  | some q =>
    let dram := if !m.dirty then m.dram else if m.poison then .poisoned else .key q (s.keyGen q)
    s.setLine line ⟨none, false, false, dram, none⟩

/-- Bring a line into the L2 for a partition (R204, R223). -/
def State.fillFor (s : State) (p line : Nat) : State × Hit :=
  let m := s.line line
  match m.dram with
  | .clear => (s.setLine line ⟨some p, false, false, .clear, none⟩, .ok)
  | .poisoned => (s.setLine line ⟨some p, false, true, .poisoned, none⟩, .poisoned)
  | .key q g =>
    if q != p then (s, .foreign)
    else if g == s.keyGen q then (s.setLine line ⟨some p, false, false, .key q g, none⟩, .ok)
    else (s.setLine line ⟨some p, false, true, .key q g, none⟩, .poisoned)

/-- The line is not in the L2, and its tag was written under a key that is gone (R223, R356). -/
def State.stale (s : State) (m : LineMeta) : Bool :=
  m.owner.isNone && (match m.dram with
    | .key q g => g != s.keyGen q
    | _ => false)

/-- A request of a partition reaches a line at its home (R204): a hit under another tag is treated as a miss. A request of no
partition (the front end's and the host's) finds the line as its owner would. A failed die answers every request as poisoned (R334). -/
def State.touch (s : State) (who : Option Nat) (line : Nat) : State × Hit :=
  let m := s.line line
  if (s.die (homeDie line)).failed then (s, .poisoned) else
  match who with
  | none => (s, if m.poison || m.dram == .poisoned || s.stale m then .poisoned else .ok)
  | some p =>
    match m.owner with
    | some q =>
      if q == p then (s, if m.poison then .poisoned else .ok)
      else (s.evict line).fillFor p line
    | none => s.fillFor p line

/-! ### Reduction words (R243–R245) -/

/-- Bytes of a reduction word. -/
def RedWord.size (r : RedWord) : Nat := if r.f64 then 8 else 4

/-- The format of a reduction word. -/
def RedWord.fmt (r : RedWord) : Fmt := if r.f64 then .f64 else .f32

/-- RoundRNE(a + b) in a word's format. -/
def RedWord.addR (r : RedWord) (a b : Nat) : Nat := (r.fmt.add .rne a b).bits

/-- Fold one word (R244): the slots in rising key order, each sum rounded. -/
def State.foldWord (s : State) (r : RedWord) : State :=
  let v := r.slots.foldl (fun v e => r.addR v (e.2.toNat % 2 ^ (8 * r.size))) (Memory.readN s.mem r.addr r.size)
  { s with mem := Memory.writeN s.mem r.addr r.size v, reds := s.reds.filter fun x => x != r }

/-- Fold every word of a line (R244), and the line becomes dirty. -/
def State.foldLine (s : State) (line : Nat) : State :=
  let rs := s.reds.filter fun r => lineOf r.addr == line
  if rs.isEmpty then s
  else
    let s1 := rs.foldl State.foldWord s
    s1.setLine line { s1.line line with dirty := true }

/-- A line has a reduction word with live slots. -/
def State.hasSlots (s : State) (line : Nat) : Bool := s.reds.any fun r => lineOf r.addr == line

/-- A store that overlaps a word deletes its slots (R244). -/
def State.dropSlots (s : State) (a n : Nat) : State :=
  { s with reds := s.reds.filter fun r => !(a < r.addr + r.size && r.addr < a + n) }

/-! ### The dirty bitmap (R354) and restore marks (R331) -/

/-- The bit of a page of visible memory in a dirty bitmap (R354). -/
def dirtyBit (pa : Nat) : Nat := pa / 2 ^ 39 % 4 * 7864320 + pa % 2 ^ 39 / 65536

/-- Where the byte of a partition's dirty bitmap lies that holds the bit of a page (R354). -/
def State.dirtyByte (s : State) (p pa : Nat) : Nat := (s.part p).dpbase.toNat + dirtyBit pa / 8

/-- A write of a partition to a page sets the page's bit at its home (R354, log 8), where the replicas of the bitmap's line collapse
(R206); what the device writes under its internal key is no partition's (R77), and there is no bitmap where there is no memory. -/
def State.markDirty (s : State) (p pa : Nat) : State :=
  let a := s.dirtyByte p pa
  let b := Memory.read s.mem a
  if 64 ≤ p || paKind a != .mem || b.getLsbD (dirtyBit pa % 8) then s
  else
    let s := s.collapse (lineOf a) [] true
    { s with mem := Memory.write s.mem a (b ||| BitVec.ofNat 8 (2 ^ (dirtyBit pa % 8))) }

/-- A store to bytes 0x08–0x1F of a record clears its restore mark (R331). -/
def State.clearMarks (s : State) (hit : Nat → Bool) : State :=
  { s with marks := s.marks.filter fun r => !((List.range 24).any fun i => hit (32 * r.1 + 8 + i)) }

/-! ### Host ownership of halves (R285) -/

/-- Some half that the mask touches is the host's. -/
def State.hostHas (s : State) (line : Nat) (mask : BitVec 128) : Bool :=
  s.hostOwn.any fun e => e.1 == line && (if e.2 then mask.extractLsb' 64 64 != 0 else mask.extractLsb' 0 64 != 0)

/-- Recall the halves of a line that the mask touches and the host owns (R285). -/
def State.recall (s : State) (line : Nat) (mask : BitVec 128) : State :=
  let hs := s.hostOwn.filter fun e =>
    e.1 == line && (if e.2 then mask.extractLsb' 64 64 != 0 else mask.extractLsb' 0 64 != 0) &&
      !s.snoops.contains ⟨line, e.2⟩
  { s with snoops := s.snoops ++ hs.map fun e => ⟨e.1, e.2⟩ }

/-- A push of a record of this line waits at its home: operations on the line wait behind it (R77). -/
def State.pushHeld (s : State) (line : Nat) : Bool := s.pushWait.any fun e => e.2.2.line == line

/-! ### Reads and writes performed at the home -/

/-- The mask of a whole line. -/
def fullMask : BitVec 128 := BitVec.allOnes 128

/-- A write performed at the home of a line of memory (R206, R223, R227, R229, R244, R331, R354): who writes, on behalf of which
strands. A partial write under another slot's tag is not performed (log 9); a full-line write takes the line over and clears its
poison; the other slot's copy stays in LPDDR6 until the line is written back. A line that is clear stays clear when the host writes it
(log 44). A failed die keeps nothing (log 55). -/
def State.lineWrite (s : State) (who : Option Nat) (sids : List Nat) (line : Nat) (mask : BitVec 128) (data : LineData) :
    State :=
  let (s, hit) := s.touch who line
  let full := mask == fullMask
  if (hit == .foreign && !full) || (s.die (homeDie line)).failed then s
  else
    let s := s.collapse line sids true
    let m := s.line line
    let owner := match who with
      | some p => some p
      | none => m.owner
    let dram := match who, m.owner with
      | none, none => if full && (m.dram == .poisoned || s.stale m) then DramTag.clear else m.dram
      | _, _ => m.dram
    let old := match m.old with
      | some d => some d
      | none => if hit == .foreign then some (s.lineData line) else none
    let s := s.setLine line ⟨owner, owner.isSome, m.poison && !full, dram, old⟩
    let s := { s with
      mem := Memory.writeMasked s.mem (128 * line) mask data 128
      reds := s.reds.filter fun r =>
        !(lineOf r.addr == line && (List.range r.size).any fun i => mask.getLsbD (r.addr % 128 + i)) }
    let s := s.clearMarks fun a => lineOf a == line && mask.getLsbD (a % 128)
    match who with
    | some p => s.markDirty p (128 * line)
    | none => s

/-- A write that reaches a home: one to a doorbell page writes no memory (R57, R201). -/
def State.homeWrite (s : State) (who : Option Nat) (sids : List Nat) (line : Nat) (mask : BitVec 128) (data : LineData) :
    State :=
  match paKind (128 * line) with
  | .mem => s.lineWrite who sids line mask data
  | _ => s

/-- A folding read at the home (R244): the line's bytes, and how the request found it; a doorbell page reads as zero (R6). -/
def State.homeRead (s : State) (who : Option Nat) (line : Nat) : State × LineData × Hit :=
  if paKind (128 * line) != .mem then (s, 0, .ok) else
  let (s, hit) := s.touch who line
  if hit == .foreign then (s, 0, hit)
  else
    let s := s.foldLine line
    (s, s.lineData line, hit)

/-- A read at the home that folds nothing: a walker's and PREF's (R244). -/
def State.homePeek (s : State) (who : Option Nat) (line : Nat) : State × LineData × Hit :=
  let (s, hit) := s.touch who line
  (s, if hit == .foreign then 0 else s.lineData line, hit)

/-- The bytes of memory at the home, for an aligned word of n ≤ 8 bytes, by a walker or the front end. -/
def State.homePeekN (s : State) (who : Option Nat) (pa n : Nat) : State × Nat × Hit :=
  let (s, d, hit) := s.homePeek who (lineOf pa)
  (s, lineGet d (pa % 128) n, hit)

/-- A write of n bytes at the home, within one line. -/
def State.homeWriteN (s : State) (who : Option Nat) (sids : List Nat) (pa n v : Nat) : State :=
  s.homeWrite who sids (lineOf pa) (byteMask (pa % 128) n) (linePut (pa % 128) n v)

/-- A write of a list of bytes at the home, line by line; `fuel` bounds the lines. -/
def State.homeWriteBytes (s : State) (who : Option Nat) (sids : List Nat) (pa : Nat) (bs : List Byte) : Nat → State
  | 0 => s
  | fuel + 1 =>
    match bs with
    | [] => s
    | _ =>
      let n := min bs.length (128 - pa % 128)
      let s := s.homeWrite who sids (lineOf pa) (byteMask (pa % 128) n) (linePut (pa % 128) n (natOfBytes (bs.take n)))
      State.homeWriteBytes s who sids (pa + n) (bs.drop n) fuel

/-- A read of n bytes at the home, line by line, folding; the bytes, and whether some line was poisoned. -/
def State.homeReadBytes (s : State) (who : Option Nat) (pa n : Nat) : Nat → State × List Byte × Bool
  | 0 => (s, [], false)
  | fuel + 1 =>
    if n = 0 then (s, [], false)
    else
      let k := min n (128 - pa % 128)
      let (s, d, hit) := s.homeRead who (lineOf pa)
      let (s, bs, bad) := State.homeReadBytes s who (pa + k) (n - k) fuel
      (s, bytesOf k (lineGet d (pa % 128) k) ++ bs, bad || hit != .ok)

/-- An atomic at the home as one step (R238, R239): the old value, or nothing where the line is poisoned. -/
def State.homeRmw (s : State) (p : Nat) (sids : List Nat) (pa n : Nat) (f : Nat → Nat) : State × Option Nat :=
  let (s, d, hit) := s.homeRead (some p) (lineOf pa)
  if hit != .ok then (s, none)
  else
    let old := lineGet d (pa % 128) n
    (s.homeWriteN (some p) sids pa n (f old), some old)

/-- The replica of a line that a unit's reads find on its die: one of the reader's partition (R204), unless the unit has seen the home
since an invalidation was sent after it (R266, R268). -/
def State.replicaFor (s : State) (p : Nat) (u : UnitRef) (line : Nat) : Option Replica :=
  if s.invs.any fun v => v.line == line && v.die == udie u && v.units.contains (ukey u) then none
  else s.reps.find? fun r => r.die == udie u && r.line == line && r.owner == p

/-- A read by a die's L2 for a unit (R206, R207, R277): a replica when one is present, otherwise the home, which fills a replica where
the degree, or the request's pin (R208), admits it. -/
def State.dieRead (s : State) (p : Nat) (u : UnitRef) (line : Nat) (pin : BitVec 2) : State × LineData × Hit :=
  let home := homeDie line
  let die := udie u
  if die = home then (s.atHomeSeen u line).homeRead (some p) line
  else
    match s.replicaFor p u line with
    | some r => (s, r.data, if (s.line line).poison then .poisoned else .ok)
    | none =>
      let (s, d, hit) := (s.atHomeSeen u line).homeRead (some p) line
      let s := s.modRegion (regionNo line) fun r => { r with rmiss := sat16 (r.rmiss + 1) }
      (if hit == .ok && s.mayFill line die (s.degreeFor line pin) then s.fillOn p line die d else s, d, hit)

/-! ### Contributions (R243, R245) -/

/-- Words with live slots held by a slice. -/
def State.slotWords (s : State) (slice : Nat) : Nat := (s.reds.filter fun r => sliceNo (lineOf r.addr) == slice).length

/-- Contribute (R243). -/
def State.contribute (s : State) (p : Nat) (sids : List Nat) (pa : Nat) (f64 : Bool) (x : Word) (key : Nat) : State :=
  let line := lineOf pa
  if paKind pa != .mem then s else
  let (s, hit) := s.touch (some p) line
  if hit != .ok then s
  else
    let s := s.collapse line sids true
    let sz := if f64 then 8 else 4
    let clash := s.reds.filter fun r => r.addr < pa + sz && pa < r.addr + r.size && !(r.addr == pa && r.f64 == f64)
    let s := clash.foldl State.foldWord s
    let s := s.setLine line { s.line line with dirty := true }
    let s := s.markDirty p pa
    let xv := x.toNat % 2 ^ (8 * sz)
    match s.reds.find? fun r => r.addr == pa && r.f64 == f64 with
    | some r =>
      let old := NMap.find r.slots key
      match old with
      | some o =>
        let r' := { r with slots := NMap.set r.slots key (BitVec.ofNat 64 (r.addR (o.toNat % 2 ^ (8 * sz)) xv)) }
        { s with reds := s.reds.map fun y => if y == r then r' else y }
      | none =>
        if r.slots.length < 1024 then
          let v := r.addR ((if f64 then Fmt.f64 else Fmt.f32).signBit true) xv
          let r' := { r with slots := NMap.set r.slots key (BitVec.ofNat 64 v) }
          { s with reds := s.reds.map fun y => if y == r then r' else y }
        else
          let v := r.addR (Memory.readN s.mem pa sz) xv
          let s := { s with mem := Memory.writeN s.mem pa sz v }
          s.modSlice (sliceNo line) fun c => { c with rfold := min (c.rfold + 1) (2 ^ 32 - 1) }
    | none =>
      let r : RedWord := ⟨pa, f64, []⟩
      if s.slotWords (sliceNo line) < 256 then
        let v := r.addR (r.fmt.signBit true) xv
        { s with reds := s.reds ++ [⟨pa, f64, [(key, BitVec.ofNat 64 v)]⟩] }
      else
        let v := r.addR (Memory.readN s.mem pa sz) xv
        let s := { s with mem := Memory.writeN s.mem pa sz v }
        s.modSlice (sliceNo line) fun c => { c with rfold := min (c.rfold + 1) (2 ^ 32 - 1) }

/-! ### Write signatures and the side store (R272–R275) -/

/-- The multipliers of the four hashes (R272). -/
def sigK : List Nat := [0x9E37_79B9_7F4A_7C15, 0xC2B2_AE3D_27D4_EB4F, 0x1656_67B1_9E37_79F9, 0xD6E8_FEB8_6659_FD93]

/-- The four bits of a line (R272). -/
def sigBits (line : Nat) : List Nat := sigK.map fun k => line * k % 2 ^ 64 / 2 ^ 53

/-- A signature with a line's four bits set. -/
def sigAdd (sg : Sig) (line : Nat) : Sig := (sigBits line).foldl (fun a b => a ||| BitVec.ofNat 2048 (2 ^ b)) sg

/-- A line hits a signature (R272). -/
def sigHit (sg : Sig) (line : Nat) : Bool := (sigBits line).all fun b => sg.getLsbD b

/-- AtHome (R273): the release's update of the side store. -/
def State.atHome (s : State) (p line : Nat) (sg : Sig) (sync : Bool) : State :=
  if !sync || s.satLines.contains line then s
  else
    match NMap.find s.side line with
    | none =>
      if (s.side.filter fun e => sliceNo e.1 == sliceNo line).length ≥ 4096 then { s with satLines := s.satLines ++ [line] }
      else { s with side := NMap.set s.side line ⟨0, sg, p⟩ }
    | some e =>
      if popcount 2048 e.cum.toNat ≥ 1024 then
        if e.gen = 0xFFFF then { s with satLines := s.satLines ++ [line] }
        else { s with side := NMap.set s.side line ⟨e.gen + 1, sg, e.part⟩ }
      else { s with side := NMap.set s.side line { e with cum := e.cum ||| sg } }

/-- What an acquire's reply carries (R273): a page with SYNC = 0 is replied to as saturated. -/
def State.acqInfo (s : State) (line : Nat) (sync : Bool) : AcqInfo :=
  if !sync || s.satLines.contains line then ⟨line, 0, 0, true⟩
  else
    match NMap.find s.side line with
    | some e => ⟨line, e.gen, e.cum, false⟩
    | none => ⟨line, 0, 0, false⟩

/-- A line is among those that an invalidation names: every one, or the lines of device memory that a condition selects. -/
def named (sel : Option (Nat → Bool)) (host : Bool) (line : Nat) : Bool :=
  match sel with
  | none => true
  | some f => !host && f line

/-- Drop every L1 line that is not read-only and is named; a fill in flight that is named is not installed (R274). -/
def dropL1 (u : CoreUnit) (sel : Option (Nat → Bool)) : CoreUnit :=
  { u with
    l1 := u.l1.filter fun l => l.ro || !named sel l.host l.line
    fills := u.fills.map fun f => if !f.ro && named sel false f.line then { f with live := false } else f }

/-- OnAcquire (R274, R275): the core's L1 and acquire table, and the strand's write signature. -/
def onAcquire (u : CoreUnit) (wsig : Sig) (q : AcqInfo) : CoreUnit × Sig :=
  let same := !q.sat && (u.acqTab.find? fun e => e.1 == q.line) == some (q.line, q.gen)
  let u := if same then dropL1 u (some (sigHit q.cum)) else dropL1 u none
  let rest := u.acqTab.filter fun e => e.1 != q.line
  let u := { u with acqTab := if q.sat then rest else ((q.line, q.gen) :: rest).take 32 }
  (u, if same then wsig ||| q.cum else BitVec.allOnes 2048)

/-- The core drops its L1 copy of a line, read-only or not; a fill requested before is not installed (R238, R257). -/
def dropLine (u : CoreUnit) (line : Nat) : CoreUnit :=
  { u with
    l1 := u.l1.filter fun l => l.host || l.line != line
    fills := u.fills.map fun f => if f.line == line then { f with live := false } else f }

end Sys2Proof.Machine
end

