-- ==== Sys2Proof/Machine/Xlate.lean ====
section
/-! DEFINITION. Translation (R210–R220): page-table entries, single-stage and two-stage walks, cached translations and their
invalidation, host-window translations, and the recording of faults (R324–R327). -/
namespace Sys2Proof.Machine

/-! ### Page-table entries (R213, R214) -/

/-- Bit n of an entry. -/
def pbit (e n : Nat) : Bool := e / 2 ^ n % 2 == 1
/-- PA of an entry, in bytes. -/
def pPa (e : Nat) : Nat := e / 2 ^ 16 % 2 ^ 36 * 65536
/-- R, W or X is set. -/
def pRwx (e : Nat) : Bool := e / 2 % 8 != 0

/-- A malformed entry with V = 1 (R214, R217). -/
def malformed (e lvl : Nat) (stage2 : Bool) : Bool :=
  if lvl < 3 && !pRwx e then e / 2 % 2 ^ 15 != 0 || e / 2 ^ 52 != 0
  else
    e / 2 ^ 60 != 0 || e / 2 ^ 12 % 16 != 0 ||
    (lvl == 1 && e / 2 ^ 16 % 2 ^ 26 != 0) || (lvl == 2 && e / 2 ^ 16 % 2 ^ 13 != 0) ||
    (stage2 && (e / 2 ^ 52 % 256 != 0 || e / 2 ^ 6 % 4 != 0))

/-- Bytes a leaf of a level covers (R214). -/
def leafSize (lvl : Nat) : Nat := if lvl = 1 then 2 ^ 42 else if lvl = 2 then 2 ^ 29 else 2 ^ 16

/-- The physical (or intermediate) address a leaf gives for an address. -/
def leafPa (e lvl va : Nat) : Nat := pPa e + va % leafSize lvl

/-- The attributes of one leaf for an address. -/
def leafOf (e lvl va : Nat) : Leaf where
  pa := leafPa e lvl va / 65536 * 65536
  tag := BitVec.ofNat 8 (e / 2 ^ 52)
  repl := BitVec.ofNat 2 (e / 2 ^ 10)
  nc := pbit e 9
  sync := pbit e 8
  pubw := pbit e 7
  pubr := pbit e 6
  d := pbit e 5
  x := pbit e 3
  w := pbit e 2
  r := pbit e 1

/-! ### Walks (R216–R218) -/

/-- What a walk has gathered: the IPA pages translated, and the entries in which A and D are set. -/
structure WalkLog where
  ipas : List (Nat × Nat)
  aSet : List Nat
  dSet : List Nat
  deriving DecidableEq, Repr

/-- How one stage ends: the leaf entry with its level and address, or the level that failed and whether its entry was malformed or in a
line that answers with POISON (R223). -/
inductive StageRes where
  | leaf (e lvl addr : Nat)
  | fail (lvl : Nat) (mal poison : Bool)
  deriving DecidableEq, Repr

/-- A walk of one stage from a table (R216): `left` levels remain. Its entries are read at their homes. A table that
lies in the tag region, in a doorbell page or at an unbacked address reads as zeros, so the walk ends with V = 0 (log 66). -/
def State.walkStage (s : State) (p va : Nat) (stage2 : Bool) : Nat → Nat → State × StageRes
  | 0, _ => (s, .fail 3 false false)
  | left + 1, t =>
    let lvl := 3 - left
    let a := t + 8 * (va / 2 ^ (42 - 13 * (lvl - 1)) % 8192)
    let (s, e, hit) := s.homePeekN (some p) a 8
    if hit != .ok then (s, .fail lvl false true)
    else if !pbit e 0 then (s, .fail lvl false false)
    else if malformed e lvl stage2 then (s, .fail lvl true false)
    else if lvl < 3 && !pRwx e then State.walkStage s p va stage2 left (pPa e)
    else (s, .leaf e lvl a)

/-- The pages that a leaf of a level covers. -/
def leafSpan (lvl : Nat) : Nat := leafSize lvl / 65536

/-- A stage-1 leaf reached in two-stage mode: the entry, its level and physical address, and of its table page the IPA, the
stage-2 leaf and that leaf's level. -/
structure Nested where
  e    : Nat
  lvl  : Nat
  addr : Nat
  ipa  : Nat
  te   : Nat
  tl   : Nat
  deriving DecidableEq, Repr

/-- A stage-1 walk whose table addresses are IPAs (R217): each is translated by stage 2 first, which needs R = 1. -/
def State.walkNested (s : State) (p va root2 : Nat) (log : WalkLog) :
    Nat → Nat → State × WalkLog × Except WalkFault Nested
  | 0, _ => (s, log, .error ⟨none, false, 3, false, 0, false⟩)
  | left + 1, t =>
    let lvl := 3 - left
    let ipa := t + 8 * (va / 2 ^ (42 - 13 * (lvl - 1)) % 8192)
    let (s, r2) := s.walkStage p ipa true 3 root2
    match r2 with
    | .fail l2 mal bad => (s, log, .error ⟨none, true, l2, mal, BitVec.ofNat 64 t, bad⟩)
    | .leaf e2 l2 a2 =>
      if !pbit e2 1 then (s, log, .error ⟨some 0, true, l2, false, BitVec.ofNat 64 t, false⟩)
      else
        let log := { log with ipas := log.ipas ++ [(ipa / 65536, leafSpan l2)], aSet := log.aSet ++ [a2] }
        let a := leafPa e2 l2 ipa
        let (s, e, hit) := s.homePeekN (some p) a 8
        if hit != .ok then (s, log, .error ⟨none, false, lvl, false, 0, true⟩)
        else if !pbit e 0 then (s, log, .error ⟨none, false, lvl, false, 0, false⟩)
        else if malformed e lvl false then (s, log, .error ⟨none, false, lvl, true, 0, false⟩)
        else if lvl < 3 && !pRwx e then State.walkNested s p va root2 log left (pPa e)
        else (s, log, .ok ⟨e, lvl, a, t, e2, l2⟩)

/-- A whole walk for a page (R216–R218): the combined leaf, or the fault; and where A and D are set. -/
def State.walkAll (s : State) (p va : Nat) (write : Bool) : State × WalkRes × WalkLog :=
  let pt := s.part p
  let log : WalkLog := ⟨[], [], []⟩
  if pt.mode == 2 then
    let (s, log, r) := s.walkNested p va pt.s2root.toNat log 3 pt.s1root.toNat
    match r with
    | .error f => (s, .fault f log.ipas, log)
    | .ok n =>
      let ipa := leafPa n.e n.lvl va
      let (s, r2) := s.walkStage p ipa true 3 pt.s2root.toNat
      match r2 with
      | .fail l2 mal bad => (s, .fault ⟨none, true, l2, mal, BitVec.ofNat 64 ipa, bad⟩ log.ipas, log)
      | .leaf e2 l2 a2 =>
        let lf1 := leafOf n.e n.lvl va
        let lf2 := leafOf e2 l2 ipa
        let w := lf1.w && lf2.w
        let setD := write && w
        let log := { ipas := log.ipas ++ [(ipa / 65536, leafSpan l2)], aSet := log.aSet ++ [n.addr, a2]
                     dSet := if setD then [n.addr, a2] else [] }
        let needs := !pbit n.e 4 || (setD && !pbit n.e 5)
        if needs && !pbit n.te 2 then (s, .fault ⟨some 4, true, n.tl, false, BitVec.ofNat 64 n.ipa, false⟩ log.ipas, log)
        else
          (s, .leaf { lf1 with
            pa := lf2.pa, r := lf1.r && lf2.r, w := w, x := lf1.x && lf2.x, sync := lf1.sync && lf2.sync
            nc := lf1.nc || lf2.nc, repl := if lf2.repl != 0 then lf2.repl else lf1.repl
            d := setD || (lf1.d && lf2.d) } (leafSpan n.lvl) log.ipas, log)
  else
    let (s, r) := s.walkStage p va false 3 pt.s1root.toNat
    match r with
    | .fail l mal bad => (s, .fault ⟨none, false, l, mal, 0, bad⟩ [], log)
    | .leaf e l a =>
      let lf := leafOf e l va
      let setD := write && lf.w
      (s, .leaf { lf with d := setD || lf.d } (leafSpan l) [], { log with aSet := [a], dSet := if setD then [a] else [] })

/-- A bit of an entry is still to be set, in a half of its line that the host owns: the half is recalled first (R285). -/
def State.pteHeld (s : State) (bit a : Nat) : Bool :=
  !pbit (Memory.readN s.mem a 8) bit && s.hostHas (lineOf a) (byteMask (a % 128) 8)

/-- Recall the halves that the host owns of the entries whose A and D a walk sets. -/
def State.recallPtes (s : State) (aSet dSet : List Nat) : State :=
  (aSet.filter (s.pteHeld 4) ++ dSet.filter (s.pteHeld 5)).foldl (fun s a => s.recall (lineOf a) (byteMask (a % 128) 8)) s

/-- The halves of the entries whose A and D a walk sets are the device's (R285). -/
def State.ptesReady (s : State) (aSet dSet : List Nat) : Bool := !aSet.any (s.pteHeld 4) && !dSet.any (s.pteHeld 5)

/-- Set a bit of an entry by an atomic OR at its home (R218). -/
def State.orPte (s : State) (p bit a : Nat) : State :=
  let (s, e, _) := s.homePeekN (some p) a 8
  if pbit e bit then s else s.homeWriteN (some p) [] a 8 (e + 2 ^ bit)

/-! ### Cached translations -/

/-- A translation for an access: a leaf, translation switched off, none cached, a page that a walk found not present, or one whose
entries the walk found poisoned (R223). -/
inductive Xl where
  | ok (l : Leaf)
  | off
  | miss
  | absent (f : WalkFault)
  | poisoned
  deriving DecidableEq, Repr

/-- The key under which a page found absent is kept: 64 KiB pages of the device-paged region, 4 KiB pages of the host window. -/
def pageKey (va : Word) : Nat := if va.toNat / 2 ^ 53 = 1 then 2 ^ 60 + va.toNat / 4096 else va.toNat / 65536

/-- The translation of a device-paged address (R215, R218, R219). -/
def State.xlate (s : State) (die p : Nat) (va : Word) (write : Bool) (wf : List (Nat × WalkFault)) : Xl :=
  let pg := va.toNat / 65536
  if (s.part p).mode == 0 then .off
  else
    match wf.find? fun e => e.1 == pageKey va with
    | some e => if e.2.poison then .poisoned else .absent e.2
    | none =>
      match s.tlb.find? fun e => e.die == die && e.part == p && e.vpage == pg with
      | some e => if write && e.leaf.w && !e.leaf.d then .miss else .ok e.leaf
      | none => .miss

/-- The physical address of an access through a leaf. -/
def leafAddr (l : Leaf) (va : Word) : Nat := l.pa + va.toNat % 65536

/-- A walk begins from the root. -/
def State.walkFrom (s : State) (id : Nat) (w : Walk) : State :=
  let (s, r, log) := s.walkAll w.part (w.vpage * 65536) w.write
  { s with walks := NMap.set s.walks id { w with res := r, aSet := log.aSet, dSet := log.dSet } }

/-- The walks of a die, in order of arrival: the first 128 have a walker (R219). -/
def State.walksOn (s : State) (die : Nat) : List (Nat × Walk) := s.walks.filter fun e => e.2.die == die

/-- A walk has a walker (R219). -/
def State.hasWalker (s : State) (id die : Nat) : Bool := ((s.walksOn die).take 128).any fun e => e.1 == id

/-- Begin a walk, or join the one for the same page and partition (R219). The walk that is joined begins again, so that it reads what
was written before the miss (R350), and serves a write if either does. -/
def State.startWalk (s : State) (die p : Nat) (va : Word) (write : Bool) (who : Waiter) : State × Nat :=
  let pg := va.toNat / 65536
  match s.walks.find? fun e => e.2.die == die && e.2.part == p && e.2.vpage == pg with
  | some e =>
    if e.2.who.contains who then (s, e.1)
    else (s.walkFrom e.1 { e.2 with who := e.2.who ++ [who], write := e.2.write || write }, e.1)
  | none =>
    let (id, s) := s.fresh
    (s.walkFrom id ⟨die, p, pg, write, .fault ⟨none, false, 3, false, 0, false⟩ [], [], [], [who]⟩, id)

/-- What an invalidation covers (R220, R341). -/
inductive Cover where
  | all | va (page : Nat) | ipa (page : Nat)
  deriving DecidableEq, Repr

/-- An invalidation covers an entry of this page, through a leaf of so many pages, whose walk translated these IPA pages: a block that
holds the page named is covered as a whole. -/
def Cover.hits (c : Cover) (vpage span : Nat) (ipas : List (Nat × Nat)) : Bool :=
  match c with
  | .all => true
  | .va p => vpage / span == p / span
  | .ipa p => ipas.any fun e => e.1 / e.2 == p / e.2

/-- The IPA pages a walk has translated. -/
def WalkRes.ipas : WalkRes → List (Nat × Nat)
  | .leaf _ _ i => i
  | .fault _ i => i

/-- The pages that a walk's stage-1 leaf covers. -/
def WalkRes.span : WalkRes → Nat
  | .leaf _ n _ => n
  | .fault _ _ => 1

/-- The translation that a channel has captured of a page is among those covered. -/
def Cover.reached (c : Cover) (p : Nat) : Reached → Bool
  | .page e => e.part == p && c.hits e.vpage e.span e.ipas
  | .sect .. => false

/-- A channel after an invalidation: a covered page that it has reached it reaches again (R92, R220). -/
def Channel.without (x : Channel) (p : Nat) (c : Cover) : Channel :=
  { x with ready := x.ready && !x.at_.any (c.reached p), at_ := x.at_.filter fun r => !c.reached p r }

/-- Invalidate on every die (R220): covered entries go, and covered walks in flight restart from the root. -/
def State.invalidate (s : State) (p : Nat) (c : Cover) : State :=
  let s := { s with
    units := NMap.mapV (fun _ (x : CoreUnit) => { x with chan := x.chan.map fun k => Channel.without k p c }) s.units
    retires := NMap.mapV (fun _ (r : Retire) => { r with at_ := r.at_.filter fun x => !c.reached p x }) s.retires
    tlb := s.tlb.filter fun e => !(e.part == p && c.hits e.vpage e.span e.ipas)
    atc := if c == Cover.all then s.atc.filter (fun e => !((s.fn e.fn).bind == p || (e.fn == 0 && s.vfOf p == 0))) else s.atc }
  s.walks.foldl (fun s e =>
    if e.2.part == p && c.hits e.2.vpage e.2.res.span e.2.res.ipas then s.walkFrom e.1 e.2 else s) s

/-! ### Host window (R212) -/

/-- The function and PASID of a strand's launch: what its host-window accesses are translated under. -/
def State.fnPasid (s : State) (launch : Nat) : Option (Nat × Nat) :=
  match s.launch launch with
  | some l => some (l.pkt.vf, l.pkt.pasid)
  | none => none

/-- The host address of a host-window address, and its rights, from a die's translation cache. -/
def State.atcFind (s : State) (die fn pasid : Nat) (ha : Nat) : Option AtcEntry :=
  s.atc.find? fun e => e.die == die && e.fn == fn && e.pasid == pasid && ha / 2 ^ e.log2 == e.page * 4096 / 2 ^ e.log2

/-- Ask for an ATS translation, or join a request for the same page. -/
def State.startAts (s : State) (die fn pasid ha : Nat) (who : Waiter) : State × Nat :=
  match s.atsReqs.find? fun e => e.2.die == die && e.2.fn == fn && e.2.pasid == pasid && e.2.page == ha / 4096 && e.2.sid == who with
  | some e => (s, e.1)
  | none =>
    let (id, s) := s.fresh
    (({ s with atsReqs := NMap.set s.atsReqs id ⟨die, fn, pasid, ha / 4096, who⟩ }).emit (.atsRequest fn pasid (ha / 4096)), id)

/-- ATS requests on their way that an invalidation covers are given up, and those that wait ask again (R220). -/
def State.restartAts (s : State) (hit : AtsReq → Bool) : State := { s with atsReqs := s.atsReqs.filter fun e => !hit e.2 }

/-! ### Faults (R324–R327) -/

/-- The wake flag of every context of a unit (R345). -/
def State.wakeUnit (s : State) (u : UnitRef) : State := s.modUnit u fun x => { x with wake := List.range (nctx u) }

/-- Wake every context of a die (R325, R345). -/
def State.wakeDie (s : State) (d : Nat) : State :=
  let s := (List.range 8).foldl (fun s t => s.wakeUnit (.kp (8 * d + t))) s
  (List.range 256).foldl (fun s k => s.wakeUnit (.core (256 * d + k))) s

/-- The fourth word of a fault record with its fault id (R324). -/
def withFid (w : Word) (fid : Nat) : Word := BitVec.ofNat 64 (w.toNat % 2 ^ 32 + fid % 2 ^ 32 * 2 ^ 32)

/-- The 64 bytes of a fault record. -/
def recordBytes (w : Vector Word 6) (fid : Nat) : List Byte :=
  bytesOf 8 w[0].toNat ++ bytesOf 8 w[1].toNat ++ bytesOf 8 w[2].toNat ++ bytesOf 8 (withFid w[3] fid).toNat ++
    bytesOf 8 w[4].toNat ++ bytesOf 8 w[5].toNat ++ bytesOf 16 0

/-- Write a record and make it visible at its home as a PKG release would: no replica is left that its interrupt could overtake
(R325, R348). -/
def State.putRecord (s : State) (pa : Nat) (bs : List Byte) : State :=
  [lineOf pa, lineOf (pa + 63)].foldl State.collapseNow (s.homeWriteBytes none [] pa bs 2)

/-- The PRI requests of the PF that are outstanding (R325, R357). -/
def State.pfRequests (s : State) : Nat := (s.faults.filter fun f => f.vf == 0 && f.host && f.fid.isSome).length

/-- Try to record a fault in its buffer (R325, R327): the fault with its id, or the same fault held. `first` when it has not
been counted as held. A host-window fault of the PF is held, and not counted, while 64 of its PRI requests are outstanding (R357). -/
def State.tryRecord (s : State) (f : FaultRec) (first : Bool) : State × FaultRec :=
  if f.vf = 0 then
    let d := s.die f.die
    if f.host && 64 ≤ s.pfRequests then (s, f)
    else if (d.fbtail - d.fbhead).toNat ≥ 4096 then
      if first then (s.modDie f.die fun d => { d with fovf := true, flost := min (d.flost + 1) (2 ^ 32 - 1) }, f) else (s, f)
    else
      let i := d.fbtail.toNat
      let fid := f.die * 2 ^ 29 + i % 2 ^ 29
      let s := s.putRecord (d.fbbase.toNat + 64 * (i % 4096)) (recordBytes f.words fid)
      let s := s.modDie f.die fun d => { d with fbtail := d.fbtail + 1 }
      let s := s.emit (.fault 0)
      let s := if (d.fbtail + 1 - d.fbhead).toNat = 4096 then s.emit (.fbfull f.die) else s
      let s := if f.host then s.emit (.pageRequest 0 fid f.words[0]) else s
      (s.wakeDie f.die, { f with fid := some fid })
  else
    let fn := s.fn f.vf
    match leastFree fn.prqUsed 64 0 with
    | none =>
      if first then (s.modFn f.vf fun x => { x with prqovf := min (x.prqovf + 1) (2 ^ 32 - 1), prqflag := true }, f) else (s, f)
    | some q =>
      let fid := 2 ^ 31 + f.vf * 2 ^ 25 + fn.prqSeq % 2 ^ 19 * 64 + q
      let s := s.putRecord (fn.prqbase.toNat + 64 * q) (recordBytes f.words fid)
      let s := s.modFn f.vf fun x => { x with prqUsed := x.prqUsed ++ [q], prqSeq := (x.prqSeq + 1) % 2 ^ 19 }
      let s := s.emit (.fault (if f.stage then 0 else f.vf))
      let s := if f.host then s.emit (.pageRequest f.vf fid f.words[0]) else s
      (s, { f with fid := some fid })

/-- Raise a fault: record it or hold it, and keep it until its reply (R324–R327). -/
def State.raiseFault (s : State) (f : FaultRec) : State × Nat :=
  let (id, s) := s.fresh
  let (s, f) := s.tryRecord { f with id := id } true
  ({ s with faults := s.faults ++ [f] }, id)

/-- The fourth word of a fault record but its id (R324). -/
def faultWord3 (acc : Nat) (stage : Bool) (lvl : Nat) (mal host eng : Bool) (ch : Nat) (ret : Bool) (p vf : Nat) : Word :=
  BitVec.ofNat 64 (0x06 + acc * 2 ^ 8 + stage.toNat * 2 ^ 11 + lvl * 2 ^ 12 + mal.toNat * 2 ^ 14 + host.toNat * 2 ^ 15 +
    eng.toNat * 2 ^ 16 + ch * 2 ^ 17 + ret.toNat * 2 ^ 19 + p * 2 ^ 20 + vf * 2 ^ 26)

/-- The fifth word of a fault record (R324): the strand by its home, or its place on a kingpost. -/
def faultWord4 (c : CtxRef) (t : Strand) : Word :=
  match c.unit with
  | .core _ => BitVec.ofNat 64 (t.lcore + c.ctx % 8 * 2 ^ 18 + t.launch * 2 ^ 23)
  | .kp n =>
    if c.ctx < 4 then BitVec.ofNat 64 (n + c.ctx * 2 ^ 18 + 2 ^ 21 + t.launch * 2 ^ 23 + 2 ^ 37)
    else
      let g := c.ctx - 4
      BitVec.ofNat 64 (t.lcore + g % 8 * 2 ^ 18 + 2 ^ 21 + g / 8 * 2 ^ 22 + t.launch * 2 ^ 23)

/-- Park a strand on a page that is not present (R324): one fault for the page, with the lanes that missed on it; `acc` is the
ACC code of the access. -/
def State.parkOn (s : State) (c : CtxRef) (t : Strand) (va : Word) (pc : Word) (lanes : Word) (acc : Nat) (f : WalkFault)
    (host : Bool) : State × Nat :=
  let vf := s.vfOf t.part
  let die := udie (homeOf c t).unit
  let code := f.acc.getD acc
  s.raiseFault
    { id := 0, fid := none, die := die, vf := vf, part := t.part, stage := f.stage, host := host, who := .strand t.sid
      launch := t.launch, lanes := lanes, acc := acc
      words := #v[va, f.ipa, lanes, faultWord3 code f.stage f.level f.mal host false 0 false t.part vf, faultWord4 c t, pc] }

end Sys2Proof.Machine
end

