-- ==== Sys2Proof/Machine/Access.lean ====
section
/-! DEFINITION. What one access does (R195–R200, R210–R212, R225–R233, R265–R285): where an address lies and whether the access is
allowed, loads through the L1, the L2 and the home, stores through the store buffer, and what a release waits for. -/
namespace Sys2Proof.Machine

/-! ### Whose access (R86, R92) -/

/-- The rights and the place an access is made with: its die, the unit that issues it, the unit whose scratchpad the alias
names, and the domain and grafts of R86. -/
structure Who where
  die    : Nat
  unit   : UnitRef
  home   : UnitRef
  part   : Nat
  lcore  : Nat
  launch : Nat
  dom    : Dom
  frames : List Frame
  absent : List (Nat × WalkFault)
  deriving DecidableEq, Repr

/-- A strand's own accesses in a context. -/
def who (c : CtxRef) (t : Strand) : Who :=
  ⟨udie c.unit, c.unit, (homeOf c t).unit, t.part, t.lcore, t.launch, t.dom, t.frames, t.wfaults⟩

/-- The same with the rights of domain 0 and the page's R and W only: spills, save areas, records (R125, R319, R331). -/
def Who.asZero (w : Who) : Who := { w with dom := 0 }

/-- Kinds of access that R225 tells apart. -/
inductive AKind where
  | plain | full | atomic | adec | radd
  deriving DecidableEq, Repr

/-- Where an access is performed; `ro` for a host page with W = 0. -/
inductive Place where
  | mem (l : Leaf) (pa : Nat)
  | host (hpa : Nat) (ro : Bool)
  | own (off : Nat)
  | far (pkg pcore l off : Nat)
  deriving DecidableEq, Repr

/-- Why an access cannot be performed: a trap, a page whose translation has to be walked for, or one that is not present. -/
inductive AStop where
  | trap (cause : Nat)
  | miss
  | absent (f : WalkFault) (host : Bool)
  deriving DecidableEq, Repr

/-- Cause codes (R317). -/
def cILLEGAL : Nat := 0x01
/-- FETCHALIGN. -/
def cFETCHALIGN : Nat := 0x02
/-- ENTRY. -/
def cENTRY : Nat := 0x03
/-- PRIV. -/
def cPRIV : Nat := 0x04
/-- RIGHTS. -/
def cRIGHTS : Nat := 0x05
/-- ALIGN. -/
def cALIGN : Nat := 0x07
/-- HAZARD. -/
def cHAZARD : Nat := 0x08
/-- WINDOW. -/
def cWINDOW : Nat := 0x09
/-- NXMISMATCH. -/
def cNXMISMATCH : Nat := 0x0A
/-- POISON. -/
def cPOISON : Nat := 0x0B
/-- ENGINE. -/
def cENGINE : Nat := 0x0C
/-- CAPSULE. -/
def cCAPSULE : Nat := 0x0D
/-- TARGET. -/
def cTARGET : Nat := 0x13
/-- CROSSING. -/
def cCROSSING : Nat := 0x14

/-- A host-window access (R212, R86): translated under the launch's PASID; the page's tag is the launch's entry domain. A service
strand belongs to no launch and takes RIGHTS (R79). -/
def State.hostPlace (s : State) (w : Who) (va : Word) (size : Nat) (acc : Acc) : Except AStop Place :=
  match s.launch w.launch with
  | none => .error (.trap cRIGHTS)
  | some l =>
    let ha := va.toNat % 2 ^ 53
    let gone (f : WalkFault) : Except AStop Place := .error (if (s.fn l.pkt.vf).priOff then .trap cRIGHTS else .absent f true)
    match w.absent.find? fun e => e.1 == pageKey va with
    | some e => gone e.2
    | none =>
      match s.atcFind w.die l.pkt.vf l.pkt.pasid ha with
      | none => .error .miss
      | some e =>
        let lf : Leaf := ⟨0, l.edom, 0, false, false, false, false, true, false, e.w, e.r⟩
        if !permOk lf acc then gone ⟨none, false, 3, false, 0, false⟩
        else if !reach w.frames w.dom lf va.toNat size acc then .error (.trap cRIGHTS)
        else .ok (.host (e.hpa + ha % 2 ^ e.log2) (!e.w))

/-- CheckData (R86, R90, R94, R201, R211) and the place of an access of `size` bytes within one page. The own scratchpad is one place,
by whatever logical core its window is named (R265). -/
def State.place (s : State) (w : Who) (va : Word) (size : Nat) (acc : Acc) : Except AStop Place :=
  match regionOf va with
  | .bad => .error (.trap cRIGHTS)
  | .own off => if checkSect w.home (s.unit w.home) off size acc w.dom then .ok (.own off) else .error (.trap cRIGHTS)
  | .window l off =>
    if l == w.lcore && !isKp w.home then
      if checkSect w.home (s.unit w.home) off size acc w.dom then .ok (.own off) else .error (.trap cRIGHTS)
    else
      match s.coreAt w.part l with
      | some (pkg, pcore) =>
        if pkg == s.pkgNo && w.home == .core pcore then
          if checkSect w.home (s.unit w.home) off size acc w.dom then .ok (.own off) else .error (.trap cRIGHTS)
        else .ok (.far pkg pcore l off)
      | none => .error (.trap cTARGET)
  | .host => s.hostPlace w va size acc
  | .paged =>
    match s.xlate w.die w.part va acc.writes w.absent with
    | .off => .error (.trap cRIGHTS)
    | .miss => .error .miss
    | .absent f => .error (.absent f false)
    | .poisoned => .error (.trap cPOISON)
    | .ok l =>
      if !permOk l acc then .error (.trap cRIGHTS)
      else if !paBacked (leafAddr l va) then .error (.trap cRIGHTS)
      else if !reach w.frames w.dom l va.toNat size acc then .error (.trap cRIGHTS)
      else .ok (.mem l (leafAddr l va))

/-- AccessCheck (R225): the checks in their order. `algn` is the alignment asked for. -/
def State.check (s : State) (w : Who) (va : Word) (size algn : Nat) (acc : Acc) (k : AKind) : Except AStop Place :=
  if va.toNat % algn != 0 then .error (.trap cALIGN)
  else if regionOf va == .bad then .error (.trap cRIGHTS)
  else if k == .full && !isScratch va then .error (.trap cRIGHTS)
  else if (k == .atomic || k == .adec || k == .radd) && regionOf va == .host then .error (.trap cRIGHTS)
  else if (k == .adec || k == .radd) && isScratch va then .error (.trap cRIGHTS)
  else
    match s.place w va size acc with
    | .ok (.mem l pa) => if k == .radd && !l.sync then .error (.trap cRIGHTS) else .ok (.mem l pa)
    | r => r

/-- An access by domain-0 rights against the PTE's R and W (R125, R319, R331). -/
def State.zeroPlace (s : State) (w : Who) (va : Word) (acc : Acc) : Except AStop (Leaf × Nat) :=
  if regionOf va != .paged then .error (.trap cRIGHTS)
  else
    match s.place w.asZero va 1 acc with
    | .ok (.mem l pa) => .ok (l, pa)
    | .ok _ => .error (.trap cRIGHTS)
    | .error e => .error e

/-! ### Store buffer and L1 (R199, R200, R227) -/

/-- The youngest buffered bytes of a line over what lies below them. -/
def sbOver (sb : List SbEntry) (line : Nat) (d : LineData) : LineData :=
  sb.foldl (fun d e => if e.line == line then mergeLine e.mask e.data d else d) d

/-- Every byte of the range is buffered. -/
def sbCovers (sb : List SbEntry) (line o n : Nat) : Bool :=
  let m := sb.foldl (fun m e => if e.line == line then m ||| e.mask else m) (0 : BitVec 128)
  m &&& byteMask o n == byteMask o n

/-- Perform a store-buffer entry at its home, with the release it carries (R200, R206, R228, R273); an 8-byte write at the start
of a doorbell page becomes a notify write (R57). An entry whose half the host owns waits for the recall (R285), and one behind a waiting push for the push (R77). -/
def State.drainAt (s : State) (u : UnitRef) (i : Nat) : State :=
  match (s.unit u).sb[i]? with
  | none => s
  | some e =>
    let gone := s.modUnit u fun x => { x with sb := x.sb.eraseIdx i }
    match paKind (128 * e.line) with
    | .door p =>
      if 128 * e.line == 0xF_FF00_0000_0000 + p * 65536 && e.mask &&& byteMask 0 8 == byteMask 0 8 then
        gone.later [.notifyWrite (.door p) (BitVec.ofNat 64 (lineGet e.data 0 8))]
      else gone
    | _ =>
      if s.hostHas e.line e.mask then s.recall e.line e.mask
      else if s.pushHeld e.line then s
      else
        let s := (gone.homeWrite (some e.part) [e.sid] e.line e.mask e.data).atHomeSeen u e.line
        match e.rel with
        | some r => s.atHome e.part e.line r.sig r.sync
        | none => s

/-- The first entry, from position `n`, that meets a condition. -/
def sbFirst (f : SbEntry → Bool) : List SbEntry → Nat → Option Nat
  | [], _ => none
  | e :: es, n => if f e then some n else sbFirst f es (n + 1)

/-- Drain entries that meet a condition, oldest first; `fuel` bounds how many. -/
def State.drainWhere (s : State) (u : UnitRef) (f : SbEntry → Bool) : Nat → State
  | 0 => s
  | fuel + 1 =>
    let held (line : Nat) : Bool := (s.unit u).sb.any fun e => e.line == line && (s.hostHas e.line e.mask || s.pushHeld e.line)
    match sbFirst (fun e => f e && !held e.line) (s.unit u).sb 0 with
    | none =>
      match sbFirst (fun e => f e && s.hostHas e.line e.mask) (s.unit u).sb 0 with
      | some i => s.drainAt u i
      | none => s
    | some i => State.drainWhere (s.drainAt u i) u f fuel

/-- Drain a core's entries of a line (entries drain at any time, R200). -/
def State.drainLine (s : State) (u : UnitRef) (line : Nat) : State := s.drainWhere u (fun e => e.line == line) 32

/-- Drain a strand's entries; entries of its lines that are older drain first (R200). -/
def State.drainSid (s : State) (u : UnitRef) (sid : Nat) : State :=
  let ls := ((s.unit u).sb.filter fun e => e.sid == sid).map (·.line)
  s.drainWhere u (fun e => ls.contains e.line) 32

/-- Drain the whole buffer of a unit. -/
def State.drainUnit (s : State) (u : UnitRef) : State := s.drainWhere u (fun _ => true) 32

/-- Merge a store into the L1 copy and into fills on their way, so that no copy holds an older byte (R200). -/
def l1Store (u : CoreUnit) (line : Nat) (mask : BitVec 128) (d : LineData) : CoreUnit :=
  { u with
    l1 := u.l1.map fun x => if x.line == line && !x.host then { x with data := mergeLine mask d x.data } else x
    fills := u.fills.map fun f => if f.line == line then { f with data := mergeLine mask d f.data } else f }

/-- The position of a strand's youngest entry for a line. -/
def sbLast (sid line : Nat) : List SbEntry → Nat → Option Nat
  | [], _ => none
  | e :: es, n =>
    match sbLast sid line es (n + 1) with
    | some i => some i
    | none => if e.sid == sid && e.line == line then some n else none

/-- The entries after position i no longer hold bytes of a line that a store has just put into that one: it is the youngest (R200). -/
def sbYoungest (i line : Nat) (mask : BitVec 128) (sb : List SbEntry) : List SbEntry :=
  sb.zipIdx.map fun e => if i < e.2 && e.1.line == line then { e.1 with mask := e.1.mask &&& ~~~mask } else e.1

/-- A store of n bytes within a line enters the buffer (R200, R227); none when it needs an entry and all 32 are in use. -/
def State.storeMask (s : State) (c : CtxRef) (t : Strand) (l : Leaf) (line : Nat) (mask : BitVec 128) (d : LineData)
    (rel : Option RelInfo) : Option State :=
  let u := s.unit c.unit
  let put (s : State) (sb : List SbEntry) : State := s.setUnit c.unit (l1Store { u with sb := sb } line mask d)
  let fresh : Option State :=
    if u.sb.length ≥ 32 then none
    else
      let (id, s) := s.fresh
      some (put s (u.sb ++ [⟨id, t.sid, t.part, line, mask, d, l.nc || rel.isSome, rel⟩]))
  match if l.nc || rel.isSome then none else sbLast t.sid line u.sb 0 with
  | none => fresh
  | some i =>
    match u.sb[i]? with
    | none => fresh
    | some e =>
      if e.closed then fresh
      else some (put s (sbYoungest i line mask (u.sb.set i { e with mask := e.mask ||| mask, data := mergeLine mask d e.data })))

/-- Close a strand's entries: a release or fence has issued since they opened (R200). -/
def closeSb (u : CoreUnit) (sid : Nat) : CoreUnit :=
  { u with sb := u.sb.map fun e => if e.sid == sid then { e with closed := true } else e }

/-- The write signature of a strand after a write to a line of device memory (R272). -/
def sigStore (t : Strand) (pa : Nat) : Strand :=
  match paKind pa with
  | .mem => { t with wsig := sigAdd t.wsig (lineOf pa) }
  | _ => t

/-- Ways of the L1 (R198). -/
def l1Ways (u : UnitRef) (x : CoreUnit) : Nat := 28 - 4 * splitOf u x

/-- Install a line, dropping the oldest of a full set (R198: replacement is not architectural). -/
def l1Install (u : UnitRef) (x : CoreUnit) (l : L1Line) : CoreUnit :=
  let rest := x.l1.filter fun y => !(y.line == l.line && y.host == l.host)
  let set := rest.filter fun y => y.line % 1024 == l.line % 1024
  let rest := if set.length ≥ l1Ways u x then (match set with | v :: _ => rest.filter (· != v) | [] => rest) else rest
  { x with l1 := rest ++ [l] }

/-- An L1 fill arrives: installed with the buffered bytes over it, or it has served only its load (R200, R238, R274). -/
def State.fillArrives (s : State) (u : UnitRef) (i : Nat) : State :=
  let x := s.unit u
  match x.fills[i]? with
  | none => s
  | some f =>
    let x := { x with fills := x.fills.eraseIdx i }
    s.setUnit u (if f.live then l1Install u x ⟨f.line, false, f.ro, f.past, f.part, sbOver x.sb f.line f.data⟩ else x)

/-! ### Loads (R199, R277) -/

/-- Where a load reads (R199, R277). -/
def loadAt (acq : Bool) (sc : Scope) : LoadAt :=
  match sc with
  | .core => .l1
  | .pkg | .sys => .home
  | _ => if acq then .home else .l2

/-- A read of a line at the L2 through a page with NC = 1 leaves the L1 as it is (R199); what the L1 has, or is being sent, of the line then
serves no later load of the core, which would read an older value than it has seen (R266, log 71). -/
def pastLine (x : CoreUnit) (line : Nat) : CoreUnit :=
  { x with
    l1 := x.l1.map fun y => if !y.host && y.line == line then { y with past := true } else y
    fills := x.fills.map fun f => if f.line == line then { f with past := true } else f }

/-- Read the line of a physical address for a load: its bytes with the buffered ones over them, and how the request found it. A
read at the L2 sends for a new L1 copy where the page is cacheable, and the present copy and older fills give way to it (R199, R266). A
doorbell page reads as zero (R6, R57). A fill takes the buffered bytes with it, so that it installs none older (R266, R268). -/
def State.loadLine (s : State) (u : UnitRef) (p : Nat) (l : Leaf) (pa : Nat) (k : LoadAt) : State × LineData × Hit :=
  let line := lineOf pa
  match paKind pa with
  | .door _ => (s, 0, .ok)
  | _ =>
    let x := s.unit u
    match if k == .l1 && !l.nc then x.l1.find? (fun y => !y.host && y.line == line && !y.past) else none with
    | some y => (s, sbOver x.sb line y.data, .ok)
    | none =>
      let (s, d, hit) := if k == .home then (s.atHomeSeen u line).homeRead (some p) line else s.dieRead p u line l.repl
      if hit != .ok then (s, sbOver x.sb line d, hit)
      else
        let s := s.modUnit u fun x =>
          if l.nc then pastLine x line
          else
            let x := dropLine x line
            { x with fills := x.fills ++ [⟨line, !l.w, true, false, p, sbOver x.sb line d⟩] }
        (s, sbOver x.sb line d, .ok)

/-- Load n bytes of device memory: the value, or nothing where the line served is poisoned (R226). -/
def State.loadMem (s : State) (u : UnitRef) (p : Nat) (l : Leaf) (pa n : Nat) (k : LoadAt) : State × Option Nat :=
  let cover := sbCovers (s.unit u).sb (lineOf pa) (pa % 128) n
  let (s, d, hit) := s.loadLine u p l pa k
  (s, if hit == .ok || cover then some (lineGet d (pa % 128) n) else none)

/-- Load n bytes of the host window; its line of 64 bytes is cached for reading and never stale (R210, R212, R284). -/
def State.loadHost (s : State) (u : UnitRef) (p hpa n : Nat) (ro : Bool) : State × Nat :=
  let line := hpa / 64
  let s := s.modUnit u fun x =>
    l1Install u x ⟨line, true, ro, false, p, BitVec.ofNat 1024 (Memory.readN s.hostMem (64 * line) 64)⟩
  (s, Memory.readN s.hostMem hpa n)

/-- The scratchpad value of n bytes. -/
def spRead (x : CoreUnit) (off n : Nat) : Nat := Memory.readN x.sp off n

/-- The same, or nothing where some of them are poisoned (R334). -/
def spGet (x : CoreUnit) (off n : Nat) : Option Nat := if spPoisoned x off n then none else some (spRead x off n)

/-- Perform a load that has issued (R265) of a unit, with `h` for the own scratchpad: what it returns, or nothing where what it reads is
poisoned. -/
def State.loadNow (s : State) (u h : UnitRef) (p : Nat) (d : DLoad) : State × Option Nat :=
  match d.src with
  | .mem l k => s.loadMem u p l d.pa d.n k
  | .host ro => let (s, v) := s.loadHost u p d.pa d.n ro
    (s, some v)
  | .far pcore => (s, spGet (s.unit (.core pcore)) d.pa d.n)
  | .own => (s, spGet (s.unit h) d.pa d.n)

/-- A write to host memory: every cached copy of the lines goes (R284). -/
def State.writeHost (s : State) (hpa : Nat) (bs : List Byte) : State :=
  { s with
    hostMem := Memory.writeBytes s.hostMem hpa bs
    units := NMap.mapV (fun _ x => { x with
      l1 := x.l1.filter fun l => !(l.host && l.line * 64 < hpa + bs.length && hpa < l.line * 64 + 64) }) s.units }

/-- A host store is performed at the host, and its acknowledgement is on its way (R282, R286). -/
def State.hostStoreDone (s : State) (id : Nat) : State :=
  match NMap.find s.flights id with
  | some (.hostStore sid hpa _ bs) =>
    let s := s.writeHost hpa bs
    { s with flights := NMap.set s.flights id (.ack sid 0 none) }
  | _ => s

/-- A host store of this strand to some of the bytes is still on its way (R266). -/
def State.hostPending (s : State) (sid hpa n : Nat) : Bool :=
  s.flights.any fun e => match e.2 with
    | .hostStore i a _ bs => i == sid && a < hpa + n && hpa < a + bs.length
    | _ => false

/-! ### Fabric -/

/-- Put something on its way. -/
def State.send (s : State) (f : Flight) : State :=
  let (id, s) := s.fresh
  { s with flights := NMap.set s.flights id f }

/-- Bytes of a request to another core. -/
def RemOp.bytes : RemOp → Nat
  | .load n | .ldf n | .store n _ _ | .sete n | .probe n => n
  | .atomic _ dw _ _ => if dw then 8 else 4

/-- The request uses the full bit of its word (R230). -/
def RemOp.usesFull : RemOp → Bool
  | .ldf _ | .store _ _ true | .sete _ => true
  | _ => false

/-- Two requests to one core meet (R265): they share a byte, or the full bit of a word. -/
def RemOp.meets (o o' : RemOp) (va va' : Word) : Bool :=
  let a := va.toNat % 2 ^ 22
  let b := va'.toNat % 2 ^ 22
  (a < b + o'.bytes && b < a + o.bytes) || (o.usesFull && o'.usesFull && a / 8 == b / 8)

/-- An earlier request of a strand that meets this one is still on its way (R281). A strand of another package has no number here, and is
known by the one that its requests carry in the place of a lane (log 58). -/
def State.farEarlier (s : State) (id sid lane pkg pcore : Nat) (va : Word) (o : RemOp) : Bool :=
  s.flights.any fun e => e.1 < id && (match e.2 with
    | .access i k q c _ a _ o' => i == sid && (sid != 0 || k == lane) && q == pkg && c == pcore && o.meets o' va a
    | _ => false)

/-- The reply to a load or atomic of another core's window reaches the strand that waits for it. -/
def State.answer (s : State) (id sid : Nat) (r : RemoteReply) : State :=
  ({ s with flights := NMap.del s.flights id } : State).modSid sid fun t =>
    { t with rem := t.rem.map fun q => if q.id = id then { q with reply := some r } else q }

/-- A strand waits for the full bit of a word. -/
def Strand.waitsFull (t : Strand) (u w : Nat) : Bool :=
  match t.hold with
  | some (.fullBit u' w') => u' == u && w' == w
  | some (.timed (some (u', w'))) => u' == u && w' == w
  | _ => false

/-- The full bit of a word has been set: what waits for it is served at once (R231, R295), the strands of this core and of others that
wait in place, and the LDFs of other cores that have arrived (R230). -/
def State.serveFull (s : State) (u : UnitRef) (w : Nat) : State :=
  let x := s.unit u
  let s := (s.allStrands.filter fun e => e.2.waitsFull (ukey u) w).foldl (fun s e =>
    s.setStrand e.1 { e.2 with seen := some (BitVec.ofNat 64 (spRead x (8 * w) 8)) }) s
  s.flights.foldl (fun (s : State) e => match e.2 with
    | .access sid lane pkg pcore _ va dom (.ldf n) =>
      let off := va.toNat % 2 ^ 22
      if pkg == s.pkgNo && u == .core pcore && off / 8 == w && checkSect u x off n .read dom && !s.farEarlier e.1 sid lane pkg pcore va (.ldf n) then
        s.answer e.1 sid (if spPoisoned x off n then .poison else .ok (BitVec.ofNat 64 (spRead x off n)))
      else s
    | _ => s) s

/-! ### Device writes with a core's caches kept in step -/

/-- The lines of a range of n bytes. -/
def linesOf (pa n : Nat) : List Nat := ((List.range (n / 128 + 2)).map (lineOf pa + ·)).filter fun l => 128 * l < pa + n

/-- The bytes of a line that lie in a range. -/
def lineMask (line pa n : Nat) : BitVec 128 :=
  let lo := max pa (128 * line)
  let hi := min (pa + n) (128 * line + 128)
  byteMask (lo - 128 * line) (hi - lo)

/-- The lines of a range are ready for the device to read, or to write, at their homes on behalf of a core: its buffered bytes have
drained (R200, R265), no push of a record there waits (R77), and no half that a write touches is the host's (R285); otherwise what
has been done meanwhile. -/
def State.devReady (s : State) (u : UnitRef) (pa n : Nat) (write : Bool) : State × Bool :=
  let ls := linesOf pa n
  let s := ls.foldl (fun s l => s.drainLine u l) s
  if ls.any fun l => s.pushHeld l || (s.unit u).sb.any fun e => e.line == l then (s, false)
  else if write && ls.any fun l => s.hostHas l (lineMask l pa n) then (ls.foldl (fun s l => s.recall l (lineMask l pa n)) s, false)
  else (s, true)

/-- Read n bytes of device memory at their homes on behalf of a core. -/
def State.devRead (s : State) (u : UnitRef) (p pa n : Nat) : State × List Byte × Bool :=
  ((linesOf pa n).foldl (fun s l => s.atHomeSeen u l) s).homeReadBytes (some p) pa n (n / 128 + 2)

/-- Write bytes of device memory at their homes on behalf of a core's strand; its L1 copies go. -/
def State.devWrite (s : State) (u : UnitRef) (p : Nat) (sids : List Nat) (pa : Nat) (bs : List Byte) : State :=
  let ls := linesOf pa bs.length
  let s := s.homeWriteBytes (some p) sids pa bs (bs.length / 128 + 2)
  (ls.foldl (fun s l => s.atHomeSeen u l) s).modUnit u fun x => ls.foldl dropLine x

/-! ### Releases and acquires (R228) -/

/-- What is still on its way for a strand that a release above CORE waits for: buffered stores, RADDs, scratchpad stores. -/
def State.strandBusy (s : State) (u : UnitRef) (sid : Nat) : Bool :=
  (s.unit u).sb.any (fun e => e.sid == sid) ||
  s.homeReqs.any (fun e => e.2.sid == sid) ||
  s.flights.any (fun e => match e.2 with
    | .access i _ _ _ _ _ _ _ => i == sid
    | .ack i _ _ => i == sid
    | _ => false)

/-- A matrix command of the strand is not complete: its MSTA counts as a scratchpad store (R249). -/
def Strand.matrixLive (t : Strand) : Bool := t.cmds.any fun x => x.kind == .matrix && x.st == .live

/-- Bits of an element, K, the bytes of an A row and of a B row, and the group size (R171, R251). -/
structure TileShape where
  w  : Nat
  k  : Nat
  ra : Nat
  rb : Nat
  g  : Nat

/-- The table of R251 with the groups of R171. -/
def shapeOf : MTy → TileShape
  | .int8 => ⟨8, 64, 64, 32, 8⟩
  | .f16 | .bf16 => ⟨16, 32, 64, 64, 4⟩
  | .f32 => ⟨32, 8, 32, 128, 1⟩
  | .e4m3 | .e5m2 => ⟨8, 64, 64, 32, 8⟩

/-- Bytes of a stored row (R254). -/
def rowBytes : StTy → Nat
  | .i32 | .f32 => 128
  | .bf16 => 64
  | .e4m3 => 32
  | .bx4 => 16

/-- The rows of a tile, as offsets with their bytes (R251). -/
def tileRanges (off stride rows n : Nat) : List (Nat × Nat) := (List.range rows).map fun r => (off + stride * r, n)

/-- The scratchpad bytes that a matrix command reads or writes (R251–R254). -/
def MOp.ranges : MOp → List (Nat × Nat)
  | .mma t _ _ _ a sa b sb => tileRanges a sa 32 (shapeOf t).ra ++ tileRanges b sb (shapeOf t).k (shapeOf t).rb
  | .bx4 _ a sa b sb e0 e1 => tileRanges a sa 32 64 ++ tileRanges b sb 128 16 ++ [(e0, 512), (e1, 512)]
  | .zero _ => []
  | .lda _ a sa => tileRanges a sa 32 128
  | .sta t _ _ _ a sa c => tileRanges a sa 32 (rowBytes t) ++ (if t == .bx4 then [(c, 128)] else [])
  | .mova .. => []

/-- The matrix commands of a strand that are queued or running. -/
def CoreUnit.mcmds (x : CoreUnit) (sid : Nat) : List MCmd := (x.mrun.toList ++ x.mq).filter fun k => k.sid == sid

/-- A matrix command of the strand still has to read or write some of n bytes of the scratchpad (R249). -/
def CoreUnit.matrixAt (x : CoreUnit) (sid off n : Nat) : Bool :=
  (x.mcmds sid).any fun k => k.op.ranges.any fun r => r.1 < off + n && off < r.1 + r.2

/-- Some matrix command still has to read or write some of n bytes of the scratchpad (R342). -/
def CoreUnit.matrixOn (x : CoreUnit) (off n : Nat) : Bool :=
  (x.mrun.toList ++ x.mq).any fun k => k.op.ranges.any fun r => r.1 < off + n && off < r.1 + r.2

/-- A MOVA of the strand into vD has not written it (R255). -/
def CoreUnit.movaBusy (x : CoreUnit) (sid : Nat) (v : Fin 32) : Bool :=
  (x.mcmds sid).any fun k => match k.op with
    | .mova _ _ d => d == v
    | _ => false

/-- An access goes to the scratchpad of this other core. -/
def LoadFrom.isFar (x : LoadFrom) (pcore : Nat) : Bool :=
  match x with
  | .far p => p == pcore
  | _ => false

/-- Loads, atomics and ADECs that the strand has issued are not yet performed (R267). -/
def Strand.loading (t : Strand) : Bool := t.lates.any fun x => !x.todo.isEmpty

/-- An access of the strand to some of n bytes that it has issued is not yet performed: a later access to them waits for it (R266). -/
def Strand.loadingAt (t : Strand) (host : Bool) (pa n : Nat) : Bool :=
  t.lates.any fun x => x.todo.any fun d =>
    (match d.src with | .host _ => host | .mem .. => !host | .far _ | .own => false) && d.pa < pa + n && pa < d.pa + d.n

/-- The same of some of n bytes of another core's scratchpad (R281). -/
def Strand.loadingFar (t : Strand) (pcore off n : Nat) : Bool :=
  t.lates.any fun x => x.todo.any fun d => d.src.isFar pcore && d.pa < off + n && off < d.pa + d.n

/-- Accesses to a unit's scratchpad through its own port that issued before the number `id` was given, and are still to be performed. -/
def State.ownBefore (s : State) (u : UnitRef) (id : Nat) : Bool :=
  s.allStrands.any fun e => (homeOf e.1 e.2).unit == u && e.2.lates.any fun x => x.id < id && x.todo.any fun d => d.src == .own

/-- An access of the strand to its own scratchpad is still to be performed (R267). -/
def Strand.loadingOwn (t : Strand) : Bool := t.lates.any fun x => x.todo.any fun d => d.src == .own

/-- Some access through a unit's own port is still to be performed: a later one is performed after it (R268). -/
def State.ownLate (s : State) (u : UnitRef) : Bool := s.allStrands.any fun e => (homeOf e.1 e.2).unit == u && e.2.loadingOwn

/-- Accesses of the strand that its own core does not show are on their way: RADDs, and stores to other cores and the host (R269). -/
def State.awayBusy (s : State) (sid : Nat) : Bool :=
  s.homeReqs.any (fun e => e.2.sid == sid) ||
  s.flights.any (fun e => match e.2 with
    | .access i _ _ _ _ _ _ _ => i == sid
    | .hostStore i _ _ _ => i == sid
    | _ => false)

/-- Release (R228) at a scope: what it waits for, after the strand's buffered stores have drained; true when it need not wait. One at
CORE waits until the strand's earlier accesses are performed (R269); one at QUAD, TILE or DIE also until its own die has dropped the
replicas that collapse for its own writes and for those it has received, by its write signature (R271, R275); one at PKG or SYS until
every die has. -/
def State.release (s : State) (u : UnitRef) (t : Strand) (sc : Scope) : State × Bool :=
  match sc with
  | .core => (s, !(t.matrixLive || t.loading || s.awayBusy t.sid))
  | _ =>
    let s := s.drainSid u t.sid
    let busy := t.matrixLive || t.loading || s.strandBusy u t.sid ||
      (s.invs.any fun v => (v.sids.contains t.sid || sigHit t.wsig v.line) && (scopeGe sc .pkg || v.die == udie u)) ||
      (sc == .sys && t.unack != 0)
    (s, !busy)

/-- A release or fence has issued: the strand's open entries close (R200). -/
def State.closed (s : State) (u : UnitRef) (sid : Nat) : State := s.modUnit u fun x => closeSb x sid

/-- The acquire half of FENCE and of a full invalidation (R233): every L1 line that is not read-only goes. -/
def State.fullInval (s : State) (u : UnitRef) : State := s.modUnit u fun x => dropL1 x none

/-- An acquire's reply is on its way to the core: the strand holds until it arrives (R273, R274). -/
def State.acquireSent (s : State) (u : UnitRef) (t : Strand) (q : AcqInfo) : State × Strand :=
  (s.modUnit u fun x => { x with replies := x.replies ++ [⟨t.sid, q⟩] }, { t with acq := some q })

end Sys2Proof.Machine
end

