-- ==== Sys2Proof/Machine/Operands.lean ====
section
/-! DEFINITION. Registers and operands (R102, R103, R119–R129): reading, writing and freeing each register file, pending and
poisoned registers, every operand form, and the sliding of register windows with their spills and fills. -/
namespace Sys2Proof.Machine

/-! ### Register cells -/

/-- A register of any file that an instruction can name. -/
inductive Reg where
  | s (r : Fin 32) | v (r : Fin 32) | k (r : Fin 8) | m (r : Fin 8)
  deriving DecidableEq, Repr

/-- The value a cell reads as: a freed register reads as zero (R128). -/
def RegCell.read {n : Nat} (x : RegCell n) : BitVec n := x.val.getD 0
/-- A cell that has been written (R120, R128): live, out of the pending set, unpoisoned (R334). -/
def RegCell.of {n : Nat} (v : BitVec n) : RegCell n := ⟨some v, false, none, false⟩
/-- A cell that a long-latency result will write (R120). -/
def RegCell.await {n : Nat} (x : RegCell n) (id : Nat) : RegCell n := { x with pend := true, late := some id }
/-- A cell that has left the pending set under a W marker (R120). -/
def RegCell.settle {n : Nat} (x : RegCell n) : RegCell n := { x with pend := false, late := none }

/-- The register of its bank of eight. -/
def bank (r : Fin 32) : Fin 8 := ⟨r.val % 8, Nat.mod_lt _ (by decide)⟩

/-- A window of freed registers. -/
def Window.freed : Window := ⟨.replicate 8 .freed, .replicate 8 .freed⟩

/-- The current window. -/
def Strand.win (t : Strand) : Window :=
  match t.wins with
  | w :: _ => w
  | [] => Window.freed

/-- Replace the current window. -/
def Strand.setWin (t : Strand) (w : Window) : Strand :=
  { t with wins := w :: t.wins.tail }

/-- The cell of a scalar register: g, o, l, i (R24). -/
def Strand.sreg (t : Strand) (r : Fin 32) : RegCell 64 :=
  if r.val < 8 then t.g[bank r] else if r.val < 16 then t.o[bank r] else if r.val < 24 then t.win.l[bank r] else t.win.i[bank r]

/-- Replace the cell of a scalar register; g0 is not stored. -/
def Strand.setSreg (t : Strand) (r : Fin 32) (x : RegCell 64) : Strand :=
  if r.val = 0 then t
  else if r.val < 8 then { t with g := t.g.set (bank r) x }
  else if r.val < 16 then { t with o := t.o.set (bank r) x }
  else if r.val < 24 then t.setWin { t.win with l := t.win.l.set (bank r) x }
  else t.setWin { t.win with i := t.win.i.set (bank r) x }

/-- The cell of a vector register. -/
def Strand.vreg (t : Strand) (r : Fin 32) : RegCell 512 := t.v[r]
/-- Replace the cell of a vector register. -/
def Strand.setVreg (t : Strand) (r : Fin 32) (x : RegCell 512) : Strand := { t with v := t.v.set r x }
/-- The cell of a mask register. -/
def Strand.kreg (t : Strand) (r : Fin 8) : RegCell 64 := t.k[r]
/-- Replace the cell of a mask register; k0 is not stored. -/
def Strand.setKreg (t : Strand) (r : Fin 8) (x : RegCell 64) : Strand :=
  if r.val = 0 then t else { t with k := t.k.set r x }

/-- Read a scalar register; g0 reads as zero (R102). -/
def Strand.rdS (t : Strand) (r : Fin 32) : Word := if r.val = 0 then 0 else (t.sreg r).read
/-- Write a scalar register; a write to g0 is discarded (R102). -/
def Strand.wrS (t : Strand) (r : Fin 32) (v : Word) : Strand := t.setSreg r (.of v)
/-- Read a vector register. -/
def Strand.rdV (t : Strand) (r : Fin 32) : Vec := (t.vreg r).read
/-- Write a vector register. -/
def Strand.wrV (t : Strand) (r : Fin 32) (v : Vec) : Strand := t.setVreg r (.of v)
/-- Read a mask register; k0 reads as all ones (R102). -/
def Strand.rdK (t : Strand) (r : Fin 8) : Word := if r.val = 0 then BitVec.allOnes 64 else (t.kreg r).read
/-- Write a mask register; a write to k0 is discarded (R102). -/
def Strand.wrK (t : Strand) (r : Fin 8) (v : Word) : Strand := t.setKreg r (.of v)
/-- Read a mail register's word; presence is checked before the instruction reads (R129). -/
def Strand.rdM (t : Strand) (r : Fin 8) : Word :=
  match t.mail[r] with
  | some x => x.word
  | none => 0
/-- Write a mail register locally (R129): the word and the presence bit. A local write carries the strand's NX and no
timestamp (R301, R304). -/
def Strand.wrM (t : Strand) (r : Fin 8) (v : Word) : Strand := { t with mail := t.mail.set r (some ⟨v, t.nx, 0⟩) }

/-- A scalar destination that a long-latency result will write; D = g0 enters no pending set (R120, R226). -/
def Strand.awaitS (t : Strand) (r : Fin 32) (id : Nat) : Strand := t.setSreg r ((t.sreg r).await id)
/-- A vector destination that a long-latency result will write. -/
def Strand.awaitV (t : Strand) (r : Fin 32) (id : Nat) : Strand := t.setVreg r ((t.vreg r).await id)

/-- Free a register (R128): g0 and k0 cannot be freed. A mail register that was read empties instead (R129). -/
def Strand.free (t : Strand) : Reg → Strand
  | .s r => t.setSreg r .freed
  | .v r => t.setVreg r .freed
  | .k r => t.setKreg r .freed
  | .m r => { t with mail := t.mail.set r none }

/-- A register is in the pending set. -/
def Strand.pendingReg (t : Strand) : Reg → Bool
  | .s r => r.val != 0 && (t.sreg r).pend
  | .v r => (t.vreg r).pend
  | .k r => r.val != 0 && (t.kreg r).pend
  | .m _ => false

/-- A register is poisoned (R334). -/
def Strand.poisonedReg (t : Strand) : Reg → Bool
  | .s r => r.val != 0 && (t.sreg r).poison
  | .v r => (t.vreg r).poison
  | .k r => r.val != 0 && (t.kreg r).poison
  | .m _ => false

/-- Take every register of a window out of the pending set. -/
def Window.settle (w : Window) : Window := ⟨w.l.map RegCell.settle, w.i.map RegCell.settle⟩

/-- Pend ← ∅ (R120). -/
def Strand.settle (t : Strand) : Strand :=
  { t with
    g := t.g.map RegCell.settle, o := t.o.map RegCell.settle, wins := t.wins.map Window.settle, v := t.v.map RegCell.settle
    k := t.k.map RegCell.settle, spillPend := NMap.mapV (fun _ b => b &&& 0xFFFF0000#32) t.spillPend }

/-! ### Long-latency results (R119–R121) -/

/-- Lanes of width w: where the mask has a bit the new vector's lane, elsewhere the old one's. -/
def mergeLanes (w : Nat) (mask : BitVec 64) (new old : Vec) : Vec :=
  (List.range (512 / w)).foldl (fun (a : Vec) i =>
    if mask.getLsbD i then
      let m : Vec := BitVec.ofNat 512 ((2 ^ w - 1) * 2 ^ (w * i))
      (new &&& m) ||| (a &&& ~~~m)
    else a) old

/-- The scalar result with a number. -/
def Strand.lateS (t : Strand) (id : Nat) : Option Word :=
  match t.lates.find? fun x => x.id == id with
  | some ⟨_, .s v, _, []⟩ => some v
  | _ => none

/-- The vector result with a number over an old value. -/
def Strand.lateV (t : Strand) (id : Nat) (old : Vec) : Option Vec :=
  match t.lates.find? fun x => x.id == id with
  | some ⟨_, .v v m w, _, []⟩ => some (mergeLanes w m v old)
  | _ => none

/-- A cell read while its result is outstanding gives the old value or, where `new` holds, the result (R121). -/
def RegCell.peek {n : Nat} (x : RegCell n) (r : Option (BitVec n)) (new : Bool) : RegCell n :=
  match r with
  | some v => if new then { x with val := some v } else x
  | none => x

/-- The strand as the reads of one source see it. -/
def Strand.peek (t : Strand) (r : Reg) (new : Bool) : Strand :=
  match r with
  | .s r => match (t.sreg r).late with
    | some id => t.setSreg r ((t.sreg r).peek (t.lateS id) new)
    | none => t
  | .v r => match (t.vreg r).late with
    | some id => t.setVreg r ((t.vreg r).peek (t.lateV id (t.vreg r).read) new)
    | none => t
  | _ => t

/-- The strand as an instruction's reads see it: each register in the pending set takes a choice of its own (R121, log 3). Where two
sources of one instruction name the same pending register, both read by that register's choice: the model's choice (log 3). -/
def Strand.peekAll (t : Strand) (ctr : Nat) : List Reg → Strand × Nat
  | [] => (t, ctr)
  | r :: rs => if t.pendingReg r then (t.peek r (Config.freeBool ctr)).peekAll (ctr + 1) rs else t.peekAll ctr rs

/-- Write a long-latency result into the cell that still waits for it (R120); only one that writes all of its bytes ends its poison
(R334). -/
def RegCell.arrive {n : Nat} (x : RegCell n) (id : Nat) (whole : Bool) (v : BitVec n → BitVec n) : RegCell n :=
  if x.late = some id then ⟨some (v x.read), x.pend, none, x.poison && !whole⟩ else x

/-- A mask names every lane of width w. -/
def allLanes (m : BitVec 64) (w : Nat) : Bool := (List.range (512 / w)).all fun i => m.getLsbD i

/-- A loaded value as a scalar register takes it (R226). -/
def DLoad.word (d : DLoad) (v : Nat) : Word := if d.sx then sext (8 * d.n) v else BitVec.ofNat 64 v

/-- A result with the value that one of its loads has returned. -/
def LateVal.put (x : LateVal) (d : DLoad) (v : Nat) : LateVal :=
  match x with
  | .s _ => .s (d.word v)
  | .v u m w => .v (mergeLanes w (BitVec.ofNat 64 (2 ^ d.lane)) (BitVec.ofNat 512 (v % 2 ^ w * 2 ^ (w * d.lane))) u) m w
  | .none => .none

/-- A W marker waits for this (R120): a result, but no atomic or ADEC that returns none and is still to be performed (R238). -/
def Late.awaited (x : Late) : Bool := x.val != .none || x.todo.isEmpty || x.todo.any fun d => d.op == .load

/-- A register still waits for a result. -/
def Strand.awaits (t : Strand) (id : Nat) : Bool :=
  t.g.toList.any (·.late == some id) || t.o.toList.any (·.late == some id) || t.v.toList.any (·.late == some id) ||
    t.wins.any fun w => w.l.toList.any (·.late == some id) || w.i.toList.any (·.late == some id)

/-- A long-latency result is written, or discarded with its flags where no register waits for it any more (R120, R194). -/
def Strand.writeback (t : Strand) (id : Nat) : Strand :=
  match t.lates.find? fun x => x.id == id with
  | none => t
  | some r =>
    let kept := r.val == .none || t.awaits id
    let sw (v : Word) (x : RegCell 64) : RegCell 64 := x.arrive id true fun _ => v
    let t := match r.val with
      | .s v => { t with
          g := t.g.map (sw v), o := t.o.map (sw v)
          wins := t.wins.map fun (w : Window) => ⟨w.l.map (sw v), w.i.map (sw v)⟩ }
      | .v v m w => { t with v := t.v.map fun (x : RegCell 512) => x.arrive id (allLanes m w) (mergeLanes w m v) }
      | .none => t
    { t with lates := t.lates.filter fun x => x.id != id, fflags := if kept then t.fflags ||| r.flags else t.fflags }

/-- A long-latency scalar result is on its way to D (R119), with a load that is still to be performed where `todo` holds one (R267); g0
takes none (R120). -/
def State.loadS (s : State) (t : Strand) (d : Fin 32) (v : Word) (flags : BitVec 5) (todo : List DLoad) : State × Strand :=
  let (id, s) := s.fresh
  if d.val = 0 then (s, { t with lates := t.lates ++ [⟨id, .none, flags, todo⟩] })
  else (s, ({ t with lates := t.lates ++ [⟨id, .s v, flags, todo⟩] } : Strand).awaitS d id)

/-- A long-latency scalar result is on its way to D (R119). -/
def State.longS (s : State) (t : Strand) (d : Fin 32) (v : Word) (flags : BitVec 5) : State × Strand := s.loadS t d v flags []

/-- A long-latency vector result of some lanes of width w is on its way to D (R119), with the lanes still to be loaded (R267). -/
def State.loadV (s : State) (t : Strand) (d : Fin 32) (v : Vec) (lanes : BitVec 64) (w : Nat) (flags : BitVec 5) (todo : List DLoad) :
    State × Strand :=
  let (id, s) := s.fresh
  (s, ({ t with lates := t.lates ++ [⟨id, .v v lanes w, flags, todo⟩] } : Strand).awaitV d id)

/-- A long-latency vector result of some lanes of width w is on its way to D (R119). -/
def State.longV (s : State) (t : Strand) (d : Fin 32) (v : Vec) (lanes : BitVec 64) (w : Nat) (flags : BitVec 5) : State × Strand :=
  s.loadV t d v lanes w flags []

/-! ### Operand forms -/

/-- Sources of an operand form, with what K frees. A mail register that is read empties (R129). -/
abbrev Srcs := List (Reg × Bool)

/-- The source of a scalar operand. -/
def SSrc.src (x : SSrc) : Srcs := [(.s x.r, x.k)]
/-- The source of a vector operand. -/
def VSrc.src (x : VSrc) : Srcs := [(.v x.r, x.k)]
/-- The source of a mask operand. -/
def KSrc.src (x : KSrc) : Srcs := [(.k x.r, x.k)]
/-- The source of a class-1 operand. -/
def ISrc.src : ISrc → Srcs
  | .s r k => [(.s r, k)]
  | .m r => [(.m r, true)]
/-- The source of a class-1 B operand. -/
def IB.src : IB → Srcs
  | .reg x => ISrc.src x
  | .imm _ => []
/-- The source of a scalar B operand. -/
def SB.src : SB → Srcs
  | .reg x => SSrc.src x
  | .imm _ => []
/-- The source of a vector B operand. -/
def VB.src : VB → Srcs
  | .reg x => VSrc.src x
  | .imm _ => []
/-- The sources of an address operand. -/
def Addr.src (x : Addr) : Srcs := SSrc.src x.a ++ SB.src x.b
/-- The source of a scalar or mask operand. -/
def SKSrc.src : SKSrc → Srcs
  | .s x => SSrc.src x
  | .k x => KSrc.src x
/-- A scalar destination that is read as data (ST, ACAS): never freed (R224). -/
def dsrc (r : Fin 32) : Srcs := [(.s r, false)]
/-- The mask register M of class 4 (R107). -/
def msrc (k : Fin 8) : Srcs := [(.k k, false)]

/-- The value of a scalar source. -/
def Strand.gS (t : Strand) (x : SSrc) : Word := t.rdS x.r
/-- The value of a vector source. -/
def Strand.gV (t : Strand) (x : VSrc) : Vec := t.rdV x.r
/-- The value of a mask source. -/
def Strand.gK (t : Strand) (x : KSrc) : Word := t.rdK x.r
/-- The value of a class-1 source. -/
def Strand.gI (t : Strand) : ISrc → Word
  | .s r _ => t.rdS r
  | .m r => t.rdM r
/-- The value of a class-1 B operand: the register, or SExt(IMM12) (R108). -/
def Strand.gIB (t : Strand) : IB → Word
  | .reg x => t.gI x
  | .imm v => imm12 v
/-- The value of a scalar B operand (R108). -/
def Strand.gSB (t : Strand) : SB → Word
  | .reg x => t.gS x
  | .imm v => imm12 v
/-- The value of a scalar B operand whose immediate is unsigned (R108). -/
def Strand.gSBu (t : Strand) : SB → Word
  | .reg x => t.gS x
  | .imm v => v.setWidth 64
/-- Write a class-1 destination. -/
def Strand.wI (t : Strand) (d : IDst) (v : Word) : Strand :=
  match d with
  | .s r => t.wrS r v
  | .m r => t.wrM r v
/-- The effective address of an access (R225). -/
def Strand.ea (t : Strand) (x : Addr) : Word := t.gS x.a + t.gSB x.b

/-! ### How an instruction ends -/

/-- Where a completed instruction goes on. -/
inductive Go where
  | seq | to (target : Word) | cross (target : Word) | gone
  deriving DecidableEq, Repr

/-- Why an instruction has not completed: a trap before any effect; a trap after the state has changed (a report or a held
failure is consumed); or a wait, with what has been started meanwhile. -/
inductive Stop where
  | trap (cause acc : Nat) (addr lanes info : Word)
  | trapAt (s : State) (t : Strand) (cause acc : Nat) (addr lanes info : Word) (more : Nat)
  | hold (s : State) (t : Strand) (h : Hold)

/-- A trap with no address. -/
def Stop.plain (cause : Nat) : Stop := .trap cause 0 0 0 0

/-- A matrix command of the strand is not complete (R250). -/
def Strand.matrixBusy (t : Strand) : Bool := t.matrixLive
/-- The strand's newest command on a channel. -/
def Strand.newest (t : Strand) (ch : Fin 4) : Option CmdRec := (t.cmds.filter fun x => x.kind == .copy ch).getLast?

/-- The channel runs this command. -/
def Channel.runs (c : Channel) (id : Nat) : Bool :=
  match c.cmd with
  | some k => k.id == id
  | none => false

/-- The channel runs this command, and its pointer has reached an address (R262). -/
def Channel.reached (c : Channel) (id : Nat) (a : Option Word) : Bool :=
  match a with
  | some a => c.runs id && c.faults.isEmpty && a.toNat ≤ c.wptr.toNat
  | none => false

/-- Some matrix or copy command of the strand has neither completed nor stopped (R147, R250). -/
def Strand.cmdBusy (t : Strand) : Bool := t.cmds.any fun x => x.kind != .retire && x.st == .live

/-- An access that cannot be performed (R225): its trap; the walk or ATS request it waits for; or the park on the missing page,
once long-latency results and matrix commands are done (R122, R250, R324). -/
def State.stopAt (s : State) (c : CtxRef) (t : Strand) (va : Word) (trapAcc faultAcc : Nat) (write : Bool) (lanes : Word) :
    AStop → Stop
  | .trap cause => .trap cause trapAcc va lanes 0
  | .miss =>
    if regionOf va == .host then
      match s.fnPasid t.launch with
      | some (fn, pasid) =>
        let (s, id) := s.startAts (udie c.unit) fn pasid (va.toNat % 2 ^ 53) (.strand t.sid)
        .hold s t (.walk id)
      | none => .trap cRIGHTS trapAcc va lanes 0
    else
      let (s, id) := s.startWalk (udie c.unit) t.part va write (.strand t.sid)
      .hold s t (.walk id)
  | .absent f host =>
    if !t.lates.isEmpty then .hold s t .lates
    else if t.matrixBusy then .hold s t (.command .matrix)
    else
      let (s, id) := s.parkOn c t va t.pc lanes faultAcc f host
      .hold s { t with faults := t.faults ++ [id], wfaults := [] } .parked

/-- The same, from the kind of access. -/
def State.stopAcc (s : State) (c : CtxRef) (t : Strand) (va : Word) (acc : Acc) (e : AStop) : Stop :=
  s.stopAt c t va acc.trapCode acc.faultCode acc.writes 0 e

/-! ### Window stores (R124, R125, R141) -/

/-- SB, the address of the strand's store. -/
def State.storeBase (s : State) (c : CtxRef) (t : Strand) : Word :=
  (s.unit (homeOf c t).unit).wbs + BitVec.ofNat 64 (65536 * t.store)

/-- Some register of a window waits for a result that is outstanding. -/
def Window.awaits (w : Window) : Bool := w.l.toList.any (·.late.isSome) || w.i.toList.any (·.late.isSome)

/-- The sixteen cells of a window, l0–l7 then i0–i7. -/
def Window.cells (w : Window) : List (RegCell 64) := w.l.toList ++ w.i.toList

/-- A bit for each of a list's cells that meets a condition. -/
def cellBits (f : RegCell 64 → Bool) (l : List (RegCell 64)) : Nat :=
  l.foldr (fun x n => (f x).toNat + 2 * n) 0

/-- The lines of a range are ready at their homes for the device to read or write there for a strand (R77, R200, R285), and no load of
the strand from them is still to be performed (R266); or it waits. -/
def State.whenReady (s : State) (c : CtxRef) (t : Strand) (pa n : Nat) (write : Bool) : Except Stop State :=
  if t.loadingAt false pa n then .error (.hold s t (.home (lineOf pa)))
  else
    match s.devReady c.unit pa n write with
    | (s, true) => .ok s
    | (s, false) => .error (.hold s t (.home (lineOf pa)))

/-- A wait or a park inside an instruction leaves the strand as the instruction found it, with the faults that it waits for (R116). -/
def Stop.keeping (o : Strand) : Stop → Stop
  | .hold s t h => .hold s { o with faults := t.faults, wfaults := t.wfaults } h
  | x => x

/-- A write of the strand's store, by domain-0 rights (R125): a permission failure is the trap `cause`, a page that is not
present parks. -/
def State.storeWrite (s : State) (c : CtxRef) (t : Strand) (va : Word) (bs : List Byte) (cause : Nat) : Except Stop State :=
  match s.zeroPlace (who c t) va .write with
  | .ok (_, pa) => do
    let s ← s.whenReady c t pa bs.length true
    return s.devWrite c.unit t.part [t.sid] pa bs
  | .error (.trap _) => .error (.plain cause)
  | .error e => .error (s.stopAcc c t va .write e)

/-- A read of the strand's store, likewise; poisoned bytes are the trap POISON. -/
def State.storeRead (s : State) (c : CtxRef) (t : Strand) (va : Word) (n : Nat) (cause : Nat) :
    Except Stop (State × List Byte) :=
  match s.zeroPlace (who c t) va .read with
  | .ok (_, pa) => do
    let s ← s.whenReady c t pa n false
    let (s, bs, bad) := s.devRead c.unit t.part pa n
    if bad then .error (.trap cPOISON 1 va 0 0) else return (s, bs)
  | .error (.trap _) => .error (.plain cause)
  | .error e => .error (s.stopAcc c t va .read e)

/-- Write the live cells of a list at successive words. -/
def State.storeCells (s : State) (c : CtxRef) (t : Strand) (va : Word) (cause : Nat) :
    List (RegCell 64) → Except Stop State
  | [] => .ok s
  | x :: xs => do
    let s ← match x.val with
      | some v => s.storeWrite c t va (bytesOf 8 v.toNat) cause
      | none => .ok s
    State.storeCells s c t (va + 8) cause xs

/-- Spill a window to entry e (R125): freed registers are not written. -/
def State.spillWindow (s : State) (c : CtxRef) (t : Strand) (w : Window) (e : Nat) : Except Stop State := do
  let va := s.storeBase c t + BitVec.ofNat 64 (136 * e)
  let s ← s.storeCells c t va cWINDOW w.cells
  s.storeWrite c t (va + 128) (bytesOf 8 (cellBits (·.val.isNone) w.cells)) cWINDOW

/-- The pending and poison bits that go with a spilled window. -/
def Window.spillBits (w : Window) : BitVec 32 :=
  BitVec.ofNat 32 (cellBits (·.pend) w.cells + 65536 * cellBits (·.poison) w.cells)

/-- Spill the oldest resident window, at depth d + 1 − the number resident. -/
def State.spillOldest (s : State) (c : CtxRef) (t : Strand) : Except Stop (State × Strand) :=
  match t.wins.getLast? with
  | none => .ok (s, t)
  | some w =>
    if w.awaits then .error (.hold s t .lates)
    else do
      let e := t.depth + 1 - t.wins.length
      let s ← s.spillWindow c t w e
      return (s, { t with wins := t.wins.dropLast, spillPend := NMap.set t.spillPend e w.spillBits })

/-- The words of a list of bytes. -/
def wordsOf (bs : List Byte) : Nat → List Word
  | 0 => []
  | n + 1 => BitVec.ofNat 64 (natOfBytes (bs.take 8)) :: wordsOf (bs.drop 8) n

/-- Cells from words, with freed, pending and poison marks. -/
def cellsOf (ws : List Word) (freed pend poison : Nat) : List (RegCell 64) :=
  (List.range ws.length).map fun i =>
    ⟨if freed / 2 ^ i % 2 == 1 then none else some (ws.getD i 0), pend / 2 ^ i % 2 == 1, none, poison / 2 ^ i % 2 == 1⟩

/-- Eight cells of a list as a bank. -/
def bankOf (l : List (RegCell 64)) : Vector (RegCell 64) 8 := Vector.ofFn fun i => l.getD i.val .freed

/-- Fill the window of depth e from its entry (R125). -/
def State.fillWindow (s : State) (c : CtxRef) (t : Strand) (e : Nat) : Except Stop (State × Window) := do
  let va := s.storeBase c t + BitVec.ofNat 64 (136 * e)
  let (s, bs) ← s.storeRead c t va 136 cWINDOW
  let ws := wordsOf bs 17
  let b := (NMap.getD t.spillPend e 0).toNat
  let l := cellsOf (ws.take 16) ((ws.getD 16 0).toNat % 65536) (b % 65536) (b / 65536)
  return (s, ⟨bankOf l, bankOf (l.drop 8)⟩)

/-- Slide by 16 for a call (R123, R125): the caller's o become the callee's i, its l and o start freed; a ninth window spills
the oldest first. -/
def State.slide (s : State) (c : CtxRef) (t : Strand) : Except Stop (State × Strand) := do
  let (s, t) ← if t.wins.length ≥ 8 then s.spillOldest c t else .ok (s, t)
  return (s, { t with wins := ⟨.replicate 8 .freed, t.o⟩ :: t.wins, o := .replicate 8 .freed, depth := t.depth + 1 })

/-- Slide back (R123): the callee's i become the caller's o; the caller's window fills where it is not resident. -/
def State.slideBack (s : State) (c : CtxRef) (t : Strand) : Except Stop (State × Strand) :=
  match t.wins with
  | w :: w' :: ws => .ok (s, { t with wins := w' :: ws, o := w.i, depth := t.depth - 1 })
  | _ => do
    let (s, w') ← s.fillWindow c t (t.depth - 1)
    return (s, { t with wins := [w'], o := t.win.i, depth := t.depth - 1, spillPend := NMap.del t.spillPend (t.depth - 1) })

/-- n, the number of crossings on the stack. -/
def Strand.crossings (t : Strand) : Nat := t.frames.length

/-- A staged graft's two words (R141). -/
def graftWords : Option Graft → Word × Word
  | some g => (g.base, BitVec.ofNat 64 (g.len % 2 ^ 56 + g.rights.toNat * 2 ^ 56))
  | none => (0, 0)

/-- A staged graft from its two words. -/
def graftOf (set : Bool) (a b : Word) : Option Graft :=
  if set then some ⟨a, b.toNat % 2 ^ 56, BitVec.ofNat 2 (b.toNat / 2 ^ 56)⟩ else none

/-- The 136 bytes of a crossing record (R141). -/
def CrossRec.bytes (r : CrossRec) : List Byte :=
  let gs := r.g.toList.drop 1
  let fr := cellBits (·.val.isNone) gs
  let st := (r.staged.toList.map Option.isSome).foldr (fun b n => b.toNat + 2 * n) 0
  bytesOf 8 r.ret.toNat ++ bytesOf 8 (r.dom.toNat + r.base % 512 * 2 ^ 8 + fr * 2 ^ 17 + st * 2 ^ 24) ++
    gs.flatMap (fun x => bytesOf 8 x.read.toNat) ++
    r.staged.toList.flatMap fun h => bytesOf 8 (graftWords h).1.toNat ++ bytesOf 8 (graftWords h).2.toNat

/-- A crossing record from its bytes, and the poison bits of g1–g7. -/
def CrossRec.ofBytes (bs : List Byte) (poison : Nat) : CrossRec :=
  let ws := wordsOf bs 17
  let h := (ws.getD 1 0).toNat
  let g (i : Nat) : RegCell 64 :=
    if i = 0 then .freed else if h / 2 ^ (16 + i) % 2 == 1 then .freed
    else { RegCell.of (ws.getD (1 + i) 0) with poison := poison / 2 ^ i % 2 == 1 }
  { ret := ws.getD 0 0, dom := BitVec.ofNat 8 h, base := h / 2 ^ 8 % 512
    g := Vector.ofFn fun i => g i.val
    staged := Vector.ofFn fun j => graftOf (h / 2 ^ (24 + j.val) % 2 == 1) (ws.getD (9 + 2 * j.val) 0) (ws.getD (10 + 2 * j.val) 0) }

/-- The entry of the store that takes the record of crossing j (R141). -/
def recEntry (j : Nat) : Nat := 480 - j

/-- Where the record of crossing j is spilled (R141). -/
def State.recAddr (s : State) (c : CtxRef) (t : Strand) (j : Nat) : Word :=
  s.storeBase c t + BitVec.ofNat 64 (136 * recEntry j)

/-- The poison bits kept for the spilled record of crossing j (R334). -/
def Strand.recPoison (t : Strand) (j : Nat) : Nat := (NMap.getD t.spillPend (recEntry j) 0).toNat / 65536

/-- Spill the oldest resident crossing record (R141). -/
def State.spillRec (s : State) (c : CtxRef) (t : Strand) : Except Stop (State × Strand) :=
  match t.recs.getLast? with
  | none => .ok (s, t)
  | some r => do
    let j := t.crossings - t.recs.length
    let s ← s.storeWrite c t (s.recAddr c t j) r.bytes cWINDOW
    let bits := BitVec.ofNat 32 (65536 * cellBits (·.poison) r.g.toList)
    return (s, { t with recs := t.recs.dropLast, spillPend := NMap.set t.spillPend (recEntry j) bits })

/-- The innermost crossing record, filled from the store where it is not resident (R144). -/
def State.innermost (s : State) (c : CtxRef) (t : Strand) : Except Stop (State × CrossRec) :=
  match t.recs with
  | r :: _ => .ok (s, r)
  | [] => do
    let (s, bs) ← s.storeRead c t (s.recAddr c t (t.crossings - 1)) 136 cWINDOW
    return (s, .ofBytes bs (t.recPoison (t.crossings - 1)))

/-- Spill every resident window but the current one; `fuel` bounds how many. -/
def State.spillWindows (s : State) (c : CtxRef) (t : Strand) : Nat → Except Stop (State × Strand)
  | 0 => .ok (s, t)
  | fuel + 1 =>
    if t.wins.length ≤ 1 then .ok (s, t)
    else do
      let (s, t) ← s.spillOldest c t
      State.spillWindows s c t fuel

/-- Spill every resident crossing record. -/
def State.spillRecs (s : State) (c : CtxRef) (t : Strand) : Nat → Except Stop (State × Strand)
  | 0 => .ok (s, t)
  | fuel + 1 =>
    if t.recs.isEmpty then .ok (s, t)
    else do
      let (s, t) ← s.spillRec c t
      State.spillRecs s c t fuel

end Sys2Proof.Machine
end

