-- ==== Sys2Proof/Machine/Work.lean ====
section
/-! DEFINITION. Work in motion: queues of records with their spill (R38–R40, R75–R77), capsules on their way, parked and
retired (R48–R50, R305, R306, R335), the end of a strand (R146, R323) and when a launch has ended (R46, R351). -/
namespace Sys2Proof.Machine

/-! ### Records and their control word (R36, R37) -/

/-- PRIO. -/
def ctlPrio (w : Word) : Nat := w.toNat % 256
/-- PLACE. -/
def ctlPlace (w : Word) : Nat := w.toNat / 2 ^ 16 % 2 ^ 18
/-- LAUNCH. -/
def ctlLaunch (w : Word) : Nat := w.toNat / 2 ^ 34 % 2 ^ 14
/-- Reserved bits are set, or PRIO is above 7 (R41). -/
def ctlBad (w : Word) : Bool := w.toNat / 2 ^ 48 != 0 || w.toNat / 2 ^ 8 % 256 != 0 || 7 < ctlPrio w
/-- A control word with its LAUNCH. -/
def ctlWithLaunch (w : Word) (n : Nat) : Word := BitVec.ofNat 64 (w.toNat % 2 ^ 34 + n % 2 ^ 14 * 2 ^ 34 + w.toNat / 2 ^ 48 * 2 ^ 48)
/-- A control word from its fields. -/
def ctlOf (launch place prio : Nat) : Word := BitVec.ofNat 64 (prio + place * 2 ^ 16 + launch * 2 ^ 34)
/-- "Any core of the launch". -/
def anyCore : Nat := 0x3_FFFF

/-! ### The overflow area (R77, R298, R305) -/

/-- Bytes an item takes in the overflow area (log 12). -/
def OverItem.bytes : OverItem → Nat
  | .msg _ _ _ => 64
  | .entry _ _ => 64
  | .cap _ _ _ _ c => 256 + c.payload.length

/-- The items of an overflow area, in their order. -/
def Tile.items (t : Tile) : List OverItem := t.ovf.map (·.item)

/-- Room for an item in a tile's 8 MiB overflow area. -/
def Tile.room (t : Tile) (i : OverItem) : Bool := (t.items.foldl (fun n x => n + x.bytes) 0) + i.bytes ≤ 0x80_0000

/-! ### Queues (R76, R77) -/

/-- The tile that holds a queue and its spill ring. -/
def queueTile : QueueRef → Nat
  | .tile t _ => t
  | .core p => p / 32

/-- Entries a queue holds before it spills. -/
def queueCap : QueueRef → Nat
  | .tile _ _ => 512
  | .core _ => 64

/-- Entries of its spill ring. -/
def ringCap : QueueRef → Nat
  | .tile _ _ => 8192
  | .core _ => 4096

/-- A queue. -/
def State.queue (s : State) : QueueRef → Queue
  | .tile t p => NMap.getD (s.tile t).ready p ⟨[], [], 0⟩
  | .core p => (s.unit (.core p)).pinned

/-- Replace a queue. -/
def State.setQueue (s : State) (r : QueueRef) (q : Queue) : State :=
  match r with
  | .tile t p => s.modTile t fun x => { x with ready := NMap.set x.ready p q }
  | .core p => s.modUnit (.core p) fun x => { x with pinned := q }

/-- Entries of a queue wait in the overflow area. -/
def Tile.holds (t : Tile) (r : QueueRef) : Bool := t.items.any fun i => match i with
  | .entry q _ => q == r
  | _ => false

/-- Entries of a queue wait at a home slice. -/
def State.waitsAtHome (s : State) (r : QueueRef) : Bool := s.pushWait.any fun e => e.2.1 == r

/-- The key slot of the spill areas: no partition's (R77). -/
def spillKey : Nat := 0x40

/-- The physical address of a tile's spill area (R77). -/
def State.spillAt (s : State) (tile : Nat) : Nat := (s.die (tile / 8)).spillbase.toNat + 0x100_0000 * (tile % 8)

/-- The offset of a queue's spill ring in its tile's spill area (R77). -/
def ringOff : QueueRef → Nat
  | .tile _ prio => 0x80_0000 + 0x4_0000 * prio
  | .core p => 0xA0_0000 + 0x2_0000 * (p % 32)

/-- Where the n-th entry of a queue's ring lies: 32 bytes each, round and round (R77). -/
def State.ringAt (s : State) (r : QueueRef) (n : Nat) : Nat :=
  s.spillAt (queueTile r) + ringOff r + 32 * (((s.queue r).pos + n) % ringCap r)

/-- The 32 bytes of a record as its entry holds them (R36, R39): its counter is zero. -/
def QEntry.image (e : QEntry) : List Byte :=
  bytesOf 8 0 ++ bytesOf 8 e.code.toNat ++ bytesOf 8 e.frame.toNat ++ bytesOf 8 e.ctl.toNat

/-- What the device writes of an item into its tile's overflow area (log 12). -/
def OverItem.image : OverItem → List Byte
  | .msg _ _ m => m.words.toList.flatMap fun w => bytesOf 8 w.toNat
  | .entry _ e => e.image
  | .cap _ _ _ _ c => c.pfx ++ c.payload

/-- The device writes into a spill area through the L2, under the internal key (R77). -/
def State.spillWrite (s : State) (pa : Nat) (bs : List Byte) : State := s.homeWriteBytes (some spillKey) [] pa bs (bs.length / 128 + 2)

/-- The device reads a spill area through the L2, under the internal key (R77). -/
def State.spillRead (s : State) (pa n : Nat) : State := (s.homeReadBytes (some spillKey) pa n (n / 128 + 2)).1

/-- An item joins a tile's overflow area (R77, R298, R305). -/
def State.ovfPut (s : State) (tile : Nat) (i : OverItem) : State :=
  let pos := if (s.tile tile).ovfPos + i.bytes ≤ 0x80_0000 then (s.tile tile).ovfPos else 0
  (s.spillWrite (s.spillAt tile + pos) i.image).modTile tile fun x => { x with ovf := x.ovf ++ [⟨pos, i⟩], ovfPos := pos + i.bytes }

/-- An item leaves a tile's overflow area: the device reads it there (R77). -/
def State.ovfTake (s : State) (tile : Nat) (o : Over) : State :=
  (s.spillRead (s.spillAt tile + o.pos) o.item.image.length).modTile tile fun x => { x with ovf := x.ovf.filter (· != o) }

/-- An entry joins its queue; when the queue is full its ring, then the overflow area behind the ring's entries (R76, R77); none
when that is full too. -/
def State.enqueueNow (s : State) (r : QueueRef) (e : QEntry) : Option State :=
  let q := s.queue r
  let t := s.tile (queueTile r)
  if q.ring.isEmpty && !t.holds r && q.q.length < queueCap r then some (s.setQueue r { q with q := q.q ++ [e] })
  else if !t.holds r && q.ring.length < ringCap r then
    some ((s.spillWrite (s.ringAt r q.ring.length) e.image).setQueue r { q with ring := q.ring ++ [e] })
  else if t.room (.entry r e) then some (s.ovfPut (queueTile r) (.entry r e))
  else none

/-- An entry joins its queue, behind earlier ones; one that finds no room waits at the home slice (R77). -/
def State.enqueue (s : State) (r : QueueRef) (e : QEntry) : State :=
  match if s.waitsAtHome r then none else s.enqueueNow r e with
  | some s => s
  | none =>
    let (id, s) := s.fresh
    { s with pushWait := NMap.set s.pushWait id (r, e) }

/-- The launch has cores in a tile. -/
def Launch.inTile (l : Launch) (t : Nat) : Bool := l.cores.any fun e => e.2 / 32 == t

/-- Where a pushed record goes (R40, R75, R76): `tile` is that of the pushing strand, where a record goes too whose LAUNCH is no live
launch of the partition. -/
def State.routeOf (s : State) (p tile : Nat) (addr ctl : Word) : QueueRef :=
  let prio := min (ctlPrio ctl) 7
  let place := ctlPlace ctl
  if place = anyCore then
    match (s.launch (ctlLaunch ctl)).filter fun l => l.part == p with
    | some l =>
      if l.pkt.det && !l.cores.isEmpty then
        .core ((l.cores.getD (addr.toNat / 32 % l.cores.length) (0, 0)).2)
      else if l.inTile tile then .tile tile prio
      else match l.cores with
        | e :: _ => .tile (e.2 / 32) prio
        | [] => .tile tile prio
    | none => .tile tile prio
  else
    match s.coreAt p place with
    | some (pkg, pcore) => if pkg == s.pkgNo then .core pcore else .tile tile prio
    | none => .tile tile prio

/-- Push a record (R39, R40, R240) into the queue that `route` gives for its control word: the copied words become a queue entry; a
LAUNCH of 0 takes the pusher's. The restore mark is consumed by the push (R331). -/
def State.pushTo (s : State) (route : Word → QueueRef) (p launch vtime : Nat) (pa : Nat) (addr code frame ctl : Word)
    (saved : Option Saved) (acq : Option AcqInfo) : State :=
  let ctl := if ctlLaunch ctl = 0 then ctlWithLaunch ctl launch else ctl
  let mark := NMap.find s.marks (pa / 32)
  let s := { s with marks := NMap.del s.marks (pa / 32) }
  s.enqueue (route ctl) ⟨lineOf pa, addr, code, frame, ctl, ctlLaunch ctl, p, 0, mark, saved, vtime, acq, none⟩

/-- Push a record to where its PLACE sends it (R40, R75, R76). -/
def State.pushRecord (s : State) (p tile launch vtime : Nat) (pa : Nat) (addr code frame ctl : Word) (saved : Option Saved)
    (acq : Option AcqInfo) : State :=
  s.pushTo (s.routeOf p tile addr) p launch vtime pa addr code frame ctl saved acq

/-! ### Capsules (R48, R49) -/

/-- A little-endian field of a capsule's prefix. -/
def Capsule.get (c : Capsule) (o n : Nat) : Nat := natOfBytes ((c.pfx.drop o).take n)
/-- Replace a field of the prefix. -/
def Capsule.put (c : Capsule) (o n v : Nat) : Capsule :=
  { c with pfx := c.pfx.take o ++ bytesOf n v ++ c.pfx.drop (o + n) }
/-- STOPS. -/
def Capsule.stops (c : Capsule) : Nat := c.get 0x18 1
/-- NEXT. -/
def Capsule.next (c : Capsule) : Nat := c.get 0x19 1
/-- The entry of a stop. -/
def Capsule.entry (c : Capsule) (i : Nat) : Word := BitVec.ofNat 64 (c.get (0x40 + 16 * i) 8)
/-- The place word of a stop. -/
def Capsule.place (c : Capsule) (i : Nat) : Nat := c.get (0x48 + 16 * i) 8

/-- A place word obeys R49. -/
def placeOk (w : Nat) : Bool := w / 2 ^ 20 % 2 ^ 28 == 0 && w % 4 != 3

/-- The prefix obeys R48 and R49 (R50). -/
def Capsule.valid (c : Capsule) : Bool :=
  let n := c.stops
  let len := c.get 0x1C 4
  c.pfx.length == 256 && 1 ≤ n && n ≤ 12 && c.next < n && c.get 0x1A 1 / 2 == 0 && len % 256 == 0 && 256 ≤ len && len ≤ 16384 &&
    c.payload.length == len && c.get 0x10 8 % 32 == 0 && c.get 0x20 8 == 0 && c.get 0x28 24 == 0 &&
    (List.range n).all (fun i => placeOk (c.place i)) && c.get (0x40 + 16 * n) (192 - 16 * n) == 0

/-- Wake the contexts that hold strands of a partition (R335, R345). -/
def State.wakePart (s : State) (p : Nat) : State :=
  s.units.foldl (fun s e =>
    s.modUnit (uref e.1) fun x =>
      { x with wake := x.wake ++ (x.strands.filter fun t => t.2.part == p && !x.wake.contains t.1).map Prod.fst }) s

/-- The strand fields of a park's record (R324, R335). -/
def CapBy.word (b : Option CapBy) (launch : Nat) : Word :=
  match b with
  | none => BitVec.ofNat 64 (launch * 2 ^ 23)
  | some b =>
    BitVec.ofNat 64 (b.lcore % 2 ^ 18 + b.ctx % 8 * 2 ^ 18 + b.kp.toNat * 2 ^ 21 + (b.kp && !b.own && b.ctx ≥ 8).toNat * 2 ^ 22 +
      launch * 2 ^ 23 + b.own.toNat * 2 ^ 37)

/-- Free a mortise; its tag is 0 again (R95). -/
def freeMortise (x : CoreUnit) (m : Fin 2) : CoreUnit := { x with mort := x.mort.set m none }

/-- Free the mortise that a waiting capsule has kept. -/
def State.freeMortAt (s : State) (m : Option (Nat × Fin 2)) : State :=
  match m with
  | some (k, i) => s.modUnit (uref k) fun x => freeMortise x i
  | none => s

/-- A capsule that waits for a park slot keeps its mortise, and no strand starts there (R335). -/
def State.keepMortAt (s : State) (m : Option (Nat × Fin 2)) : State :=
  match m with
  | some (k, i) => s.modUnit (uref k) fun x => { x with mort := x.mort.set i (x.mort[i].map fun y => { y with use := .saved }) }
  | none => s

/-- Write a capsule into park slot k (R335), with zeros for a payload that could not be read (log 16); the mortise that it has kept is free. -/
def State.parkInto (s : State) (k : Nat) (w : ParkWait) : State :=
  let p := w.cap.part
  let vf := s.launchFn w.cap.launch p
  let park := w.cause + w.stop * 2 ^ 8 + k * 2 ^ 16
  let c := (w.cap.put 0x19 1 w.stop).put 0x20 8 park
  let rec0 := bytesOf 8 w.va.toNat ++ bytesOf 8 w.ipa.toNat ++ bytesOf 8 0 ++
    bytesOf 8 (w.cause + w.ret.toNat * 2 ^ 19 + p * 2 ^ 20 + vf * 2 ^ 26) ++ bytesOf 8 (CapBy.word w.cap.by_ w.cap.launch).toNat ++
    bytesOf 8 (match w.cap.by_ with | some b => b.pc.toNat | none => 0) ++ bytesOf 16 0
  let base := (s.part p).parkbase.toNat + 17408 * k
  let s := s.homeWriteBytes none [] base rec0 2
  let rest := List.replicate (min (c.get 0x1C 4) 16384 - c.payload.length) 0
  let s := s.homeWriteBytes none [] (base + 0x100) (c.pfx ++ c.payload ++ rest) 140
  let s := s.modPart p fun x => { x with parks := x.parks ++ [⟨k, w.cap.launch, w.cap.ts⟩] }
  (s.freeMortAt w.mort).wakePart p

/-- The lowest free park slot of a partition. -/
def State.freePark (s : State) (p : Nat) : Option Nat :=
  match leastFree ((s.part p).parks.map (·.slot)) 1025 0 with
  | some k => if k < 1024 then some k else none
  | none => none

/-- Park a capsule, or let it wait where it is until a slot frees, in the mortise that it has (R335). -/
def State.park (s : State) (c : Capsule) (cause : Nat) (va : Word) (ret : Bool) (ipa : Word) (stop : Nat)
    (mort : Option (Nat × Fin 2)) : State :=
  let w : ParkWait := ⟨0, c, cause, va, ret, ipa, stop, mort⟩
  match s.freePark c.part with
  | some k => s.parkInto k w
  | none =>
    let (id, s) := s.fresh
    { s.keepMortAt mort with parkWait := NMap.set s.parkWait id { w with id := id } }

/-- A launch is a DET launch. -/
def State.isDet (s : State) (launch : Nat) : Bool :=
  match s.launch launch with
  | some l => l.pkt.det
  | none => false

/-- Some mortise of a core is free. -/
def freeMort (x : CoreUnit) : Option (Fin 2) :=
  if x.mort[0].isNone then some 0 else if x.mort[1].isNone then some 1 else none

/-- The logical core a stop's place resolves to (R306). -/
def State.resolve (s : State) (c : Capsule) (i : Nat) : Nat :=
  let w := c.place i
  let num := w / 4 % 2 ^ 18
  let size := if w % 4 = 1 then 32 else 4
  if w % 4 = 0 then num
  else if s.isDet c.launch then size * num + c.get 0 8 % size
  else
    match (List.range size).find? fun j =>
      match s.coreAt c.part (size * num + j) with
      | some (pkg, pc) => pkg == s.pkgNo && (freeMort (s.unit (.core pc))).isSome
      | none => false with
    | some j => size * num + j
    | none => size * num

/-- A logical core is mapped to this package and is unusable, because the table breaks a rule there (R69). -/
def State.unusable (s : State) (p l : Nat) : Bool :=
  mapValid l (s.mapEntry p l) && mapPkg (s.mapEntry p l) == s.pkgNo && (s.coreAt p l).isNone

/-- Ship a capsule to a stop, out of the mortise that it has: it goes on its way, or parks, with cause TARGET where the stop resolves to a
core that the mapping table leaves unusable (R69) and CAPSULE where to one that is not valid or of another package (R306, log 50). -/
def State.ship (s : State) (c : Capsule) (stop : Nat) (mort : Option (Nat × Fin 2)) : State :=
  let out := s.freeMortAt mort
  let l := out.resolve c stop
  match (s.coreAt c.part l).filter fun e => e.1 == s.pkgNo with
  | some (_, pc) => out.send (.hop pc l stop c)
  | none => s.park c (if s.unusable c.part l then cTARGET else cCAPSULE) (c.entry stop) false 0 stop mort

/-- A capsule enters the fabric (R50, R308, R336): its prefix is checked and it ships to stop NEXT, or it parks. -/
def State.enterFabric (s : State) (c : Capsule) : State :=
  if c.valid then s.ship c c.next none else s.park c cCAPSULE 0 false 0 c.next none

/-- The bytes of a mortise. -/
def mortBytes (u : UnitRef) (x : CoreUnit) (m : Fin 2) (o n : Nat) : List Byte := Memory.readBytes x.sp (mortOff u x m.val + o) n

/-- The capsule landed in a mortise, read out of it. -/
def mortCapsule (u : UnitRef) (x : CoreUnit) (m : Fin 2) (k : Mort) (b : Option CapBy) : Capsule :=
  let pfx := mortBytes u x m 0 256
  let len := natOfBytes ((pfx.drop 0x1C).take 4)
  ⟨pfx, mortBytes u x m 256 len, k.launch, k.part, k.ts, b⟩

/-- The strand as a park names it (R335). -/
def capBy (c : CtxRef) (t : Strand) (pc : Word) : CapBy :=
  match c.unit with
  | .core _ => ⟨t.lcore, c.ctx, false, false, pc⟩
  | .kp n => if c.ctx < 4 then ⟨n, c.ctx, true, true, pc⟩ else ⟨t.lcore, c.ctx - 4, true, false, pc⟩

/-! ### The end of a strand (R146, R323) -/

/-- Discard the inbox entries bound to a strand (R146, R300). -/
def dropDeposits (x : CoreUnit) (sid : Nat) : CoreUnit :=
  { x with inbox := x.inbox.filter fun e => match e with
      | .dep d => d.sid != some sid
      | .msg _ => true }

/-- A recorded fault whose park is discarded: its slot of a VF's queue, or its PRI request, still waits for a reply, which reaches no
strand (R325, R326). -/
def FaultRec.orphan (f : FaultRec) : Option FaultRec :=
  if f.fid.isSome && (f.vf != 0 || f.host) then some { f with who := .strand 0, launch := 0 } else none

/-- Forget the faults of a strand: a park is discarded with it (R326). -/
def State.dropFaults (s : State) (sid : Nat) : State :=
  { s with
    faults := s.faults.filterMap fun f => if f.who == .strand sid then f.orphan else some f
    walks := NMap.mapV (fun _ w => { w with who := w.who.filter (· != .strand sid) }) s.walks }

/-- The save slot of a strand that has not been restored frees, and the store that was kept for it (R331, R332). -/
def State.freeRestore (s : State) (u : UnitRef) (t : Strand) : State :=
  match t.slot with
  | some (tile, k) =>
    (s.modTile tile fun x => { x with saves := x.saves.filter (· != k) }).modUnit u fun x => { x with kept := NMap.del x.kept t.store }
  | none => s

/-- A strand ends (R146): its context and store are free, deposits that wait for it go, and its signature joins the launch's. -/
def State.endStrand (s : State) (c : CtxRef) (t : Strand) : State :=
  let s := (s.delStrand c).freeRestore (homeOf c t).unit t
  let s := s.modUnit (homeOf c t).unit fun x => dropDeposits x t.sid
  let s := s.dropFaults t.sid
  s.modLaunch t.launch fun l => { l with csig := l.csig ||| t.wsig }

/-- The capsule a strand still holds parks with a cause (R323, R335). -/
def State.parkHeld (s : State) (c : CtxRef) (t : Strand) (cause : Nat) (pc : Word) : State :=
  match t.cap with
  | none => s
  | some k =>
    let u := (homeOf c t).unit
    let x := s.unit u
    match x.mort[k.mort] with
    | none => s
    | some m =>
      let cap := mortCapsule u x k.mort m (some (capBy c t pc))
      s.park cap cause (cap.entry k.stop) false 0 k.stop (some (ukey u, k.mort))

/-- A strand ends from a handler window (R323), or as a double trap with LSTAT.CODE 0x03 (R319, R321). -/
def State.endHandled (s : State) (c : CtxRef) (t : Strand) (cause : Nat) (pc : Word) (double : Bool) : State :=
  let s := s.parkHeld c t cause pc
  let s := s.endStrand c t
  s.modLstat t.launch fun l => { l with ended := min (l.ended + 1) (2 ^ 32 - 1), code := if double then 3 else l.code }

/-! ### When a launch has ended (R46, R351) -/

/-- The indices a die (open) or launch core (pinned) still has to generate. -/
def Launch.bounds (l : Launch) (d : Nat) : Nat × Nat :=
  let w := l.pkt.weights.toList
  let tot := w.foldl (· + ·) 0
  let pre := (w.take d).foldl (· + ·) 0
  (l.pkt.n * pre / tot, l.pkt.n * (pre + w.getD d 0) / tot)

/-- A pinned launch (DET implies it, R44). -/
def Launch.isPinned (l : Launch) : Bool := l.pkt.pinned || l.pkt.det

/-- The position of a launch core in the launch, from its physical core. -/
def Launch.coreIdx (l : Launch) (pcore : Nat) : Option Nat :=
  (List.range l.cores.length).find? fun i => (l.cores.getD i (0, 1024)).2 == pcore

/-- The next index a generator makes, if any is left: of die d in open mode, of launch core d in pinned mode. -/
def Launch.nextIdx (l : Launch) (d : Nat) : Option Nat :=
  if l.killed then none
  else if l.isPinned then
    let i := NMap.getD l.next d d
    if i < l.pkt.n then some i else none
  else
    let (lo, hi) := l.bounds d
    let i := NMap.getD l.next d lo
    if i < hi then some i else none

/-- A generator has made its next index. -/
def Launch.advance (l : Launch) (d : Nat) : Launch :=
  match l.nextIdx d with
  | some i => { l with next := NMap.set l.next d (if l.isPinned then i + l.cores.length else i + 1) }
  | none => l

/-- Every index, or every capsule of a batch, has been made. -/
def Launch.exhausted (l : Launch) : Bool :=
  if l.pkt.kind = 2 then l.killed || l.pkt.n ≤ NMap.getD l.next 0 0
  else if l.isPinned then (List.range l.cores.length).all fun d => (l.nextIdx d).isNone
  else (List.range 4).all fun d => (l.nextIdx d).isNone

/-- A flight belongs to a launch: a message, deposit or capsule of it. -/
def Flight.ofLaunch (f : Flight) (n : Nat) : Bool :=
  match f with
  | .message _ _ _ m | .hostMsg _ _ _ m | .collective _ _ _ _ m => m.launch == n
  | .deposit _ _ _ d => d.launch == n
  | .hop _ _ _ c => c.launch == n
  | _ => false

/-- An overflow item belongs to a launch. -/
def OverItem.ofLaunch (i : OverItem) (n : Nat) : Bool :=
  match i with
  | .msg _ _ m => m.launch == n
  | .cap _ _ _ _ c => c.launch == n
  | .entry _ e => e.launch == n

/-- An inbox entry belongs to a launch. -/
def InboxEntry.ofLaunch (e : InboxEntry) (n : Nat) : Bool :=
  match e with
  | .msg m => m.launch == n
  | .dep d => d.launch == n

/-- A restore mark stands for a suspended strand of the launch: the record's LAUNCH in memory (R46). -/
def State.markLaunch (s : State) (r : Nat) : Nat := ctlLaunch (BitVec.ofNat 64 (Memory.readN s.mem (32 * r + 24) 8))

/-- A contribution that the switch holds was made in this package. -/
def State.ours (s : State) (g : Group) (c : Contrib) : Bool := (g.members.getD c.idx (s.pkgNo + 1, 0)).1 == s.pkgNo

/-- Something of the launch has not ended (R46, R351): a strand or handler, a run or message that waits, a suspended strand, a
capsule, a contribution to an open round of a collective, or an engine command or retirement. Runs and messages that have not started
hold the launch open too (log 13). -/
def State.launchBusy (s : State) (n : Nat) : Bool :=
  s.units.any (fun e =>
    e.2.strands.any (fun t => t.2.launch == n) || e.2.pinned.q.any (·.launch == n) || e.2.pinned.ring.any (·.launch == n) ||
    e.2.inbox.any (·.ofLaunch n) || e.2.cq.any (·.launch == n) ||
    e.2.chan.toList.any (fun c => match c.cmd with | some k => k.launch == n | none => false) ||
    e.2.mort.toList.any (fun m => match m with | some k => k.launch == n | none => false)) ||
  s.tiles.any (fun e => e.2.items.any (·.ofLaunch n) ||
    e.2.ready.any fun q => q.2.q.any (·.launch == n) || q.2.ring.any (·.launch == n)) ||
  s.pushWait.any (fun e => e.2.2.launch == n) ||
  s.flights.any (fun e => e.2.ofLaunch n) ||
  s.marks.any (fun r => s.markLaunch r.1 == n) ||
  s.retires.any (fun e => e.2.cap.launch == n) ||
  s.parkWait.any (fun e => e.2.cap.launch == n) ||
  s.groups.any (fun e => e.2.got.any fun c => c.m.launch == n && s.ours e.2 c) ||
  s.parts.any (fun e => e.2.parks.any (·.launch == n))

end Sys2Proof.Machine
end

