-- ==== Sys2Proof/Machine/Ops.lean ====
section
/-! DEFINITION. How an instruction issues and retires (R84, R87, R88, R115, R120, R318), taking a trap (R319–R321, R323), the
return from one (R322), and the save of a strand (R147, R328–R330). -/
namespace Sys2Proof.Machine

/-! ### The common part of every instruction -/

/-- What the common part needs to know of an instruction: its base-word bits, its length in bytes without a live-mask word, its
sources, whether it names a vector register or an accumulator, the vector register that it writes, the accumulators that it names,
whether only domain 0 may execute it, and whether the next instruction in line follows it. -/
structure Op where
  h     : Hd
  len   : Nat
  srcs  : Srcs
  vec   : Bool
  vd    : Option (Fin 32)
  accs  : List (Fin 8)
  priv  : Bool
  falls : Bool

/-- An instruction that goes on in line. -/
def op (h : Hd) (len : Nat) (srcs : Srcs) : Op := ⟨h, len, srcs, false, none, [], false, true⟩
/-- An instruction that transfers control, or makes the check of R87 itself. -/
def opJ (h : Hd) (len : Nat) (srcs : Srcs) : Op := ⟨h, len, srcs, false, none, [], false, false⟩
/-- An instruction that names vector registers and writes none. -/
def opV (h : Hd) (len : Nat) (srcs : Srcs) : Op := ⟨h, len, srcs, true, none, [], false, true⟩
/-- An instruction that writes vector register D. -/
def opW (h : Hd) (len : Nat) (srcs : Srcs) (d : Fin 32) : Op := ⟨h, len, srcs, true, some d, [], false, true⟩
/-- A class-5 command that names an accumulator. -/
def opE (h : Hd) (len : Nat) (srcs : Srcs) (a : Fin 8) : Op := ⟨h, len, srcs, true, none, [a], false, true⟩
/-- An instruction of domain 0 (R98). -/
def opP (h : Hd) (len : Nat) (srcs : Srcs) : Op := ⟨h, len, srcs, false, none, [], true, true⟩

/-- The vector registers that an instruction names. -/
def Op.vregs (o : Op) : List (Fin 32) :=
  o.vd.toList ++ o.srcs.filterMap fun x => match x.1 with
    | .v r => some r
    | _ => none

/-- What an instruction's own meaning works on: the state; its context; the strand as it was (`o`), as its reads see it (`r`),
and as its writes start from (`w`: W marker applied, K frees done); the bytes to the next instruction in line (R136); and whether some
source is in the pending set. -/
structure Env where
  s    : State
  c    : CtxRef
  o    : Strand
  r    : Strand
  w    : Strand
  len  : Nat
  pend : Bool

/-- How an instruction's own meaning ends. -/
abbrev Res := Except Stop (State × Strand × Go)

/-- The check of R87 at the transferring instruction: the target page's tag must be the instruction's fetch domain; a page that
is not present parks with ACC 3 (R88); outside the device-paged region nothing is compared. -/
def State.transfer (s : State) (c : CtxRef) (t : Strand) (target : Word) : Except Stop Unit :=
  if target.toNat / 65536 = t.pc.toNat / 65536 || regionOf target != .paged then .ok ()
  else
    match s.xlate (udie c.unit) t.part target false t.wfaults with
    | .off => .ok ()
    | .ok l => if l.tag == t.dom then .ok () else .error (.trap cENTRY 4 target 0 0)
    | .miss => .error (s.stopAt c t target 4 3 false 0 .miss)
    | .absent f => .error (s.stopAt c t target 4 3 false 0 (.absent f false))
    | .poisoned => .error (.trap cPOISON 4 target 0 0)

/-- An access that the environment's strand makes, or how it stops the instruction. -/
def Env.access (e : Env) (va : Word) (size algn : Nat) (acc : Acc) (k : AKind) : Except Stop Place :=
  match e.s.check (who e.c e.o) va size algn acc k with
  | .ok p => .ok p
  | .error x => .error (e.s.stopAcc e.c e.o va acc x)

/-- A mail source whose NX differs from the strand's (R301). -/
def Strand.mailNx (t : Strand) (r : Reg) : Bool :=
  match r with
  | .m m => match t.mail[m] with
    | some x => x.nx != t.nx
    | none => false
  | _ => false

/-- The first mail source that is empty (R129). -/
def Strand.mailEmpty (t : Strand) (rs : List Reg) : Option (Fin 8) :=
  rs.findSome? fun r => match r with
    | .m m => if t.mail[m].isNone then some m else none
    | _ => none

/-- Consuming a deposit raises VTIME to its timestamp (R304). -/
def Strand.mailTime (t : Strand) (rs : List Reg) : Nat :=
  rs.foldl (fun v r => match r with
    | .m m => match t.mail[m] with
      | some x => max v x.ts
      | none => v
    | _ => v) t.vtime

/-- The vector register, of those that an instruction names, that a MOVA of the strand has still to write (R255). -/
def State.movaOn (s : State) (c : CtxRef) (t : Strand) (op : Op) : Option (Fin 32) :=
  op.vregs.find? fun v => (s.unit (homeOf c t).unit).movaBusy t.sid v

/-- The checks that every instruction makes before its own, in order, and what its meaning then works on (R98, R102, R104, R120, R121,
R129, R301, R318, R321, R334). The live-mask word of an S = 1 instruction that goes on in line is stepped over with it, so ENTRY and the
park of R87 and R88 at the instruction after it are taken here, before any effect: the model's reading of R105 (log 22). A register that a
long-latency instruction both frees and writes reads as zero where a pending read gives the old value (log 3). -/
def prep (op : Op) (s : State) (c : CtxRef) (o : Strand) : Except Stop Env :=
  let rs := op.srcs.map Prod.fst
  let len := op.h.after op.len
  if op.priv && o.dom != 0 then .error (.plain cPRIV)
  else if op.vec && o.handler.isSome then .error (.plain cILLEGAL)
  else if op.accs.any fun a => o.accs.length ≤ a.val then .error (.plain cILLEGAL)
  else if op.h.w && o.lates.any Late.awaited then .error (.hold s o .lates)
  else match s.movaOn c o op with
  | some v => .error (.hold s o (.command (.mova v)))
  | none =>
    let t := if op.h.w then o.settle else o
    if t.strict && rs.any t.pendingReg then .error (.plain cHAZARD)
    else
      match if op.falls then s.transfer c o (o.pc + BitVec.ofNat 64 len) else .ok () with
      | .error e => .error e
      | .ok _ =>
        match t.mailEmpty rs with
        | some m => .error (.hold s o (.mail m))
        | none =>
          if rs.any t.mailNx then .error (.plain cNXMISMATCH)
          else if rs.any t.poisonedReg then .error (.plain cPOISON)
          else
            let (r, ctr) := t.peekAll s.freeCtr rs
            let w := (op.srcs.filter Prod.snd).foldl (fun (t : Strand) x => t.free x.1) { t with vtime := t.mailTime rs }
            .ok ⟨{ s with freeCtr := ctr }, c, o, r, w, len, rs.any t.pendingReg⟩

/-! ### Traps (R317–R323) -/

/-- The lowest free guest slot of a kingpost: no strand holds it and no migration has taken it. -/
def State.freeGuest (s : State) (tile : Nat) : Option Nat :=
  let x := s.unit (.kp tile)
  let held := (x.strands.filter fun e => e.1 ≥ 4).map fun e => e.1 - 4
  let taken := (s.allStrands.filter fun e => utile e.1.unit == tile).filterMap fun e => e.2.gslot
  match leastFree (held ++ taken) 17 0 with
  | some k => if k < 16 then some k else none
  | none => none

/-- A strand of the tile whose trap was raised earlier is held because all guest slots are taken (R319). -/
def State.earlierTrap (s : State) (c : CtxRef) (ord : Nat) : Bool :=
  s.allStrands.any fun e => !isKp e.1.unit && utile e.1.unit == utile c.unit && e.1 != c && e.2.hold == some .guest &&
    (match e.2.trap with | some i => i.ord < ord | none => false)

/-- The 64 bytes of a trap record (R320). -/
def State.trapBytes (s : State) (c : CtxRef) (t : Strand) (i : TrapInfo) : List Byte :=
  let own := isKp c.unit
  let lcore := match c.unit with
    | .kp n => if c.ctx < 4 then n else t.lcore
    | .core _ => t.lcore
  bytesOf 8 (i.cause + i.acc * 2 ^ 8 + own.toNat * 2 ^ 12 + i.fdom.toNat * 2 ^ 16 + i.more * 2 ^ 24 + c.ctx * 2 ^ 32) ++
    bytesOf 8 i.pc.toNat ++ bytesOf 8 i.next.toNat ++ bytesOf 8 i.addr.toNat ++ bytesOf 8 i.lanes.toNat ++ bytesOf 8 i.info.toNat ++
    bytesOf 8 (lcore % 2 ^ 18 + t.launch * 2 ^ 18 + t.part * 2 ^ 32 + s.vfOf t.part * 2 ^ 38) ++ bytesOf 8 0

/-- The strand as its handler starts (R321): the handler window lies above the current one. -/
def Strand.handle (t : Strand) (i : TrapInfo) (recd pc : Word) : Strand :=
  let l := ((Vector.replicate 8 RegCell.freed).set 0 (.of (BitVec.ofNat 64 i.cause))).set 1 (.of recd)
  { t with
    wins := ⟨l, t.o⟩ :: t.wins, o := .replicate 8 .freed, depth := t.depth + 1, pc := pc, permit := true
    handler := some ⟨i.cause, i.pc, recd, t.depth + 1, t.crossings⟩, trap := none, hold := none, gslot := none, wfaults := []
    rem := [], res := none, arrived := none, limit := none, replay := none, seen := none, fetched := none }

/-- The migration of a trapped strand (R319), and the start of its handler (R321). -/
def State.migrating (s : State) (c : CtxRef) (t : Strand) (i : TrapInfo) : Except Stop State :=
  if !t.lates.isEmpty then .error (.hold s t .lates)
  else if t.matrixBusy then .error (.hold s t (.command .matrix))
  else do
    let (s, t) ← s.spillWindows c t 8
    let (s, t) ← s.spillRecs c t 16
    let (s, ok) := s.release c.unit t .tile
    if !ok then .error (.hold s t .trap)
    else
      let tile := utile c.unit
      let own := isKp c.unit
      let slot := if own then some 0 else match t.gslot with
        | some k => some k
        | none => if s.earlierTrap c i.ord then none else s.freeGuest tile
      match slot with
      | none => .error (.hold s t .guest)
      | some k =>
        let t := if own then t else { t with gslot := some k }
        let va := s.storeBase c t + 0xFFC0
        let s ← s.storeWrite c t va (s.trapBytes c t i) cWINDOW
        let h := t.handle i va ((s.tile tile).trapbase + BitVec.ofNat 64 (256 * i.cause))
        let s := s.fullInval (.kp tile)
        if own then return s.setStrand c h
        else
          return ((s.seenToo c.unit (.kp tile)).delStrand c).setStrand ⟨.kp tile, 4 + k⟩ { h with home := some c }

/-- A pending trap goes as far as it can (R319): the handler starts, or the strand waits or parks with its trap pending; a write
that finds no place for a handler ends the strand as a double trap. -/
def State.migrate (s : State) (c : CtxRef) : State :=
  match s.strand c with
  | none => s
  | some t =>
    match t.trap with
    | none => s
    | some i =>
      match s.migrating c t i with
      | .ok s => s
      | .error (.hold s t h) => s.setStrand c { t with hold := some (if h == .parked || h == .guest then h else .trap) }
      | .error _ => s.endHandled c t i.cause i.pc true

/-- A double trap (R321): the strand ends as under R323, and its launch's LSTAT.CODE becomes 0x03, once what the strand has issued is
performed (R267). -/
def State.doubleTrap (s : State) (c : CtxRef) : State :=
  match s.strand c with
  | none => s
  | some t =>
    match t.handler with
    | some h => if t.loading then s else s.endHandled c t h.cause h.pc true
    | none => s

/-- Taking a trap: ONE operation for every cause. The trap is pending at the strand's pc; in a handler window it is a double
trap, and otherwise the strand migrates to its kingpost (R319, R321). -/
def State.raise (s : State) (c : CtxRef) (t : Strand) (cause acc : Nat) (addr lanes info next : Word) (more : Nat) : State :=
  let (ord, s) := s.fresh
  let i : TrapInfo := ⟨cause, acc, t.dom, t.pc, next, addr, lanes, info, more, ord⟩
  let s := s.setStrand c { t with trap := some i, hold := some .trap, denied := none, fetched := none }
  if t.handler.isSome then s.doubleTrap c else s.migrate c

/-! ### Retiring -/

/-- Where the strand goes on after an instruction of `len` bytes. -/
def Go.next (g : Go) (pc : Word) (len : Nat) : Word :=
  match g with
  | .to a | .cross a => a
  | _ => pc + BitVec.ofNat 64 len

/-- The transfer passes R87 whatever the page's tag: XCALL and XCALLR after their own check, and XRET. -/
def Go.permits : Go → Bool
  | .cross _ => true
  | _ => false

/-- The strand after a completed instruction: at its continuation, with what belonged to the instruction gone; at a safe point
with a request pending it is to be saved (R105, R328), in a handler window too (log 23). -/
def Strand.retired (t : Strand) (h : Hd) (g : Go) (len : Nat) : Strand :=
  let pc := g.next t.pc len
  let save := h.live.isSome && t.preempt
  { t with
    pc := pc, permit := g.permits, hold := none, res := none, arrived := none, limit := none, replay := none, wfaults := [], rem := []
    saving := if save then some pc else none, mask := if save then h.live else none, seen := none, fetched := none }

/-- A completed instruction. -/
def State.retire (s : State) (c : CtxRef) (h : Hd) (t : Strand) (g : Go) (len : Nat) : State :=
  match g with
  | .gone => s
  | _ => s.setStrand c (t.retired h g len)

/-- How a stopped instruction leaves the state: a trap or a wait. -/
def State.stopped (s : State) (c : CtxRef) (o : Strand) (len : Nat) : Stop → State
  | .trap cause acc addr lanes info => s.raise c o cause acc addr lanes info (o.pc + BitVec.ofNat 64 len) 0
  | .trapAt s t cause acc addr lanes info more => s.raise c t cause acc addr lanes info (o.pc + BitVec.ofNat 64 len) more
  | .hold s t h => s.setStrand c { t with hold := some h }

/-- The line that the instruction at a strand's pc was fetched from. -/
def State.lineAt (s : State) (c : CtxRef) (t : Strand) : Option ILine :=
  match t.fetched with
  | some x => some x
  | none => (s.unit c.unit).ic.find? fun x => x.part == t.part && x.vline == t.pc.toNat / 64

/-- An instruction that has issued and waits keeps the bytes it was fetched with (R234); one that a full engine queue holds has not issued
(R117). -/
def Stop.issued (x : Stop) (l : Option ILine) : Stop :=
  match x with
  | .hold s t (.queue q) => .hold s t (.queue q)
  | .hold s t h => .hold s { t with fetched := l } h
  | x => x

/-- One instruction at the context that issues: the common checks, its own meaning, and how it ends. -/
def issue (op : Op) (body : Env → Res) (s : State) : Host.Outcome State Fault Refusal :=
  let s := { s with issuing := false }
  let c := s.cur
  match s.strand c with
  | none => .fault .noStrand
  | some o =>
    let len := op.h.after op.len
    .next (match prep op s c o with
      | .error x => s.stopped c o len x
      | .ok e =>
        match body e with
        | .error x => s.stopped c o len (x.issued (s.lineAt c o))
        | .ok (s, t, g) => s.retire c op.h t g len)

/-! ### Releases with the failures they report (R228, R283) -/

/-- Release (R228) of an instruction: it holds until it need not wait, and a SYS release raises a held failure (R283). -/
def Env.release (e : Env) (s : State) (sc : Scope) : Except Stop State :=
  let (s, ok) := s.release e.c.unit e.o sc
  if !ok then .error (.hold s e.o (.release sc))
  else
    match sc, e.o.fail with
    | .sys, some f => .error (.trapAt s { e.o with fail := none } f.cause f.acc f.va 0 0 (min (f.count - 1) 255))
    | _, _ => .ok s

/-! ### Return from a handler (R322) -/

/-- The lowest free context of a core. -/
def State.freeCtx (s : State) (u : UnitRef) : Option Nat :=
  let x := s.unit u
  match leastFree (x.strands.map Prod.fst) (nctx u + 1) 0 with
  | some k => if k < (if isKp u then 4 else 8) then some k else none
  | none => none

/-- A strand that has left its handler moves to a free context of its home core (R322); a kingpost's own goes on where it is. -/
def State.comeHome (s : State) (c : CtxRef) : State :=
  match s.strand c with
  | none => s
  | some t =>
    if !t.returning then s
    else
      match t.home with
      | none => (s.fullInval c.unit).setStrand c { t with returning := false, hold := none }
      | some h =>
        match s.freeCtx h.unit with
        | none => s
        | some k =>
          let s := ((s.seenToo c.unit h.unit).delStrand c).fullInval h.unit
          s.setStrand ⟨h.unit, k⟩ { t with returning := false, hold := none, home := none }

/-! ### Saving a strand (R147, R328–R330) -/

/-- A bit of a live-mask word, by its position in the word (R113). -/
def maskBit (m : BitVec 59) (b : Nat) : Bool := m.getLsbD (b - 2)

/-- The live-mask word of a mask. -/
def maskWord (m : BitVec 59) : Word := BitVec.ofNat 64 (m.toNat * 4 + 3)

/-- Bits of the pending or freed registers of a file. -/
def bitsOf (n : Nat) (f : Nat → Bool) : Nat := (List.range n).foldl (fun a i => a + (f i).toNat * 2 ^ i) 0

/-- A scalar cell by its specifier. -/
def Strand.sAt (t : Strand) (n : Nat) : RegCell 64 := t.sreg ⟨n % 32, Nat.mod_lt _ (by decide)⟩
/-- A vector cell by its number. -/
def Strand.vAt (t : Strand) (n : Nat) : RegCell 512 := t.v[n % 32]'(Nat.mod_lt _ (by decide))
/-- A mask cell by its number. -/
def Strand.kAt (t : Strand) (n : Nat) : RegCell 64 := t.k[n % 8]'(Nat.mod_lt _ (by decide))

/-- The deposits of an inbox that wait for a strand. -/
def waiting (x : CoreUnit) (sid : Nat) : List Deposit :=
  x.inbox.filterMap fun e => match e with
    | .dep d => if d.sid == some sid then some d else none
    | .msg _ => none

/-- The deposits that a save with a live mask stores: where the mask has ML, those that wait for the strand (R300). -/
def depsOf (x : CoreUnit) (t : Strand) (m : BitVec 59) : List Deposit := if maskBit m 59 then waiting x t.sid else []

/-- What the mark of a save keeps of a strand: of its mail and its deposits where the mask has ML, and the poison of the registers that it
names (R303, R304, R334); its number, and the lines that its unit has seen at home (R266). -/
def markOf (x : CoreUnit) (t : Strand) (m : BitVec 59) (seen : List Nat) : RestoreMark where
  born := t.born
  mail := if maskBit m 59 then (List.range 8).filterMap fun n => (t.mail.toList.getD n none).map fun y => (n, y.nx, y.ts) else []
  deps := (depsOf x t m).map fun d => ⟨d.ts, d.key, d.born, d.seq⟩
  spois := BitVec.ofNat 32 (bitsOf 32 fun n => (t.sAt n).poison)
  vpois := BitVec.ofNat 32 (bitsOf 32 fun n => (t.vAt n).poison)
  kpois := BitVec.ofNat 8 (bitsOf 8 fun n => (t.kAt n).poison)
  sid := t.sid
  seen := seen

/-- UNACK and the held failure of a strand that is saved stay with its number, and go back to it when it is restored (R282, R283). -/
def State.keepUnacked (s : State) (t : Strand) : State :=
  if t.unack = 0 && t.fail.isNone then s else { s with unacked := NMap.set s.unacked t.sid ⟨t.unack, 0, t.fail⟩ }

/-- The parts of the save area (R330), by offset. `kind` and `mort` are KIND and the mortise, `keep` KEEP. -/
def saveParts (x : CoreUnit) (t : Strand) (m : BitVec 59) (pc : Word) (keep : Bool) (kind mort : Nat) :
    List (Nat × List Byte) :=
  let deps := depsOf x t m
  let pend := bitsOf 32 (fun n => n != 0 && (t.sAt n).pend) + bitsOf 32 (fun n => (t.vAt n).pend) * 2 ^ 32
  let full := bitsOf 8 fun n => (t.mail.toList.getD n none).isSome
  let freed := bitsOf 32 (fun n => n != 0 && (t.sAt n).val.isNone) + bitsOf 32 (fun n => (t.vAt n).val.isNone) * 2 ^ 32
  let kfreed := bitsOf 8 fun n => n != 0 && (t.kAt n).val.isNone
  let head := bytesOf 8 (maskWord m).toNat ++ bytesOf 8 pc.toNat ++
    bytesOf 8 (t.nx.toNat + t.fflags.toNat * 2 + t.strict.toNat * 2 ^ 6 + keep.toNat * 2 ^ 7 + t.store % 32 * 2 ^ 8 +
      t.depth % 512 * 2 ^ 13 + t.crossings % 512 * 2 ^ 22 + kind * 2 ^ 31 + mort * 2 ^ 33) ++
    bytesOf 8 t.vtime ++ bytesOf 8 pend ++ bytesOf 8 (deps.length % 128 + full * 2 ^ 8 + t.caller.toNat * 2 ^ 16) ++
    bytesOf 8 freed ++ bytesOf 8 kfreed ++ bytesOf 192 0
  let scal := ((List.range 32).filter fun n => n != 0 && maskBit m (2 + n)).map fun n => (0x100 + 8 * n, bytesOf 8 (t.rdS ⟨n % 32, Nat.mod_lt _ (by decide)⟩).toNat)
  let ks := if maskBit m 58 then [(0x200, bytesOf 8 0 ++ (List.range 7).flatMap fun n => bytesOf 8 (t.kAt (n + 1)).read.toNat)] else []
  let ms := if maskBit m 59 then
      [(0x240, t.mail.toList.flatMap fun x => bytesOf 8 (match x with | some y => y.word.toNat | none => 0))] else []
  let hs := if maskBit m 60 then
      [(0x280, t.staged.toList.flatMap fun h => bytesOf 8 (graftWords h).1.toNat ++ bytesOf 8 (graftWords h).2.toNat)] else []
  let ds := (List.range deps.length).map fun i => match deps[i]? with
    | some d => (0x400 + 32 * i, bytesOf 8 d.word.toNat ++ bytesOf 8 (d.mreg.val + d.nx.toNat * 8) ++ bytesOf 8 d.ts ++ bytesOf 8 0)
    | none => (0x400 + 32 * i, [])
  let vs := ((List.range 32).filter fun n => maskBit m (34 + n / 2)).map fun n => (0xC00 + 64 * n, bytesOf 64 (t.vAt n).read.toNat)
  let accs := ((List.range t.accs.length).filter fun n => maskBit m (50 + n)).map fun n =>
    (0x1400 + 4096 * n, bytesOf 4096 (NMap.getD x.acc (t.accs.getD n 8) 0).toNat)
  [(0, head)] ++ scal ++ ks ++ ms ++ hs ++ ds ++ vs ++ accs

/-- Write bytes at a VA by domain-0 rights, page by page (R331); a failure is RIGHTS, a page that is not present parks. -/
def State.zeroWrite (s : State) (c : CtxRef) (t : Strand) (va : Word) (bs : List Byte) : Nat → Except Stop State
  | 0 => .ok s
  | fuel + 1 =>
    if bs.isEmpty then .ok s
    else
      let n := 65536 - va.toNat % 65536
      match s.zeroPlace (who c t) va .write with
      | .ok (_, pa) => do
        let s ← s.whenReady c t pa (bs.take n).length true
        State.zeroWrite (s.devWrite c.unit t.part [t.sid] pa (bs.take n)) c t (va + BitVec.ofNat 64 n) (bs.drop n) fuel
      | .error e => .error (s.stopAcc c t va .write e)

/-- Read bytes at a VA by domain-0 rights, page by page (R331). -/
def State.zeroRead (s : State) (c : CtxRef) (t : Strand) (va : Word) (n : Nat) : Nat → Except Stop (State × List Byte)
  | 0 => .ok (s, [])
  | fuel + 1 =>
    if n = 0 then .ok (s, [])
    else
      let k := min n (65536 - va.toNat % 65536)
      match s.zeroPlace (who c t) va .read with
      | .ok (_, pa) => do
        let s ← s.whenReady c t pa k false
        let (s, bs, bad) := s.devRead c.unit t.part pa k
        if bad then .error (.trap cPOISON 1 va 0 0)
        else
          let (s, rest) ← State.zeroRead s c t (va + BitVec.ofNat 64 k) (n - k) fuel
          return (s, bs ++ rest)
      | .error e => .error (s.stopAcc c t va .read e)

/-- Write the parts of a save area at a VA. -/
def State.saveAt (s : State) (c : CtxRef) (t : Strand) (f : Word) : List (Nat × List Byte) → Except Stop State
  | [] => .ok s
  | (o, bs) :: ps => do
    let s ← s.zeroWrite c t (f + BitVec.ofNat 64 o) bs 3
    State.saveAt s c t f ps

/-- A PKG release of the device on a strand's behalf (R147, R328): what it waits for. -/
def State.quiet (s : State) (c : CtxRef) (t : Strand) : State × Bool :=
  let (s, ok) := s.release c.unit t .pkg
  (s, ok && t.lates.isEmpty && !t.cmdBusy)

/-- KIND and the mortise of a save (R329). -/
def Strand.saveKind (t : Strand) : Nat × Nat :=
  match t.kind, t.cap with
  | .handler, _ => (1, 0)
  | .stop, some k => (2, k.mort.val)
  | _, _ => (0, 0)

/-- The lowest free save slot of a tile. -/
def State.freeSave (s : State) (tile : Nat) : Option Nat :=
  match leastFree (s.tile tile).saves 257 0 with
  | some k => if k < 256 then some k else none
  | none => none

/-- The physical address of a save slot (R328). -/
def State.saveSlot (s : State) (tile k : Nat) : Nat :=
  (s.die (tile / 8)).savebase.toNat + 0xA0_0000 * (tile % 8) + 0xA000 * k

/-- The save at a safe point (R328, R329), as far as it can go: it waits for results, commands, stores, a slot and the slot's lines; a
spill that finds its page absent parks the strand, and one that fails its permission is the trap WINDOW. The slot's record keeps the
PLACE that the strand started with where R328 gives no other; in a DET launch it goes back to the core that it left (R83, log 56). -/
def State.safePoint (s : State) (c : CtxRef) : State :=
  match s.strand c with
  | none => s
  | some t =>
    match t.saving, t.mask with
    | some pc, some m =>
      let (s, ok) := s.quiet c t
      let home := (homeOf c t).unit
      let tile := utile c.unit
      match ok && !t.returning, s.freeSave tile with
      | true, some k =>
        match s.devReady c.unit (s.saveSlot tile k) 0xA000 true with
        | (s, false) => s
        | (s, true) =>
        let keep := t.depth != 0 || t.crossings != 0
        let below : Except Stop (State × Strand) := if !keep then .ok (s, t) else
          match t.wins with
          | w :: ws => do
            let back (x : Stop) : Stop := match x with
              | .hold s t1 h => .hold s { t1 with wins := w :: t1.wins.tail } h
              | x => x
            let (s, t1) ← (s.spillWindows c { t with wins := Window.freed :: ws } 8).mapError back
            let (s, t1) ← (s.spillRecs c t1 16).mapError back
            return (s, { t1 with wins := [w] })
          | [] => .ok (s, t)
        match below with
        | .error (.hold s t h) => s.setStrand c { t with hold := some h }
        | .error _ => s.raise c { t with saving := none, mask := none } cWINDOW 0 0 0 0 t.pc 0
        | .ok (s, t) =>
          let x := s.unit home
          let (kind, mort) := t.saveKind
          let slot := s.saveSlot tile k
          let parts := saveParts x t m pc keep kind mort
          let s := parts.foldl (fun s p => s.homeWriteBytes (some t.part) [] (slot + p.1) p.2 40) s
          let place := if keep || t.kind == .handler || t.kind == .stop then t.lcore else ctlPlace t.ctl
          let ctl := if t.kind == .handler || t.kind == .stop then ctlOf t.launch t.lcore t.prio else ctlOf (ctlLaunch t.ctl) place (ctlPrio t.ctl)
          let ctl := if ctlLaunch ctl = 0 then ctlWithLaunch ctl t.launch else ctl
          let ra := slot + 0x9FE0
          let s := s.homeWriteBytes (some t.part) [] ra (bytesOf 8 0 ++ bytesOf 8 pc.toNat ++ bytesOf 8 slot ++ bytesOf 8 ctl.toNat) 2
          let s := s.modTile tile fun x => { x with saves := x.saves ++ [k] }
          let s := s.modUnit home fun x =>
            let x := dropDeposits x t.sid
            let x := if keep then { x with kept := NMap.set x.kept t.store t.spillPend } else x
            match t.cap with
            | some h => match x.mort[h.mort] with
              | some k => { x with mort := x.mort.set h.mort (some { k with use := .saved }) }
              | none => x
            | none => x
          let s := ({ s with marks := NMap.set s.marks (ra / 32) (markOf x t m (s.seenLines c.unit)) } : State).keepUnacked t
          let s := (s.delStrand c).dropFaults t.sid
          let s := s.modLaunch t.launch fun l => { l with csig := l.csig ||| t.wsig }
          let route (w : Word) : QueueRef := match s.isDet t.launch, home with
            | true, .core p => .core p
            | _, _ => s.routeOf t.part tile (BitVec.ofNat 64 ra) w
          s.pushTo route t.part t.launch t.vtime ra (BitVec.ofNat 64 ra) pc (BitVec.ofNat 64 slot) ctl
            (some ⟨tile, k, t.kind, if kind = 2 then t.pos else none, if keep then some (ukey home, t.store) else none⟩) (some ⟨lineOf ra, 0, 0, true⟩)
      | _, _ => s
    | _, _ => s

end Sys2Proof.Machine
end

