-- ==== Sys2Proof/Machine/Fetch.lean ====
section
/-! DEFINITION. Fetching an instruction (R84–R89, R99, R100): the instruction cache, the checks in their order, the checks a new
strand makes before its first instruction (R41), and the restore of a saved one (R331, R371). -/
namespace Sys2Proof.Machine

/-- An instruction word is a GATE with every other field zero (R142). -/
def gateWord : Nat := 0xC0

/-- The state after IsGate's read at a gate's address, and what is found there: it is read through the die's L2 and not through an
instruction cache (log 22), and nothing is read where the address is not aligned or the page's X is 0 (R142). -/
def State.gateRead (s : State) (u : UnitRef) (p : Nat) (l : Leaf) (va : Word) : State × Option (Hit × Nat) :=
  if va.toNat % 64 = 0 && l.x then
    let (s, d, hit) := s.dieRead p u (lineOf (leafAddr l va)) l.repl
    (s, some (hit, lineGet d (leafAddr l va % 128) 8))
  else (s, none)

/-- IsGate (R142): X = 1, 64-byte aligned, and the word there is a GATE. -/
def State.isGate (s : State) (u : UnitRef) (p : Nat) (l : Leaf) (va : Word) : Bool := (s.gateRead u p l va).2 == some (.ok, gateWord)

/-- IsGate has to read a line that is poisoned or another slot's: the access takes POISON (R223, R334). -/
def State.gatePoison (s : State) (u : UnitRef) (p : Nat) (l : Leaf) (va : Word) : Bool :=
  match (s.gateRead u p l va).2 with
  | some (hit, _) => hit != .ok
  | none => false

/-- The instruction-cache line of an address, from the cache, or read from the L2 through the page's translation. Where its bytes are
poisoned, the checks of X and of R87 come first (R84). -/
def State.fetchLine (s : State) (c : CtxRef) (t : Strand) (pc : Word) : Except Stop (State × ILine) :=
  let u := s.unit c.unit
  let vl := pc.toNat / 64
  match u.ic.find? fun x => x.part == t.part && x.vline == vl with
  | some x => .ok (s, x)
  | none =>
    match s.xlate (udie c.unit) t.part pc false t.wfaults with
    | .off => .error (.trap cRIGHTS 4 pc 0 0)
    | .miss => .error (s.stopAt c t pc 4 3 false 0 .miss)
    | .absent f => .error (s.stopAt c t pc 4 3 false 0 (.absent f false))
    | .poisoned => .error (.trap cPOISON 4 pc 0 0)
    | .ok l =>
      let pa := leafAddr l pc
      if !paBacked pa then .error (.trap cRIGHTS 4 pc 0 0)
      else
        let (s, d, hit) := s.dieRead t.part c.unit (lineOf pa) l.repl
        if hit != .ok then
          let cause := if !l.x then cRIGHTS else if !t.permit && l.tag != t.dom then cENTRY else cPOISON
          .error (.trapAt s { t with dom := l.tag } cause 4 pc 0 0 0)
        else
          let x : ILine := ⟨t.part, vl, l.tag, l.x, BitVec.ofNat 512 (lineGet d (pa % 128 / 64 * 64) 64)⟩
          .ok (s.modUnit c.unit fun u => { u with ic := (x :: u.ic).take 1024 }, x)

/-- The line of the instruction at a strand's pc: the one that it was fetched from, where it has issued (R234). -/
def State.lineFor (s : State) (c : CtxRef) (t : Strand) : Except Stop (State × ILine) :=
  match t.fetched with
  | some x => .ok (s, x)
  | none => s.fetchLine c t t.pc

/-! ### Restore (R331, R371) -/

/-- Read bytes of a save area: at a VA by domain-0 rights, or at a physical address. -/
def State.areaRead (s : State) (c : CtxRef) (t : Strand) (phys : Bool) (f : Word) (o n : Nat) : Except Stop (State × List Byte) :=
  if phys then do
    let s ← s.whenReady c t (f.toNat + o) n false
    let (s, bs, bad) := s.devRead c.unit t.part (f.toNat + o) n
    if bad then .error (.trap cPOISON 1 (f + BitVec.ofNat 64 o) 0 0) else .ok (s, bs)
  else s.zeroRead c t (f + BitVec.ofNat 64 o) n 3

/-- The crossing records of a kept store, from the innermost: j counts down. `k` is the strand with that store. -/
def State.restoreFrames (s : State) (c : CtxRef) (t k : Strand) : Nat → Except Stop (State × List Frame)
  | 0 => .ok (s, [])
  | j + 1 => do
    let (s, bs) ← s.storeRead c t (s.recAddr c k j) 136 cRIGHTS
    let r := CrossRec.ofBytes bs (k.recPoison j)
    let (s, fs) ← State.restoreFrames s c t k j
    return (s, ⟨r.staged, r.dom, r.base⟩ :: fs)

/-- A cell restored over what R42 set up: named by the mask it has the saved word and poison, or is freed as it was. -/
def RegCell.restored {n : Nat} (x : RegCell n) (named freed pend poison : Bool) (v : Nat) : RegCell n :=
  if !named then x else if freed then .freed else ⟨some (BitVec.ofNat n v), pend, none, poison⟩

/-- A word of a list of bytes, at an offset. -/
def wordAt (bs : List Byte) (o : Nat) : Nat := natOfBytes ((bs.drop o).take 8)

/-- The saved accumulators that the mask names, with the position's that each goes into (R371). -/
def State.restoreAcc (s : State) (c : CtxRef) (t : Strand) (phys : Bool) (f : Word) (m : Nat) :
    Nat → Except Stop (State × List (Nat × AccData))
  | 0 => .ok (s, [])
  | n + 1 => do
    let (s, as) ← State.restoreAcc s c t phys f m n
    if m / 2 ^ (50 + n) % 2 == 0 then return (s, as)
    else
      let (s, bs) ← s.areaRead c t phys f (0x1400 + 4096 * n) 4096
      return (s, as ++ [(t.accs.getD n 8, BitVec.ofNat 32768 (natOfBytes bs))])

/-- The restore of a save area over the strand as R42 set it up (R331, R371), with what its mark keeps beside it. Everything is read before
anything of the strand changes, so a park or a trap leaves it as R42 set it up. The waiting deposits come
back in their order, before what has arrived for the strand since; they wait until the inbox has room for them (R298), and enter it as
deposits do (R345). The active graft sets lie in the crossing records of a kept store and come back with them whatever HL is: the model's
choice (log 23). -/
def State.restore (s : State) (c : CtxRef) (t : Strand) (phys : Bool) (f : Word) : Except Stop (State × Strand) := do
  let (s, a) ← s.areaRead c t phys f 0 0x300
  let m := wordAt a 0
  let st := wordAt a 0x10
  let pend := wordAt a 0x20
  let w28 := wordAt a 0x28
  let fr := wordAt a 0x30
  let kfr := wordAt a 0x38
  let bit (x n : Nat) : Bool := x / 2 ^ n % 2 == 1
  let ndep := w28 % 128
  if 64 < (s.unit c.unit).inbox.length + ndep then .error (.hold s t (.inbox ndep))
  let (s, deps) ← s.areaRead c t phys f 0x400 (32 * ndep)
  let (s, vs) ← s.areaRead c t phys f 0xC00 2048
  let (s, as) ← s.restoreAcc c t phys f m t.accs.length
  let keep := bit st 7
  let kept := { t with store := st / 2 ^ 8 % 32, spillPend := NMap.getD (s.unit c.unit).kept (st / 2 ^ 8 % 32) [] }
  let (s, fs) ← if keep then s.restoreFrames c t kept (st / 2 ^ 22 % 512) else .ok (s, [])
  let mk : RestoreMark := t.mark.getD ⟨t.born, [], [], 0, 0, 0, t.sid, []⟩
  let sc (x : RegCell 64) (n : Nat) : RegCell 64 :=
    x.restored (bit m (2 + n)) (bit fr n) (bit pend n) (mk.spois.getLsbD n) (wordAt a (0x100 + 8 * n))
  let nx := bit st 0
  let t := { t with
    g := (Vector.ofFn fun i => sc t.g[i] i.val).set 0 .freed
    o := Vector.ofFn fun i => sc t.o[i] (8 + i.val)
    wins := [⟨Vector.ofFn fun i => sc t.win.l[i] (16 + i.val), Vector.ofFn fun i => sc t.win.i[i] (24 + i.val)⟩]
    v := Vector.ofFn fun i => t.v[i].restored (bit m (34 + i.val / 2)) (bit fr (32 + i.val)) (bit pend (32 + i.val)) (mk.vpois.getLsbD i.val)
      (natOfBytes ((vs.drop (64 * i.val)).take 64))
    k := Vector.ofFn fun i => t.k[i].restored (bit m 58) (bit kfr i.val) false (mk.kpois.getLsbD i.val) (wordAt a (0x200 + 8 * i.val))
    mail := Vector.ofFn fun i =>
      if bit m 59 && bit w28 (8 + i.val) then
        let (mnx, ts) := NMap.getD mk.mail i.val (nx, 0)
        some ⟨BitVec.ofNat 64 (wordAt a (0x240 + 8 * i.val)), mnx, ts⟩
      else none
    staged := Vector.ofFn fun j =>
      if bit m 60 then graftOf (wordAt a (0x288 + 16 * j.val) / 2 ^ 56 % 4 != 0) (BitVec.ofNat 64 (wordAt a (0x280 + 16 * j.val)))
        (BitVec.ofNat 64 (wordAt a (0x288 + 16 * j.val))) else none
    nx := nx
    fflags := BitVec.ofNat 5 (st / 2)
    strict := bit st 6
    vtime := max t.vtime (wordAt a 0x18)
    depth := st / 2 ^ 13 % 512
    caller := BitVec.ofNat 8 (w28 / 2 ^ 16)
    store := if keep then kept.store else t.store
    spillPend := if keep then kept.spillPend else t.spillPend
    frames := fs }
  let back : List InboxEntry := (List.range ndep).map fun i =>
    let w := wordAt deps (32 * i + 8)
    let by_ := mk.deps.getD i ⟨0, 0, 0, i⟩
    .dep ⟨t.startNo + 1 + i, ⟨w % 8, Nat.mod_lt _ (by decide)⟩, c.ctx, BitVec.ofNat 64 (wordAt deps (32 * i)), bit w 3, wordAt deps (32 * i + 16),
      by_.key, by_.born, by_.seq, t.launch, some t.sid⟩
  let s := s.modUnit c.unit fun u => { u with
    acc := as.foldl (fun m a => NMap.set m a.1 a.2) u.acc
    inbox := back ++ u.inbox
    kept := if keep then NMap.del u.kept t.store else u.kept }
  let s := if ndep = 0 then s else s.wakeUnit c.unit
  if st / 2 ^ 31 % 4 = 2 then
    let mi : Fin 2 := if bit st 33 then 1 else 0
    let u := s.unit c.unit
    match u.mort[mi] with
    | some k =>
      let pfx := mortBytes c.unit u mi 0 256
      let stop := natOfBytes ((pfx.drop 0x19).take 1)
      let s := s.setUnit c.unit { u with mort := u.mort.set mi (some { k with use := .running t.sid }) }
      return (s, { t with cap := some ⟨mi, stop⟩, capId := BitVec.ofNat 64 (wordAt pfx 0) })
    | none => return (s, t)
  else return (s, t)

/-- The checks and the restore that a new strand makes before its first instruction (R41, R331): the page's tag against the
entry domain, which is the strand's CALLER; a service strand's entry domain is the page's own (R79). The trap of an earlier check
names the tag of the code pointer's page where that page is present. -/
def State.begin_ (s : State) (c : CtxRef) (t : Strand) (b : Start) : Except Stop (State × Strand) := do
  let refuse (s : State) (t : Strand) : Except Stop (State × Strand) := match b.bad with
    | some (cause, acc, addr) => .error (.trapAt s { t with start := none } cause acc addr 0 0 0)
    | none => .ok (s, t)
  let (s, t) ← if !b.entry then .ok (s, t) else if regionOf t.pc != .paged then refuse s t else
    match s.xlate (udie c.unit) t.part t.pc false t.wfaults with
    | .off => refuse s t
    | .miss => .error (s.stopAt c t t.pc 4 3 false 0 .miss)
    | .absent f => if b.bad.isSome then refuse s t else .error (s.stopAt c t t.pc 4 3 false 0 (.absent f false))
    | .poisoned => if b.bad.isSome then refuse s t else .error (.trapAt s { t with start := none } cPOISON 4 t.pc 0 0 0)
    | .ok l =>
      if b.bad.isSome then refuse s { t with dom := l.tag, caller := if t.kind == .service then l.tag else t.caller }
      else if t.kind == .service then .ok (s, { t with dom := l.tag, caller := l.tag })
      else
        let ask := l.tag != t.caller
        let read := if ask then (s.gateRead c.unit t.part l t.pc).1 else s
        if ask && s.gatePoison c.unit t.part l t.pc then .error (.trapAt read { t with dom := l.tag, start := none } cPOISON 4 t.pc 0 0 0)
        else if ask && !s.isGate c.unit t.part l t.pc then .error (.trapAt read { t with dom := l.tag, start := none } cENTRY 4 t.pc 0 0 0)
        else
        let s := read
        let s := match t.kind, t.cap with
          | .stop, some k => s.modUnit c.unit fun u => match u.mort[k.mort] with
            | some m => { u with mort := u.mort.set k.mort (some { m with tag := l.tag }) }
            | none => u
          | _, _ => s
        .ok (s, { t with dom := l.tag })
  match b.restore with
  | none => return (s, { t with start := none })
  | some f =>
    let t := { t with start := some ⟨false, none, some f, b.phys⟩ }
    let (s, t) ← match s.restore c t b.phys f with
      | .error (.trap cause acc addr lanes info) => .error (.trapAt s { t with start := none, mark := none } cause acc addr lanes info 0)
      | r => r
    let s := match t.slot with
      | some (tile, k) => s.modTile tile fun x => { x with saves := x.saves.filter (· != k) }
      | none => s
    return (s, { t with start := none, slot := none, mark := none })

/-! ### The issue of one instruction -/

/-- What the fetch at the issuing context comes to: nothing to do, a state in which the strand has stopped, or an instruction. -/
inductive Fetched where
  | idle
  | stop (s : State)
  | run (s : State) (i : Instr)

/-- The fetch checks of R84 at the strand's pc, in order, as far as each can be made before the bytes are read (no instruction is
shorter than 8 bytes), and then decode (R115). A fault denied for an earlier attempt raises RIGHTS here (R326). A trap of these checks has NEXT = PC (R320), but for
those of decode, whose length is the measure of R100. Once its page is known, the instruction's fetch domain is the page's tag (R85). An
instruction that has issued and waits goes on with the bytes it was fetched with (R234). -/
def State.fetch (s : State) : Fetched :=
  let c := s.cur
  match s.strand c with
  | none => .idle
  | some t =>
    let at_ (s : State) (t : Strand) (e : Stop) : Fetched := .stop (match e with
      | .trap cause acc addr lanes info => ({ s with issuing := false } : State).raise c { t with start := none } cause acc addr lanes info t.pc 0
      | .trapAt s t cause acc addr lanes info more => ({ s with issuing := false } : State).raise c t cause acc addr lanes info t.pc more
      | .hold s t h => ({ s with issuing := false } : State).setStrand c { t with hold := some h })
    let away : Bool := match t.denied with
      | some d => d.1 == 4 && d.2.1 == t.pc || t.start.isSome
      | none => false
    match if away then t.denied else none with
    | some d => at_ s t (.trap cRIGHTS d.1 d.2.1 d.2.2 0)
    | none =>
      match (match t.start with | some b => s.begin_ c t b | none => .ok (s, t)) with
      | .error e => at_ s t e
      | .ok (s, t) =>
        if t.pc.toNat % 4 != 0 || t.pc.toNat % 32 > 24 then at_ s t (.trap cFETCHALIGN 4 t.pc 0 0)
        else if regionOf t.pc != .paged then at_ s t (.trap cRIGHTS 4 t.pc 0 0)
        else
          match s.lineFor c t with
          | .error e => at_ s t e
          | .ok (s, x) =>
            let o := t.pc.toNat % 32
            let v := x.data.toNat / 2 ^ (8 * (t.pc.toNat % 64)) % 2 ^ (8 * (32 - o))
            let n := measure (BitVec.ofNat 64 v)
            let away := !t.permit && x.tag != t.dom
            let t := { t with dom := x.tag }
            if 32 < o + n then at_ s t (.trap cFETCHALIGN 4 t.pc 0 0)
            else if !x.x then at_ s t (.trap cRIGHTS 4 t.pc 0 0)
            else if away then at_ s t (.trap cENTRY 4 t.pc 0 0)
            else
              let t := { t with permit := true }
              let next := t.pc + BitVec.ofNat 64 n
              match t.denied with
              | some d => .stop (({ s with issuing := false } : State).raise c t cRIGHTS d.1 d.2.1 d.2.2 0 next 0)
              | none =>
                match decode (natToBytes (32 - o) v) with
                | .error _ => .stop (({ s with issuing := false } : State).raise c t cILLEGAL 0 0 0 0 next 0)
                | .ok (i, _) => .run (s.setStrand c t) i

/-! ### The choice of issue (R117) -/

/-- Section n of a unit is what a command has reached. -/
def Reached.isSect (r : Reached) (u n : Nat) : Bool :=
  match r with
  | .sect v m _ _ _ => v == u && m == n
  | .page _ => false

/-- A running copy command has reached section n of a unit, and so has been checked against it (R92, R342). -/
def CoreUnit.copyOn (x : CoreUnit) (u n : Nat) : Bool := x.chan.any fun c => c.cmd.isSome && c.at_.any fun r => r.isSect u n

/-- Engine commands that have been checked against section n of a unit are under way (R342). -/
def State.sectBusy (s : State) (u n : Nat) : Bool :=
  (s.unit (uref u)).matrixOn (65536 * n) 65536 || s.units.any (fun e => e.2.copyOn u n) ||
    s.retires.any fun e => e.2.at_.any fun r => r.isSect u n

/-- What a strand waits for of the engines is not there yet (R249, R250, R255, R262). -/
def State.stillWaits (s : State) (c : CtxRef) (t : Strand) (w : CmdWait) : Bool :=
  let x := s.unit (homeOf c t).unit
  match w with
  | .matrix => t.matrixLive
  | .all => t.cmdBusy
  | .mova v => x.movaBusy t.sid v
  | .copy ch upto => !(t.reports.any fun r => r.ch == ch) && (match t.newest ch with
    | some k => k.st == .live && !x.chan[ch].reached k.id upto
    | none => false)
  | .cites n => t.cmds.any fun k => k.cites == some n && k.st == .live
  | .bytes off n => x.matrixAt t.sid off n
  | .section_ u n => s.sectBusy u n

/-- A strand is still held (R117). -/
def State.stillHeld (s : State) (c : CtxRef) (t : Strand) : Bool :=
  match t.hold with
  | none => false
  | some h => match h with
    | .lates => t.lates.any Late.awaited
    | .mail r => t.mail[r].isNone
    | .walk id => (NMap.find s.walks id).isSome || (NMap.find s.atsReqs id).isSome
    | .parked => true
    | .remote => t.rem.any (·.reply.isNone)
    | .acquire => t.acq.isSome
    | .barrier => t.res.isNone
    | .timed w => t.res.isNone && (match w with | some (u, k) => t.seen.isNone && !fullBit (s.unit (uref u)) k | none => t.rem.any (·.reply.isNone))
    | .idle u k safe => t.res.isNone && !(s.unit (uref u)).wake.contains k && !(safe && t.preempt)
    | .fullBit u k => t.seen.isNone && !fullBit (s.unit (uref u)) k
    | .trap | .guest => true
    | .command w => s.stillWaits c t w
    | .queue .matrix => 2 ≤ (s.unit (homeOf c t).unit).mq.length
    | .queue .copy => 2 ≤ (s.unit (homeOf c t).unit).cq.length
    | .sbFull => 32 ≤ (s.unit c.unit).sb.length
    | .release sc => !(s.release c.unit t sc).2
    | .inbox n => 64 < (s.unit (homeOf c t).unit).inbox.length + n
    | .host a n => s.hostPending t.sid a n || t.loadingAt true a n
    | .home line => s.pushHeld line || t.loadingAt false (128 * line) 128 || s.snoops.any (·.line == line) ||
        s.homeReqs.any fun r => r.2.sid == t.sid && lineOf r.2.pa == line
    | .port => s.ownLate (homeOf c t).unit

/-- A partition is STOPPED, and what is not a service strand's of it stands still (R79, R355). -/
def State.stands (s : State) (p : Nat) (service : Bool) : Bool := !service && (s.part p).tstate == 2

/-- The state of a context with a strand (R117, R369): nothing of a partition that is STOPPED issues but a service strand (R79, R355). -/
def State.ctxState (s : State) (c : CtxRef) (t : Strand) : CtxState :=
  if t.trap.isSome then .trapped
  else if t.saving.isSome then .saving
  else if t.returning then .returning
  else if t.acq.isSome then .held .acquire
  else match if s.stillHeld c t then t.hold else none with
    | some h => .held h
    | none => if s.stands t.part (t.kind == .service) then .stopped else .runs

/-- The strand may issue. -/
def State.issuable (s : State) (c : CtxRef) (t : Strand) : Bool :=
  t.trap.isNone && t.saving.isNone && !t.returning && t.acq.isNone && !s.stillHeld c t &&
    !s.stands t.part (t.kind == .service)

/-- The contexts of a unit in the order in which they are considered, after the one that issued last. -/
def ctxOrder (u : UnitRef) (last : Nat) : List Nat := (List.range (nctx u)).map fun i => (last + 1 + i) % nctx u

/-- The context of a unit that issues next (R117). -/
def State.pick (s : State) (u : UnitRef) : Option Nat :=
  let x := s.unit u
  (ctxOrder u x.last).find? fun k => match NMap.find x.strands k with
    | some t => s.issuable ⟨u, k⟩ t
    | none => false

end Sys2Proof.Machine
end

