-- ==== Sys2Proof/Machine/Control.lean ====
section
/-! DEFINITION. Class 0 (R134–R149): branches, jumps, calls and returns, crossings, the end of a strand, YIELD, deliberate traps,
GRAFT, and the live-mask word reached as an instruction. -/
namespace Sys2Proof.Machine

/-! ### Transfers (R135, R136) -/

/-- Cond (R106). -/
def condOf (c : Cond) (a b : Word) : Bool :=
  match c with
  | .eq => a == b
  | .ne => a != b
  | .lt => a.slt b
  | .ge => !a.slt b
  | .ltu => a.ult b
  | .geu => !a.ult b

/-- A PC-relative target of a 12-bit offset. -/
def Env.rel12 (e : Env) (off : BitVec 12) : Word := e.o.pc + imm12 off * 4
/-- A PC-relative target of a 32-bit offset. -/
def Env.rel32 (e : Env) (off : BitVec 32) : Word := e.o.pc + imm32 off * 4
/-- The return address (R136). -/
def Env.ret (e : Env) : Word := e.o.pc + BitVec.ofNat 64 e.len

/-- A transfer to a target under R87; one formed from a register must be aligned (R135). -/
def Env.jumpOk (e : Env) (target : Word) : Except Stop Unit :=
  if target.toNat % 4 != 0 then .error (.trap cFETCHALIGN 4 target 0 0) else e.s.transfer e.c e.o target

/-- A transfer with no other effect. -/
def Env.jump (e : Env) (target : Word) : Res := do
  e.jumpOk target
  return (e.s, e.w, .to target)

/-- A branch that is not taken goes on in line, under the fall-through rule of R87. -/
def Env.fall (e : Env) : Res := do
  e.s.transfer e.c e.o e.ret
  return (e.s, e.w, .seq)

/-- NOP (R148). -/
def execNop (h : Hd) (s : State) : Host.Outcome State Fault Refusal := issue (op h 8 []) (fun e => .ok (e.s, e.w, .seq)) s

/-- A live-mask word reached as an instruction: a NOP of 8 bytes (R113). -/
def execLiveMaskWord (_bits : BitVec 59) (s : State) : Host.Outcome State Fault Refusal :=
  issue (op ⟨false, none⟩ 8 []) (fun e => .ok (e.s, e.w, .seq)) s

/-- BR (R137). -/
def execBr (h : Hd) (c : Cond) (a b : SSrc) (off : BitVec 12) (s : State) : Host.Outcome State Fault Refusal :=
  issue (opJ h 8 (SSrc.src a ++ SSrc.src b))
    (fun e => if condOf c (e.r.gS a) (e.r.gS b) then e.jump (e.rel12 off) else e.fall) s

/-- BRI (R137). -/
def execBri (h : Hd) (c : Cond) (a : SSrc) (imm : BitVec 12) (off : BitVec 32) (s : State) :
    Host.Outcome State Fault Refusal :=
  issue (opJ h 12 (SSrc.src a)) (fun e => if condOf c (e.r.gS a) (imm12 imm) then e.jump (e.rel32 off) else e.fall) s

/-- The tests of BK (R137). -/
def bkOf (t : BkTest) (a b : Word) : Bool :=
  match t with
  | .any => (a &&& b) != 0
  | .all => (a &&& b) == b
  | .none => (a &&& b) == 0

/-- BK (R137). -/
def execBk (h : Hd) (t : BkTest) (a b : KSrc) (off : BitVec 12) (s : State) : Host.Outcome State Fault Refusal :=
  issue (opJ h 8 (KSrc.src a ++ KSrc.src b))
    (fun e => if bkOf t (e.r.gK a) (e.r.gK b) then e.jump (e.rel12 off) else e.fall) s

/-- JMP (R138). -/
def execJmp (h : Hd) (off : BitVec 32) (s : State) : Host.Outcome State Fault Refusal :=
  issue (opJ h 12 []) (fun e => e.jump (e.rel32 off)) s

/-- JMPR (R138). -/
def execJmpr (h : Hd) (a : SSrc) (off : BitVec 12) (s : State) : Host.Outcome State Fault Refusal :=
  issue (opJ h 8 (SSrc.src a)) (fun e => e.jump (e.r.gS a + imm12 off)) s

/-- The steps of a call to a target (R139). -/
def Env.call (e : Env) (target : Word) : Res := do
  e.jumpOk target
  if e.o.depth + e.o.crossings ≥ 480 then .error (.plain cWINDOW)
  else
    let (s, t) ← (e.s.slide e.c (e.w.wrS 15 e.ret)).mapError (Stop.keeping e.o)
    return (s, t, .to target)

/-- CALL (R139). -/
def execCall (h : Hd) (off : BitVec 32) (s : State) : Host.Outcome State Fault Refusal :=
  issue (opJ h 12 []) (fun e => e.call (e.rel32 off)) s

/-- CALLR (R139). -/
def execCallr (h : Hd) (a : SSrc) (off : BitVec 12) (s : State) : Host.Outcome State Fault Refusal :=
  issue (opJ h 8 (SSrc.src a)) (fun e => e.call (e.r.gS a + imm12 off)) s

/-- The lowest depth to which a RET may not return: the base of the innermost crossing, or the handler window (R127, R321). -/
def Strand.floor (t : Strand) : Nat :=
  match t.handler with
  | some h => match t.frames with
    | f :: _ => if h.cross < t.crossings then f.base else h.depth
    | [] => h.depth
  | none => match t.frames with
    | f :: _ => f.base
    | [] => 0

/-- RET (R140). -/
def execRet (h : Hd) (s : State) : Host.Outcome State Fault Refusal :=
  issue (opJ h 8 [(.s 31, false)]) (fun e => do
    if e.o.depth == 0 || e.o.depth == e.o.floor then .error (.plain cWINDOW)
    else
      let target := e.r.rdS 31
      e.jumpOk target
      let (s, t) ← (e.s.slideBack e.c e.w).mapError (Stop.keeping e.o)
      return (s, t, .to target)) s

/-! ### Crossings (R141–R145) -/

/-- The target of a crossing is a gate (R87, R142); its page must be present (R88). The state after the gate's line has been read. -/
def Env.gateOk (e : Env) (target : Word) : Except Stop State :=
  let entry : Stop := .trap cENTRY 4 target 0 0
  if target.toNat % 4 != 0 then .error (.trap cFETCHALIGN 4 target 0 0)
  else if target.toNat % 64 != 0 || regionOf target != .paged then .error entry
  else
    match e.s.xlate (udie e.c.unit) e.o.part target false e.o.wfaults with
    | .off => .error entry
    | .ok l =>
      let read := (e.s.gateRead e.c.unit e.o.part l target).1
      if e.s.gatePoison e.c.unit e.o.part l target then .error (.trapAt read e.o cPOISON 4 target 0 0 0)
      else if e.s.isGate e.c.unit e.o.part l target then .ok read else .error (.trapAt read e.o cENTRY 4 target 0 0 0)
    | .miss => .error (e.s.stopAt e.c e.o target 4 3 false 0 .miss)
    | .absent f => .error (e.s.stopAt e.c e.o target 4 3 false 0 (.absent f false))
    | .poisoned => .error (.trap cPOISON 4 target 0 0)

/-- A crossing to a target (R142). The words of g1–g7 saved for a register that is pending are its old value or its result, as for
any read of it (R121). -/
def Env.xcall (e : Env) (target : Word) : Res := do
  let g ← e.gateOk target
  if e.o.depth + e.o.crossings ≥ 479 then .error (.plain cCROSSING)
  else
    let (seen, ctr) := e.w.peekAll g.freeCtr [.s 1, .s 2, .s 3, .s 4, .s 5, .s 6, .s 7]
    let s := { g with freeCtr := ctr }
    let r : CrossRec := ⟨e.ret, e.o.dom, e.o.depth + 1, seen.g, e.w.staged⟩
    let (s, t) ← (if e.w.recs.length ≥ 16 then s.spillRec e.c e.w else .ok (s, e.w)).mapError (Stop.keeping e.o)
    let (s, t) ← (s.slide e.c t).mapError (Stop.keeping e.o)
    return (s, { t with
      recs := r :: t.recs, g := .replicate 8 .freed, frames := ⟨r.staged, r.dom, r.base⟩ :: t.frames
      staged := .replicate 4 none, caller := r.dom }, .cross target)

/-- XCALL (R142). -/
def execXcall (h : Hd) (off : BitVec 32) (s : State) : Host.Outcome State Fault Refusal :=
  issue (opJ h 12 []) (fun e => e.xcall (e.rel32 off)) s

/-- XCALLR (R142). -/
def execXcallr (h : Hd) (a : SSrc) (off : BitVec 12) (s : State) : Host.Outcome State Fault Refusal :=
  issue (opJ h 8 (SSrc.src a)) (fun e => e.xcall (e.r.gS a + imm12 off)) s

/-- The trap that a report of a stopped command raises (R93, R258, R320). -/
def reportTrap (r : Report) : Nat × Word :=
  (if r.err = cPOISON then cPOISON else cENGINE, BitVec.ofNat 64 (r.ch.val + r.err * 2 ^ 8))

/-- Remove the first report that meets a condition. -/
def dropReport (f : Report → Bool) : List Report → List Report
  | [] => []
  | r :: rs => if f r then rs else r :: dropReport f rs

/-- The strand returns from its innermost crossing, whose record is `x` (R144). -/
def State.leave (s : State) (c : CtxRef) (t : Strand) (x : CrossRec) : Except Stop (State × Strand) := do
  let over_ := t.depth - x.base
  let (s, t) ← if over_ < t.wins.length then .ok (s, { t with wins := t.wins.drop over_, depth := x.base })
    else (s.fillWindow c t x.base).map fun p => (p.1, { t with wins := [p.2], depth := x.base })
  let (s, t) ← s.slideBack c t
  let outer := t.frames.tail
  let caller := match outer with
    | f :: _ => f.grantor
    | [] => match s.launch t.launch with
      | some l => l.edom
      | none => x.dom
  return (s, { t with
    g := x.g.map RegCell.settle, staged := x.staged, recs := t.recs.tail, frames := outer, caller := caller
    spillPend := t.spillPend.filter fun p => p.1 < x.base - 1 || recEntry (t.crossings - 1) < p.1 })

/-- XRET (R93, R144). -/
def execXret (h : Hd) (s : State) : Host.Outcome State Fault Refusal :=
  issue (opJ h 8 []) (fun e => do
    let n := e.o.crossings
    let opened := match e.o.handler with
      | some k => k.cross
      | none => 0
    if n ≤ opened then .error (.plain cCROSSING)
    else
      let (s, x) ← e.s.innermost e.c e.o
      if e.o.cmds.any fun k => k.cites == some n && k.st == .live then .error (.hold s e.o (.command (.cites n)))
      else
        match e.o.reports.find? fun r => r.cites == some n with
        | some r =>
          let (cause, info) := reportTrap r
          .error (.trapAt s { e.o with reports := dropReport (fun r => r.cites == some n) e.o.reports } cause 0 0 0 info 0)
        | none =>
          let (s, t) ← (s.leave e.c e.w x).mapError (Stop.keeping e.o)
          return (s, t, .cross x.ret)) s

/-- GATE has no effect when executed (R143). -/
def execGate (h : Hd) (s : State) : Host.Outcome State Fault Refusal := issue (op h 8 []) (fun e => .ok (e.s, e.w, .seq)) s

/-- GRAFT (R145). -/
def execGraft (h : Hd) (d : Fin 4) (a b : SSrc) (rights : BitVec 2) (s : State) : Host.Outcome State Fault Refusal :=
  issue (op h 8 (SSrc.src a ++ SSrc.src b)) (fun e =>
    let base := e.r.gS a
    let len := min (e.r.gS b).toNat (2 ^ 55 - base.toNat)
    let g : Option Graft := if rights = 0 then none else some ⟨base, len, rights⟩
    .ok (e.s, { e.w with staged := e.w.staged.set d g }, .seq)) s

/-! ### Ending and yielding (R146, R147) -/

/-- ENDS (R146, R283, R323): a strand that still holds its capsule raises CAPSULE, unless a handler ends it. The end waits until
the strand's stores are performed, UNACK is zero and its matrix commands are complete (log 11). -/
def execEnds (h : Hd) (s : State) : Host.Outcome State Fault Refusal :=
  issue (opJ h 8 []) (fun e => do
    if e.o.cap.isSome && e.o.handler.isNone then .error (.plain cCAPSULE)
    else
      let s ← e.release e.s .sys
      if e.o.matrixBusy then .error (.hold s e.o (.command .matrix))
      else
        match e.o.handler with
        | some k => return (s.endHandled e.c e.o k.cause k.pc false, e.w, .gone)
        | none => return (s.endStrand e.c e.o, e.w, .gone)) s

/-- The first part of YIELD (R147, R330): the save at FRAME, and then what the record takes of the strand. -/
def Env.yieldSave (e : Env) (h : Hd) (p : Word) (pa : Nat) : Except Stop State := do
  let t := e.o
  let s ← e.s.whenReady e.c t pa 32 true
  let (s, fb, bad) := s.devRead e.c.unit t.part (pa + 0x10) 8
  if bad then .error (.trap cPOISON 3 p 0 0)
  let f := BitVec.ofNat 64 (natOfBytes fb)
  let s ← s.saveAt e.c t f (saveParts (s.unit e.c.unit) e.w (h.live.getD 0) e.ret false 0 0)
  let s ← s.whenReady e.c t pa 32 true
  let s := s.devWrite e.c.unit t.part [t.sid] (pa + 8) (bytesOf 8 e.ret.toNat)
  let (s, cb, _) := s.devRead e.c.unit t.part (pa + 0x18) 8
  let ctl := BitVec.ofNat 64 (natOfBytes cb)
  return if ctlLaunch ctl = 0 then s.devWrite e.c.unit t.part [t.sid] (pa + 0x18) (bytesOf 8 (ctlWithLaunch ctl t.launch).toNat) else s

/-- The last part of YIELD (R147, R79, R331): the add at the home, with the strand's release and the restore mark; the strand is gone
from its context, and a sum of zero pushes the record. -/
def Env.yieldAdd (e : Env) (s : State) (p : Word) (pa : Nat) (sync : Bool) (m : BitVec 59) (cnt : Word) (rec0 : List Byte) : State :=
  let t := e.o
  let w (o : Nat) : Word := BitVec.ofNat 64 (natOfBytes ((rec0.drop o).take 8))
  let v := w 0 + cnt
  let s := s.devWrite e.c.unit t.part [t.sid] pa (bytesOf 8 v.toNat)
  let s := s.atHome t.part (lineOf pa) (sigStore t pa).wsig sync
  let s := ({ s with marks := NMap.set s.marks (pa / 32) (markOf (s.unit e.c.unit) e.w m (s.seenLines e.c.unit)) } : State).keepUnacked t
  let s := (s.modUnit e.c.unit fun x => dropDeposits x t.sid).delStrand e.c
  let s := s.dropFaults t.sid
  if v = 0 then
    s.pushRecord t.part (utile e.c.unit) t.launch t.vtime pa p (w 8) (w 16) (w 24) none (some (s.acqInfo (lineOf pa) sync))
  else s

/-- YIELD (R147). `res` holds that the save and the record writes are done, and for how many waiting deposits, while the release waits for
them: nothing lands meanwhile, and a deposit that arrives to wait is saved too (R129, R300). -/
def execYield (h : Hd) (a : SSrc) (b : SB) (s : State) : Host.Outcome State Fault Refusal :=
  issue (opJ h 8 (SSrc.src a ++ SB.src b)) (fun e => do
    let t := e.o
    if t.kind == .service then .error (.plain cILLEGAL)
    else if t.depth != 0 then .error (.plain cWINDOW)
    else if t.crossings != 0 then .error (.plain cCROSSING)
    else if t.cap.isSome then .error (.plain cCAPSULE)
    else
      let p := e.r.gS a
      match ← e.access p 32 32 .both .adec with
      | .mem l pa =>
        if !t.lates.isEmpty then .error (.hold e.s t .lates)
        else if t.cmdBusy then .error (.hold e.s t (.command .all))
        else
          let n := (depsOf (e.s.unit e.c.unit) t (h.live.getD 0)).length
          let s ← if t.res == some n then .ok e.s else e.yieldSave h p pa
          let done := { t with res := some n }
          let (s, ok) := s.release e.c.unit t .pkg
          if !ok then .error (.hold s done (.release .pkg))
          else
            let s ← s.whenReady e.c done pa 32 true
            let (s, rec0, bad) := s.devRead e.c.unit t.part pa 32
            if bad then .error (.trap cPOISON 3 p 0 0)
            else return (e.yieldAdd s p pa l.sync (h.live.getD 0) (e.r.gSB b) rec0, e.w, .gone)
      | _ => .error (.trap cRIGHTS 3 p 0 0)) s

/-! ### Deliberate traps (R148) -/

/-- TRAP (R148). -/
def execTrap (h : Hd) (imm : BitVec 12) (s : State) : Host.Outcome State Fault Refusal :=
  issue (opJ h 8 []) (fun _ => .error (.trap 0x10 0 0 0 (imm12 imm))) s

/-- SVC (R148). -/
def execSvc (h : Hd) (imm : BitVec 12) (s : State) : Host.Outcome State Fault Refusal :=
  issue (opJ h 8 []) (fun _ => .error (.trap 0x11 0 0 0 (imm12 imm))) s

/-- BKPT (R148). -/
def execBkpt (h : Hd) (imm : BitVec 12) (s : State) : Host.Outcome State Fault Refusal :=
  issue (opJ h 8 []) (fun _ => .error (.trap 0x12 0 0 0 (imm12 imm))) s

end Sys2Proof.Machine
end

