-- ==== Sys2Proof/Machine/Integer.lean ====
section
/-! DEFINITION. Class 1 (R150–R154): scalar integer and address arithmetic over scalar and mail registers. -/
namespace Sys2Proof.Machine

/-! ### The functions of R150–R152, on w-bit operands as natural numbers below 2^w -/

/-- Signed reading of a w-bit number. -/
def sgn (w a : Nat) : Int := if a < 2 ^ (w - 1) then a else (a : Int) - 2 ^ w
/-- The w-bit number of an integer. -/
def uns (w : Nat) (x : Int) : Nat := (x % (2 ^ w : Int)).toNat

/-- ADD. -/
def fnAdd (w a b : Nat) : Nat := (a + b) % 2 ^ w
/-- SUB. -/
def fnSub (w a b : Nat) : Nat := (a + (2 ^ w - b)) % 2 ^ w
/-- MUL. -/
def fnMul (w a b : Nat) : Nat := a * b % 2 ^ w
/-- MULH: floor(sa × sb / 2^w) mod 2^w. -/
def fnMulh (w a b : Nat) : Nat := uns w (Int.fdiv (sgn w a * sgn w b) (2 ^ w))
/-- MULHU. -/
def fnMulhu (w a b : Nat) : Nat := a * b / 2 ^ w
/-- DIV (R151). -/
def fnDiv (w a b : Nat) : Nat := if b = 0 then 2 ^ w - 1 else uns w (Int.tdiv (sgn w a) (sgn w b))
/-- DIVU (R151). -/
def fnDivu (w a b : Nat) : Nat := if b = 0 then 2 ^ w - 1 else a / b
/-- REM (R151). -/
def fnRem (w a b : Nat) : Nat := if b = 0 then a else uns w (Int.tmod (sgn w a) (sgn w b))
/-- REMU (R151). -/
def fnRemu (_w a b : Nat) : Nat := if b = 0 then a else a % b
/-- AND. -/
def fnAnd (_w a b : Nat) : Nat := a &&& b
/-- OR. -/
def fnOr (_w a b : Nat) : Nat := a ||| b
/-- XOR. -/
def fnXor (_w a b : Nat) : Nat := a ^^^ b
/-- ANDN. -/
def fnAndn (w a b : Nat) : Nat := a &&& (2 ^ w - 1 - b)
/-- SHL. -/
def fnShl (w a b : Nat) : Nat := a * 2 ^ (b % w) % 2 ^ w
/-- SHR. -/
def fnShr (w a b : Nat) : Nat := a / 2 ^ (b % w)
/-- SAR. -/
def fnSar (w a b : Nat) : Nat := uns w (Int.fdiv (sgn w a) (2 ^ (b % w)))
/-- ROL. -/
def fnRol (w a b : Nat) : Nat := a * 2 ^ (b % w) % 2 ^ w + a / 2 ^ (w - b % w)
/-- MIN. -/
def fnMin (w a b : Nat) : Nat := if sgn w a ≤ sgn w b then a else b
/-- MAX. -/
def fnMax (w a b : Nat) : Nat := if sgn w a ≤ sgn w b then b else a
/-- MINU. -/
def fnMinu (_w a b : Nat) : Nat := min a b
/-- MAXU. -/
def fnMaxu (_w a b : Nat) : Nat := max a b
/-- SET: Cond on w-bit operands (R106). -/
def fnSet (c : Cond) (w a b : Nat) : Nat :=
  (match c with
    | .eq => decide (a = b) | .ne => decide (a ≠ b)
    | .lt => decide (sgn w a < sgn w b) | .ge => decide (sgn w b ≤ sgn w a)
    | .ltu => decide (a < b) | .geu => decide (b ≤ a)).toNat
/-- Number of 1 bits of a below bit w. -/
def fnPopc (w a : Nat) : Nat := popcount w a
/-- Leading zeros of a, counted down from bit w − 1. -/
def fnClz : Nat → Nat → Nat
  | 0, _ => 0
  | w + 1, a => if a / 2 ^ w % 2 = 1 then 0 else 1 + fnClz w a
/-- Trailing zeros of a; `w` when there is none below bit w. -/
def fnCtz (w a : Nat) : Nat :=
  match (List.range w).find? fun i => a / 2 ^ i % 2 == 1 with
  | some i => i
  | none => w
/-- BSWAP: the w/8 bytes in reverse order. -/
def fnBswap (w a : Nat) : Nat := natOfBytes (bytesOf (w / 8) a).reverse

/-- Position and length of a field specifier, cut at the top bit (R152). -/
def fieldOf (w sp : Nat) : Nat × Nat :=
  let p := sp % 64
  (p, min (sp / 64 % 64 + 1) (w - p))
/-- EXTU (R152). -/
def fnExtu (w a sp : Nat) : Nat :=
  let (p, l) := fieldOf w sp
  a / 2 ^ p % 2 ^ l
/-- EXT (R152). -/
def fnExt (w a sp : Nat) : Nat :=
  let (p, l) := fieldOf w sp
  if l = 0 then 0 else uns w (sgn l (a / 2 ^ p % 2 ^ l))
/-- INS (R152): c with the field replaced. -/
def fnIns (w a sp c : Nat) : Nat :=
  let (p, l) := fieldOf w sp
  c % 2 ^ p + a % 2 ^ l * 2 ^ p + c / 2 ^ (p + l) * 2 ^ (p + l)

/-! ### The common form (R150) -/

/-- w, the operation width. -/
def wOf (w32 : Bool) : Nat := if w32 then 32 else 64

/-- The low w bits of a word. -/
def lowBits (w : Nat) (x : Word) : Nat := x.toNat % 2 ^ w

/-- SExt(r, w). -/
def widen (w : Nat) (r : Nat) : Word := BitVec.ofInt 64 (sgn w (r % 2 ^ w))

/-- The result of a two-operand operation. -/
def intResult (f : Nat → Nat → Nat → Nat) (w32 : Bool) (a b : Word) : Word :=
  widen (wOf w32) (f (wOf w32) (lowBits (wOf w32) a) (lowBits (wOf w32) b))

/-- A two-operand class-1 instruction. -/
def intOp2 (f : Nat → Nat → Nat → Nat) (h : Hd) (w32 : Bool) (d : IDst) (a : ISrc) (b : IB) (s : State) :
    Host.Outcome State Fault Refusal :=
  issue (op h 8 (ISrc.src a ++ IB.src b)) (fun e => .ok (e.s, e.w.wI d (intResult f w32 (e.r.gI a) (e.r.gIB b)), .seq)) s

/-- A one-operand class-1 instruction. -/
def intOp1 (f : Nat → Nat → Nat) (h : Hd) (w32 : Bool) (d : IDst) (a : ISrc) (s : State) :
    Host.Outcome State Fault Refusal :=
  issue (op h 8 (ISrc.src a)) (fun e => .ok (e.s, e.w.wI d (intResult (fun w a _ => f w a) w32 (e.r.gI a) 0), .seq)) s

/-- ADD (R150). -/
def execAdd (h : Hd) (w32 : Bool) (d : IDst) (a : ISrc) (b : IB) (s : State) : Host.Outcome State Fault Refusal :=
  intOp2 fnAdd h w32 d a b s

/-- SUB (R150). -/
def execSub (h : Hd) (w32 : Bool) (d : IDst) (a : ISrc) (b : IB) (s : State) : Host.Outcome State Fault Refusal :=
  intOp2 fnSub h w32 d a b s

/-- MUL (R150). -/
def execMul (h : Hd) (w32 : Bool) (d : IDst) (a : ISrc) (b : IB) (s : State) : Host.Outcome State Fault Refusal :=
  intOp2 fnMul h w32 d a b s

/-- MULH (R150). -/
def execMulh (h : Hd) (w32 : Bool) (d : IDst) (a : ISrc) (b : IB) (s : State) : Host.Outcome State Fault Refusal :=
  intOp2 fnMulh h w32 d a b s

/-- MULHU (R150). -/
def execMulhu (h : Hd) (w32 : Bool) (d : IDst) (a : ISrc) (b : IB) (s : State) : Host.Outcome State Fault Refusal :=
  intOp2 fnMulhu h w32 d a b s

/-- DIV (R151). -/
def execDiv (h : Hd) (w32 : Bool) (d : IDst) (a : ISrc) (b : IB) (s : State) : Host.Outcome State Fault Refusal :=
  intOp2 fnDiv h w32 d a b s

/-- DIVU (R151). -/
def execDivu (h : Hd) (w32 : Bool) (d : IDst) (a : ISrc) (b : IB) (s : State) : Host.Outcome State Fault Refusal :=
  intOp2 fnDivu h w32 d a b s

/-- REM (R151). -/
def execRem (h : Hd) (w32 : Bool) (d : IDst) (a : ISrc) (b : IB) (s : State) : Host.Outcome State Fault Refusal :=
  intOp2 fnRem h w32 d a b s

/-- REMU (R151). -/
def execRemu (h : Hd) (w32 : Bool) (d : IDst) (a : ISrc) (b : IB) (s : State) : Host.Outcome State Fault Refusal :=
  intOp2 fnRemu h w32 d a b s

/-- AND (R150). -/
def execAnd (h : Hd) (w32 : Bool) (d : IDst) (a : ISrc) (b : IB) (s : State) : Host.Outcome State Fault Refusal :=
  intOp2 fnAnd h w32 d a b s

/-- OR (R150). -/
def execOr (h : Hd) (w32 : Bool) (d : IDst) (a : ISrc) (b : IB) (s : State) : Host.Outcome State Fault Refusal :=
  intOp2 fnOr h w32 d a b s

/-- XOR (R150). -/
def execXor (h : Hd) (w32 : Bool) (d : IDst) (a : ISrc) (b : IB) (s : State) : Host.Outcome State Fault Refusal :=
  intOp2 fnXor h w32 d a b s

/-- ANDN (R150). -/
def execAndn (h : Hd) (w32 : Bool) (d : IDst) (a : ISrc) (b : IB) (s : State) : Host.Outcome State Fault Refusal :=
  intOp2 fnAndn h w32 d a b s

/-- SHL (R150). -/
def execShl (h : Hd) (w32 : Bool) (d : IDst) (a : ISrc) (b : IB) (s : State) : Host.Outcome State Fault Refusal :=
  intOp2 fnShl h w32 d a b s

/-- SHR (R150). -/
def execShr (h : Hd) (w32 : Bool) (d : IDst) (a : ISrc) (b : IB) (s : State) : Host.Outcome State Fault Refusal :=
  intOp2 fnShr h w32 d a b s

/-- SAR (R150). -/
def execSar (h : Hd) (w32 : Bool) (d : IDst) (a : ISrc) (b : IB) (s : State) : Host.Outcome State Fault Refusal :=
  intOp2 fnSar h w32 d a b s

/-- ROL (R150). -/
def execRol (h : Hd) (w32 : Bool) (d : IDst) (a : ISrc) (b : IB) (s : State) : Host.Outcome State Fault Refusal :=
  intOp2 fnRol h w32 d a b s

/-- MIN (R150). -/
def execMin (h : Hd) (w32 : Bool) (d : IDst) (a : ISrc) (b : IB) (s : State) : Host.Outcome State Fault Refusal :=
  intOp2 fnMin h w32 d a b s

/-- MAX (R150). -/
def execMax (h : Hd) (w32 : Bool) (d : IDst) (a : ISrc) (b : IB) (s : State) : Host.Outcome State Fault Refusal :=
  intOp2 fnMax h w32 d a b s

/-- MINU (R150). -/
def execMinu (h : Hd) (w32 : Bool) (d : IDst) (a : ISrc) (b : IB) (s : State) : Host.Outcome State Fault Refusal :=
  intOp2 fnMinu h w32 d a b s

/-- MAXU (R150). -/
def execMaxu (h : Hd) (w32 : Bool) (d : IDst) (a : ISrc) (b : IB) (s : State) : Host.Outcome State Fault Refusal :=
  intOp2 fnMaxu h w32 d a b s

/-- EXT (R152). -/
def execExt (h : Hd) (w32 : Bool) (d : IDst) (a : ISrc) (b : IB) (s : State) : Host.Outcome State Fault Refusal :=
  intOp2 fnExt h w32 d a b s

/-- EXTU (R152). -/
def execExtu (h : Hd) (w32 : Bool) (d : IDst) (a : ISrc) (b : IB) (s : State) : Host.Outcome State Fault Refusal :=
  intOp2 fnExtu h w32 d a b s

/-- CLZ (R150). -/
def execClz (h : Hd) (w32 : Bool) (d : IDst) (a : ISrc) (s : State) : Host.Outcome State Fault Refusal :=
  intOp1 fnClz h w32 d a s

/-- CTZ (R150). -/
def execCtz (h : Hd) (w32 : Bool) (d : IDst) (a : ISrc) (s : State) : Host.Outcome State Fault Refusal :=
  intOp1 fnCtz h w32 d a s

/-- POPC (R150). -/
def execPopc (h : Hd) (w32 : Bool) (d : IDst) (a : ISrc) (s : State) : Host.Outcome State Fault Refusal :=
  intOp1 fnPopc h w32 d a s

/-- BSWAP (R150). -/
def execBswap (h : Hd) (w32 : Bool) (d : IDst) (a : ISrc) (s : State) : Host.Outcome State Fault Refusal :=
  intOp1 fnBswap h w32 d a s

/-- SET (R150). -/
def execSet (h : Hd) (c : Cond) (w32 : Bool) (d : IDst) (a : ISrc) (b : IB) (s : State) : Host.Outcome State Fault Refusal :=
  intOp2 (fnSet c) h w32 d a b s

/-- SEL (R150): a if Src(C) ≠ 0, tested on all 64 bits, else b. -/
def execSel (h : Hd) (w32 : Bool) (d : IDst) (a : ISrc) (b : IB) (c : SSrc) (s : State) : Host.Outcome State Fault Refusal :=
  issue (op h 8 (ISrc.src a ++ IB.src b ++ SSrc.src c)) (fun e =>
    .ok (e.s, e.w.wI d (intResult (fun _ x y => if e.r.gS c ≠ 0 then x else y) w32 (e.r.gI a) (e.r.gIB b)), .seq)) s

/-- INS (R152): C is the base value. -/
def execIns (h : Hd) (w32 : Bool) (d : IDst) (a : ISrc) (b : IB) (c : SSrc) (s : State) : Host.Outcome State Fault Refusal :=
  issue (op h 8 (ISrc.src a ++ IB.src b ++ SSrc.src c)) (fun e =>
    .ok (e.s, e.w.wI d (intResult (fun w x sp => fnIns w x sp (lowBits w (e.r.gS c))) w32 (e.r.gI a) (e.r.gIB b)), .seq)) s

/-- LEA (R153). -/
def execLea (h : Hd) (d : IDst) (a b : ISrc) (sh : BitVec 3) (s : State) : Host.Outcome State Fault Refusal :=
  issue (op h 8 (ISrc.src a ++ ISrc.src b)) (fun e =>
    .ok (e.s, e.w.wI d (e.r.gI a + e.r.gI b * BitVec.ofNat 64 (2 ^ sh.toNat)), .seq)) s

/-- LI with IMM32 (R154). -/
def execLi (h : Hd) (d : IDst) (imm : BitVec 32) (s : State) : Host.Outcome State Fault Refusal :=
  issue (op h 12 []) (fun e => .ok (e.s, e.w.wI d (imm32 imm), .seq)) s

/-- LI with IMM64 (R154). -/
def execLiX (h : Hd) (d : IDst) (imm : BitVec 64) (s : State) : Host.Outcome State Fault Refusal :=
  issue (op h 16 []) (fun e => .ok (e.s, e.w.wI d imm, .seq)) s

end Sys2Proof.Machine
end

