-- ==== Sys2Proof/Machine/Float.lean ====
section
/-! DEFINITION. Class 2 (R176–R181): floating-point arithmetic on scalar registers. -/
namespace Sys2Proof.Machine

/-! ### The common form (R176) -/

/-- The operand of a format: the low bits of its register. -/
def fOperand (f : Fmt) (x : Word) : Nat := x.toNat % 2 ^ f.width

/-- A short floating-point result, zero-extended, with its flags (R176, R170). -/
def Env.fDone (e : Env) (d : Fin 32) (r : FRes) : Res :=
  .ok (e.s, { e.w.wrS d (BitVec.ofNat 64 r.bits) with fflags := e.w.fflags ||| r.flags }, .seq)

/-- A long-latency floating-point result (R119, R194). -/
def Env.fLater (e : Env) (d : Fin 32) (r : FRes) : Res :=
  let (s, t) := e.s.longS e.w d (BitVec.ofNat 64 r.bits) r.flags
  .ok (s, t, .seq)

/-- A class-2 instruction of one operand. -/
def fOp1 (f : Fmt) (g : Nat → FRes) (h : Hd) (d : Fin 32) (a : SSrc) (s : State) : Host.Outcome State Fault Refusal :=
  issue (op h 8 (SSrc.src a)) (fun e => e.fDone d (g (fOperand f (e.r.gS a)))) s

/-- A class-2 instruction of two operands. -/
def fOp2 (f : Fmt) (g : Nat → Nat → FRes) (h : Hd) (d : Fin 32) (a b : SSrc) (s : State) : Host.Outcome State Fault Refusal :=
  issue (op h 8 (SSrc.src a ++ SSrc.src b)) (fun e => e.fDone d (g (fOperand f (e.r.gS a)) (fOperand f (e.r.gS b)))) s

/-- A class-2 instruction of three operands. -/
def fOp3 (f : Fmt) (g : Nat → Nat → Nat → FRes) (h : Hd) (d : Fin 32) (a b c : SSrc) (s : State) :
    Host.Outcome State Fault Refusal :=
  issue (op h 8 (SSrc.src a ++ SSrc.src b ++ SSrc.src c))
    (fun e => e.fDone d (g (fOperand f (e.r.gS a)) (fOperand f (e.r.gS b)) (fOperand f (e.r.gS c)))) s

/-- FADD (R177). -/
def execFadd (h : Hd) (f : FFmt) (m : Rnd) (d : Fin 32) (a b : SSrc) (s : State) : Host.Outcome State Fault Refusal :=
  fOp2 (fmtOfF f) ((fmtOfF f).add m) h d a b s

/-- FSUB (R177). -/
def execFsub (h : Hd) (f : FFmt) (m : Rnd) (d : Fin 32) (a b : SSrc) (s : State) : Host.Outcome State Fault Refusal :=
  fOp2 (fmtOfF f) ((fmtOfF f).sub m) h d a b s

/-- FMUL (R177). -/
def execFmul (h : Hd) (f : FFmt) (m : Rnd) (d : Fin 32) (a b : SSrc) (s : State) : Host.Outcome State Fault Refusal :=
  fOp2 (fmtOfF f) ((fmtOfF f).mul m) h d a b s

/-- FMA (R177). -/
def execFma (h : Hd) (f : FFmt) (m : Rnd) (d : Fin 32) (a b c : SSrc) (s : State) : Host.Outcome State Fault Refusal :=
  fOp3 (fmtOfF f) ((fmtOfF f).fma m false) h d a b c s

/-- FNMS (R177): c − a × b. -/
def execFnms (h : Hd) (f : FFmt) (m : Rnd) (d : Fin 32) (a b c : SSrc) (s : State) : Host.Outcome State Fault Refusal :=
  fOp3 (fmtOfF f) ((fmtOfF f).fma m true) h d a b c s

/-- FDIV (R177): long-latency. -/
def execFdiv (h : Hd) (f : FFmt) (m : Rnd) (d : Fin 32) (a b : SSrc) (s : State) : Host.Outcome State Fault Refusal :=
  issue (op h 8 (SSrc.src a ++ SSrc.src b))
    (fun e => e.fLater d ((fmtOfF f).div m (fOperand (fmtOfF f) (e.r.gS a)) (fOperand (fmtOfF f) (e.r.gS b)))) s

/-- FSQRT (R177): long-latency. -/
def execFsqrt (h : Hd) (f : FFmt) (m : Rnd) (d : Fin 32) (a : SSrc) (s : State) : Host.Outcome State Fault Refusal :=
  issue (op h 8 (SSrc.src a)) (fun e => e.fLater d ((fmtOfF f).sqrt m (fOperand (fmtOfF f) (e.r.gS a)))) s

/-- FMIN (R178). -/
def execFmin (h : Hd) (f : FFmt) (d : Fin 32) (a b : SSrc) (s : State) : Host.Outcome State Fault Refusal :=
  fOp2 (fmtOfF f) ((fmtOfF f).minmax false) h d a b s

/-- FMAX (R178). -/
def execFmax (h : Hd) (f : FFmt) (d : Fin 32) (a b : SSrc) (s : State) : Host.Outcome State Fault Refusal :=
  fOp2 (fmtOfF f) ((fmtOfF f).minmax true) h d a b s

/-- An encoding with its sign bit cleared. -/
def Fmt.absBits (f : Fmt) (a : Nat) : Nat := a % 2 ^ (f.width - 1)
/-- An encoding with its sign bit inverted. -/
def Fmt.negBits (f : Fmt) (a : Nat) : Nat := (a + 2 ^ (f.width - 1)) % 2 ^ f.width

/-- FABS (R177). -/
def execFabs (h : Hd) (f : FFmt) (d : Fin 32) (a : SSrc) (s : State) : Host.Outcome State Fault Refusal :=
  fOp1 (fmtOfF f) (fun x => ⟨(fmtOfF f).absBits x, 0⟩) h d a s

/-- FNEG (R177). -/
def execFneg (h : Hd) (f : FFmt) (d : Fin 32) (a : SSrc) (s : State) : Host.Outcome State Fault Refusal :=
  fOp1 (fmtOfF f) (fun x => ⟨(fmtOfF f).negBits x, 0⟩) h d a s

/-- FSET (R179). -/
def execFset (h : Hd) (f : FFmt) (c : FCond) (d : Fin 32) (a b : SSrc) (s : State) : Host.Outcome State Fault Refusal :=
  fOp2 (fmtOfF f) (fun x y => ⟨((fmtOfF f).cond c x y).1.toNat, ((fmtOfF f).cond c x y).2⟩) h d a b s

/-- FCLASS (R180). -/
def execFclass (h : Hd) (f : FFmt) (d : Fin 32) (a : SSrc) (s : State) : Host.Outcome State Fault Refusal :=
  fOp1 (fmtOfF f) (fun x => ⟨(fmtOfF f).classMask x, 0⟩) h d a s

/-- FCVT (R167, R181). -/
def execFcvt (h : Hd) (df : FFmt) (m : Rnd) (sf : FFmt) (d : Fin 32) (a : SSrc) (s : State) : Host.Outcome State Fault Refusal :=
  fOp1 (fmtOfF sf) (convertF (fmtOfF sf) (fmtOfF df) m false) h d a s

/-- The width of FTOI's result. -/
def iwBits : IWidth → Nat
  | .i8 => 8 | .i16 => 16 | .i32 => 32 | .i64 => 64

/-- FTOI (R168, R181): sign-extended from its width. -/
def execFtoi (h : Hd) (sf : FFmt) (m : Rnd) (iw : IWidth) (d : Fin 32) (a : SSrc) (s : State) : Host.Outcome State Fault Refusal :=
  fOp1 (fmtOfF sf)
    (fun x =>
      let r := toIntV m (iwBits iw) ((fmtOfF sf).value x)
      ⟨(widen (iwBits iw) r.bits).toNat, r.flags⟩) h d a s

/-- ITOF (R168, R181): A is read whole, signed or unsigned. -/
def execItof (h : Hd) (df : FFmt) (m : Rnd) (uns : Bool) (d : Fin 32) (a : SSrc) (s : State) : Host.Outcome State Fault Refusal :=
  issue (op h 8 (SSrc.src a))
    (fun e => e.fDone d (fromInt (fmtOfF df) m false (if uns then ((e.r.gS a).toNat : Int) else (e.r.gS a).toInt))) s

end Sys2Proof.Machine
end

