-- ==== Sys2Proof/Machine/Vector.lean ====
section
/-! DEFINITION. Class 4 but for its memory instructions (R182–R190): lane arithmetic, compares, moves, reductions, conversions,
quantisation and mask instructions. -/
namespace Sys2Proof.Machine

/-! ### Lanes (R182) -/

/-- Lane i of width w. -/
def laneGet (w : Nat) (v : Vec) (i : Nat) : Nat := v.toNat / 2 ^ (w * i) % 2 ^ w

/-- Every lane of width w. -/
def lanesOf (w : Nat) (v : Vec) : List Nat := (List.range (512 / w)).map (laneGet w v)

/-- A vector from its lanes of width w. -/
def vecOf (w : Nat) (xs : List Nat) : Vec := BitVec.ofNat 512 (xs.foldr (fun x n => x % 2 ^ w + 2 ^ w * n) 0)

/-- The flags of the active lanes (R170): lane i is active when bit i of the mask is 1. -/
def laneFlags (mask : Word) (rs : List FRes) : BitVec 5 :=
  (rs.zipIdx).foldl (fun f p => if mask.getLsbD p.2 then f ||| p.1.flags else f) 0

/-- What an instruction that merges reads beside its operands: M, and D when M is not k0 (R182). -/
def mergeSrc (k : Fin 8) (d : Fin 32) : Srcs := if k.val = 0 then [] else msrc k ++ [(.v d, false)]

/-- D with results merged into the lanes of a mask, and their flags. -/
def Env.vMerge (e : Env) (d : Fin 32) (w : Nat) (mask : Word) (rs : List FRes) : Res :=
  .ok (e.s,
    { e.w.wrV d (mergeLanes w mask (vecOf w (rs.map (·.bits))) (e.r.rdV d)) with fflags := e.w.fflags ||| laneFlags mask rs }, .seq)

/-- A long-latency lane result (R119, R194): the lanes that stay are those that the instruction has read. -/
def Env.vLater (e : Env) (d : Fin 32) (w : Nat) (k : Fin 8) (rs : List FRes) : Res :=
  let mask := e.r.rdK k
  let t := if k.val = 0 then e.w else e.w.wrV d (e.r.rdV d)
  let (s, t) := e.s.longV t d (vecOf w (rs.map (·.bits))) mask w (laneFlags mask rs)
  .ok (s, t, .seq)

/-- A lane operation: the lanes of D by their index (R184, R186). -/
def vLanes (t : ETy) (h : Hd) (k : Fin 8) (d : Fin 32) (srcs : Srcs) (f : Env → Nat → FRes) (s : State) :
    Host.Outcome State Fault Refusal :=
  issue (opW h 8 (srcs ++ mergeSrc k d) d) (fun e => e.vMerge d t.width (e.r.rdK k) ((List.range t.lanes).map (f e))) s

/-- The lane of an operation on two operands: integer, or floating-point in the element type's format. -/
def arith2 (t : ETy) (nx : Bool) (fi : Nat → Nat → Nat → Nat) (ff : Fmt → Nat → Nat → FRes) (a b : Nat) : FRes :=
  match fmtOfE nx t with
  | some f => ff f a b
  | none => ⟨fi t.width a b, 0⟩

/-- A lane operation on two vector operands. -/
def vOp2 (t : ETy) (fi : Nat → Nat → Nat → Nat) (ff : Fmt → Nat → Nat → FRes) (h : Hd) (k : Fin 8) (d : Fin 32) (a b : VSrc)
    (s : State) : Host.Outcome State Fault Refusal :=
  vLanes t h k d (VSrc.src a ++ VSrc.src b)
    (fun e i => arith2 t e.o.nx fi ff (laneGet t.width (e.r.gV a) i) (laneGet t.width (e.r.gV b) i)) s

/-- No floating-point form. -/
def noFloat : Fmt → Nat → Nat → FRes := fun _ _ _ => ⟨0, 0⟩

/-- VADD (R184). -/
def execVadd (h : Hd) (t : ETy) (k : Fin 8) (d : Fin 32) (a b : VSrc) (s : State) : Host.Outcome State Fault Refusal :=
  vOp2 t fnAdd (fun f => f.add .rne) h k d a b s

/-- VSUB (R184). -/
def execVsub (h : Hd) (t : ETy) (k : Fin 8) (d : Fin 32) (a b : VSrc) (s : State) : Host.Outcome State Fault Refusal :=
  vOp2 t fnSub (fun f => f.sub .rne) h k d a b s

/-- VMUL (R184). -/
def execVmul (h : Hd) (t : ETy) (k : Fin 8) (d : Fin 32) (a b : VSrc) (s : State) : Host.Outcome State Fault Refusal :=
  vOp2 t fnMul (fun f => f.mul .rne) h k d a b s

/-- One lane of VFMA. -/
def fmaLane (t : ETy) (nx : Bool) (a b c : Nat) : FRes :=
  match fmtOfE nx t with
  | some f => f.fma .rne false a b c
  | none => ⟨(a * b + c) % 2 ^ t.width, 0⟩

/-- VFMA (R184). -/
def execVfma (h : Hd) (t : ETy) (k : Fin 8) (d : Fin 32) (a b c : VSrc) (s : State) : Host.Outcome State Fault Refusal :=
  vLanes t h k d (VSrc.src a ++ VSrc.src b ++ VSrc.src c)
    (fun e i => fmaLane t e.o.nx (laneGet t.width (e.r.gV a) i) (laneGet t.width (e.r.gV b) i) (laneGet t.width (e.r.gV c) i)) s

/-- VDIV (R184): long-latency. -/
def execVdiv (h : Hd) (t : ETy) (k : Fin 8) (d : Fin 32) (a b : VSrc) (s : State) : Host.Outcome State Fault Refusal :=
  issue (opW h 8 (VSrc.src a ++ VSrc.src b ++ mergeSrc k d) d)
    (fun e => e.vLater d t.width k ((List.range t.lanes).map fun i =>
      arith2 t e.o.nx (fun _ _ _ => 0) (fun f => f.div .rne) (laneGet t.width (e.r.gV a) i) (laneGet t.width (e.r.gV b) i))) s

/-- VSQRT (R184): long-latency. -/
def execVsqrt (h : Hd) (t : ETy) (k : Fin 8) (d : Fin 32) (a : VSrc) (s : State) : Host.Outcome State Fault Refusal :=
  issue (opW h 8 (VSrc.src a ++ mergeSrc k d) d)
    (fun e => e.vLater d t.width k ((List.range t.lanes).map fun i =>
      arith2 t e.o.nx (fun _ _ _ => 0) (fun f x _ => f.sqrt .rne x) (laneGet t.width (e.r.gV a) i) 0)) s

/-- VMIN (R178, R184). -/
def execVmin (h : Hd) (t : ETy) (k : Fin 8) (u : Bool) (d : Fin 32) (a b : VSrc) (s : State) : Host.Outcome State Fault Refusal :=
  vOp2 t (if u then fnMinu else fnMin) (fun f => f.minmax false) h k d a b s

/-- VMAX (R178, R184). -/
def execVmax (h : Hd) (t : ETy) (k : Fin 8) (u : Bool) (d : Fin 32) (a b : VSrc) (s : State) : Host.Outcome State Fault Refusal :=
  vOp2 t (if u then fnMaxu else fnMax) (fun f => f.minmax true) h k d a b s

/-- |a| mod 2^w: the most negative value maps to itself. -/
def fnAbs (w a : Nat) : Nat := (sgn w a).natAbs % 2 ^ w

/-- VABS (R184). -/
def execVabs (h : Hd) (t : ETy) (k : Fin 8) (d : Fin 32) (a : VSrc) (s : State) : Host.Outcome State Fault Refusal :=
  vLanes t h k d (VSrc.src a)
    (fun e i => arith2 t e.o.nx (fun w x _ => fnAbs w x) (fun f x _ => ⟨f.absBits x, 0⟩) (laneGet t.width (e.r.gV a) i) 0) s

/-- VNEG (R184). -/
def execVneg (h : Hd) (t : ETy) (k : Fin 8) (d : Fin 32) (a : VSrc) (s : State) : Host.Outcome State Fault Refusal :=
  vLanes t h k d (VSrc.src a)
    (fun e i => arith2 t e.o.nx (fun w x _ => fnSub w 0 x) (fun f x _ => ⟨f.negBits x, 0⟩) (laneGet t.width (e.r.gV a) i) 0) s

/-- VAND (R184). -/
def execVand (h : Hd) (t : ETy) (k : Fin 8) (d : Fin 32) (a b : VSrc) (s : State) : Host.Outcome State Fault Refusal :=
  vOp2 t fnAnd noFloat h k d a b s

/-- VOR (R184). -/
def execVor (h : Hd) (t : ETy) (k : Fin 8) (d : Fin 32) (a b : VSrc) (s : State) : Host.Outcome State Fault Refusal :=
  vOp2 t fnOr noFloat h k d a b s

/-- VXOR (R184). -/
def execVxor (h : Hd) (t : ETy) (k : Fin 8) (d : Fin 32) (a b : VSrc) (s : State) : Host.Outcome State Fault Refusal :=
  vOp2 t fnXor noFloat h k d a b s

/-- The count of a shift in lane i: B[i], or IMM12. -/
def Strand.countOf (t : Strand) (b : VB) (w i : Nat) : Nat :=
  match b with
  | .reg x => laneGet w (t.gV x) i
  | .imm v => v.toNat

/-- A lane shift (R184): the count is taken mod w. -/
def vShift (g : Nat → Nat → Nat → Nat) (h : Hd) (t : ETy) (k : Fin 8) (d : Fin 32) (a : VSrc) (b : VB) (s : State) :
    Host.Outcome State Fault Refusal :=
  vLanes t h k d (VSrc.src a ++ VB.src b) (fun e i => ⟨g t.width (laneGet t.width (e.r.gV a) i) (e.r.countOf b t.width i), 0⟩) s

/-- VSHL (R184). -/
def execVshl (h : Hd) (t : ETy) (k : Fin 8) (d : Fin 32) (a : VSrc) (b : VB) (s : State) : Host.Outcome State Fault Refusal :=
  vShift fnShl h t k d a b s

/-- VSHR (R184). -/
def execVshr (h : Hd) (t : ETy) (k : Fin 8) (d : Fin 32) (a : VSrc) (b : VB) (s : State) : Host.Outcome State Fault Refusal :=
  vShift fnShr h t k d a b s

/-- VSAR (R184). -/
def execVsar (h : Hd) (t : ETy) (k : Fin 8) (d : Fin 32) (a : VSrc) (b : VB) (s : State) : Host.Outcome State Fault Refusal :=
  vShift fnSar h t k d a b s

/-! ### Compares and moves (R185, R186) -/

/-- The condition of VCMP on one lane, with its flags (R185). -/
def cmpLane (t : ETy) (nx : Bool) (c : BitVec 3) (a b : Nat) : FRes :=
  match fmtOfE nx t with
  | some f => match FCond.ofCode c.toNat with
    | some c => ⟨(f.cond c a b).1.toNat, (f.cond c a b).2⟩
    | none => ⟨0, 0⟩
  | none => match Cond.ofCode c.toNat with
    | some c => ⟨fnSet c t.width a b, 0⟩
    | none => ⟨0, 0⟩

/-- VCMP (R185): D is written whole. -/
def execVcmp (h : Hd) (t : ETy) (k : Fin 8) (c : BitVec 3) (d : Fin 8) (a b : VSrc) (s : State) :
    Host.Outcome State Fault Refusal :=
  issue (opV h 8 (VSrc.src a ++ VSrc.src b ++ msrc k)) (fun e =>
    let rs := (List.range t.lanes).map fun i =>
      cmpLane t e.o.nx c (laneGet t.width (e.r.gV a) i) (laneGet t.width (e.r.gV b) i)
    let bits := rs.foldr (fun r n => r.bits % 2 + 2 * n) 0
    .ok (e.s, { e.w.wrK d (BitVec.ofNat 64 bits &&& e.r.rdK k) with fflags := e.w.fflags ||| laneFlags (e.r.rdK k) rs }, .seq)) s

/-- VSEL (R186). -/
def execVsel (h : Hd) (t : ETy) (k : Fin 8) (d : Fin 32) (a b : VSrc) (c : KSrc) (s : State) : Host.Outcome State Fault Refusal :=
  vLanes t h k d (VSrc.src a ++ VSrc.src b ++ KSrc.src c)
    (fun e i => ⟨laneGet t.width (if (e.r.gK c).getLsbD i then e.r.gV a else e.r.gV b) i, 0⟩) s

/-- VBCAST (R186). -/
def execVbcast (h : Hd) (t : ETy) (k : Fin 8) (d : Fin 32) (a : SSrc) (s : State) : Host.Outcome State Fault Refusal :=
  vLanes t h k d (SSrc.src a) (fun e _ => ⟨(e.r.gS a).toNat % 2 ^ t.width, 0⟩) s

/-- A lane as a scalar (R186, R187): sign-extended for an integer type, zero-extended for others. -/
def laneScalar (t : ETy) (x : Nat) : Word := if t.isInt then widen t.width x else BitVec.ofNat 64 (x % 2 ^ t.width)

/-- VEXT (R186). -/
def execVext (h : Hd) (t : ETy) (d : Fin 32) (a : VSrc) (b : SB) (s : State) : Host.Outcome State Fault Refusal :=
  issue (opV h 8 (VSrc.src a ++ SB.src b))
    (fun e => .ok (e.s, e.w.wrS d (laneScalar t (laneGet t.width (e.r.gV a) ((e.r.gSB b).toNat % t.lanes))), .seq)) s

/-- VINS (R186): D is read in every case (R182). -/
def execVins (h : Hd) (t : ETy) (d : Fin 32) (a : SSrc) (b : SB) (s : State) : Host.Outcome State Fault Refusal :=
  issue (opW h 8 (SSrc.src a ++ SB.src b ++ [(.v d, false)]) d) (fun e =>
    let j := (e.r.gSB b).toNat % t.lanes
    .ok (e.s, e.w.wrV d (vecOf t.width ((lanesOf t.width (e.r.rdV d)).set j ((e.r.gS a).toNat % 2 ^ t.width))), .seq)) s

/-- VPERM (R186). -/
def execVperm (h : Hd) (t : ETy) (k : Fin 8) (d : Fin 32) (a b : VSrc) (s : State) : Host.Outcome State Fault Refusal :=
  vLanes t h k d (VSrc.src a ++ VSrc.src b)
    (fun e i => ⟨laneGet t.width (e.r.gV a) (laneGet t.width (e.r.gV b) i % t.lanes), 0⟩) s

/-- VIOTA (R186): with a k destination the mask of L bits, whatever M holds. -/
def execViota (h : Hd) (t : ETy) (k : Fin 8) (d : VKDst) (s : State) : Host.Outcome State Fault Refusal :=
  match d with
  | .v r => vLanes t h k r [] (fun _ i => ⟨i, 0⟩) s
  | .k r => issue (op h 8 (msrc k)) (fun e => .ok (e.s, e.w.wrK r (BitVec.ofNat 64 (2 ^ t.lanes - 1)), .seq)) s

/-! ### Reductions (R187) -/

/-- The identity of a reduction (R187). -/
def redId (t : ETy) (nx : Bool) (o : RedOp) : Nat :=
  match fmtOfE nx t with
  | some f => match o with
    | .add => f.signBit true
    | .min => if f.hasInf then f.inf false else f.largest false
    | .max => if f.hasInf then f.inf true else f.largest true
  | none => match o with
    | .add => 0
    | .min => 2 ^ (t.width - 1) - 1
    | .max => 2 ^ (t.width - 1)

/-- The operation of a reduction (R187). -/
def redFn (t : ETy) (nx : Bool) (o : RedOp) (a b : Nat) : FRes :=
  match o with
  | .add => arith2 t nx fnAdd (fun f => f.add .rne) a b
  | .min => arith2 t nx fnMin (fun f => f.minmax false) a b
  | .max => arith2 t nx fnMax (fun f => f.minmax true) a b

/-- A reduction of the active lanes (R173, R187). -/
def reduce (t : ETy) (nx : Bool) (o : RedOp) (mask : Word) (xs : List Nat) : FRes :=
  tree (redFn t nx o) (Nat.log2 t.lanes) ((xs.zipIdx).map fun p => ⟨if mask.getLsbD p.2 then p.1 else redId t nx o, 0⟩)

/-- VRED (R187). -/
def execVred (h : Hd) (t : ETy) (k : Fin 8) (o : RedOp) (d : Fin 32) (a : VSrc) (s : State) : Host.Outcome State Fault Refusal :=
  issue (opV h 8 (VSrc.src a ++ msrc k)) (fun e =>
    let r := reduce t e.o.nx o (e.r.rdK k) (lanesOf t.width (e.r.gV a))
    .ok (e.s, { e.w.wrS d (laneScalar t r.bits) with fflags := e.w.fflags ||| r.flags }, .seq)) s

/-! ### Conversions and quantisation (R188, R189) -/

/-- An E8M0 code as F32 (R164). -/
def e8m0ToF32 (c : Nat) : Nat := if c = 0 then 0x0040_0000 else if c = 255 then 0x7FC0_0000 else c * 2 ^ 23

/-- An integer of a wider or narrower type (R188). -/
def intToInt (ws wd : Nat) (sat : Bool) (x : Nat) : Nat :=
  let v := sgn ws x
  if sat then
    let hi : Int := 2 ^ (wd - 1) - 1
    let lo : Int := -(2 ^ (wd - 1))
    uns wd (if v > hi then hi else if v < lo then lo else v)
  else uns wd v

/-- Width of a source of VCVT. -/
def srcWidth (st : Nat) : Nat :=
  match ETy.ofCode st with
  | some t => t.width
  | none => 8

/-- One conversion of VCVT (R188). -/
def cvtLane (st : Nat) (dt : ETy) (nx : Bool) (m : Rnd) (sat : Bool) (x : Nat) : FRes :=
  match ETy.ofCode st with
  | none => ⟨e8m0ToF32 x, 0⟩
  | some t =>
    match fmtOfE nx t, fmtOfE nx dt with
    | some fs, some fd => convertF fs fd m sat x
    | some fs, none => toIntV m dt.width (fs.value x)
    | none, some fd => fromInt fd m sat (sgn t.width x)
    | none, none => ⟨intToInt t.width dt.width sat x, 0⟩

/-- A conversion into part p (R188): how many conversions there are, the A lane each reads, and the D lane it writes. -/
def cvtShape (ls ld p : Nat) : Nat × (Nat → Nat) × (Nat → Nat) :=
  let n := min ls ld
  if ls > ld then (n, fun j => p * n + j, fun j => j)
  else if ld > ls then (n, fun j => j, fun j => p * n + j)
  else (n, fun j => j, fun j => j)

/-- Write conversions j = 0 … n − 1 into D's lanes, those that the mask makes active; the flags are theirs. -/
def Env.vPart (e : Env) (d : Fin 32) (w n : Nat) (mask : Word) (dst : Nat → Nat) (f : Nat → FRes) : Res :=
  let act := (List.range n).filter fun j => mask.getLsbD j
  let xs := act.foldl (fun (l : List Nat) j => l.set (dst j) (f j).bits) (lanesOf w (e.r.rdV d))
  let fl := act.foldl (fun (a : BitVec 5) j => a ||| (f j).flags) 0
  .ok (e.s, { e.w.wrV d (vecOf w xs) with fflags := e.w.fflags ||| fl }, .seq)

/-- VCVT (R188): D is read in every case (R182). -/
def execVcvt (h : Hd) (t : ETy) (k : Fin 8) (src : BitVec 4) (m : Rnd) (sat : Bool) (part : BitVec 3) (d : Fin 32) (a : VSrc)
    (s : State) : Host.Outcome State Fault Refusal :=
  issue (opW h 8 (VSrc.src a ++ msrc k ++ [(.v d, false)]) d) (fun e =>
    let ws := srcWidth src.toNat
    let (n, src_, dst) := cvtShape (512 / ws) t.lanes part.toNat
    e.vPart d t.width n (e.r.rdK k) dst fun j => cvtLane src.toNat t e.o.nx m sat (laneGet ws (e.r.gV a) (src_ j))) s

/-- One lane of VQNT's scaled form (R189): the product is formed exactly and rounded once. -/
def quantLane (t : ETy) (nx : Bool) (m : Rnd) (sat : Bool) (x sc : Nat) : FRes :=
  let (v, inv) := mulV (Fmt.f32.value x) (Fmt.f32.value sc)
  match fmtOfE nx t with
  | some f => f.deliver m sat inv v
  | none => toIntV m t.width v

/-- VQNT, scaled form (R189). -/
def execVqntScaled (h : Hd) (t : ETy) (k : Fin 8) (m : Rnd) (sat : Bool) (part : BitVec 2) (d : Fin 32) (a : VSrc) (c : SSrc)
    (s : State) : Host.Outcome State Fault Refusal :=
  issue (opW h 8 (VSrc.src a ++ SSrc.src c ++ msrc k ++ [(.v d, false)]) d) (fun e =>
    e.vPart d t.width 16 (e.r.rdK k) (fun j => 16 * part.toNat + j)
      fun j => quantLane t e.o.nx m sat (laneGet 32 (e.r.gV a) j) ((e.r.gS c).toNat % 2 ^ 32)) s

/-- VQNT, block form (R174, R189): the elements with their flags, or the scale. -/
def execVqntBlock (h : Hd) (sel : Bool) (part : BitVec 2) (d : Fin 32) (a b : VSrc) (s : State) :
    Host.Outcome State Fault Refusal :=
  issue (opW h 8 (VSrc.src a ++ VSrc.src b ++ [(.v d, false)]) d) (fun e =>
    let (scale, codes, fl) := quantBX4 (lanesOf 32 (e.r.gV a) ++ lanesOf 32 (e.r.gV b))
    let old := e.r.rdV d
    if sel then .ok (e.s, e.w.wrV d (vecOf 32 ((lanesOf 32 old).set part.toNat scale)), .seq)
    else
      let xs := (List.range 16).foldl (fun (l : List Nat) n =>
        l.set (16 * part.toNat + n) (codes.getD (2 * n) 0 + 16 * codes.getD (2 * n + 1) 0)) (lanesOf 8 old)
      .ok (e.s, { e.w.wrV d (vecOf 8 xs) with fflags := e.w.fflags ||| fl }, .seq)) s

/-! ### Mask instructions (R190) -/

/-- The operations of KOP on two operands. -/
def kopOf (o : KOp) (a b : Word) : Word :=
  match o with
  | .and => a &&& b
  | .or => a ||| b
  | .xor => a ^^^ b
  | .andn => a &&& ~~~b

/-- KOP (R190): with no B it is NOT A. -/
def execKop (h : Hd) (o : KOp) (d : Fin 8) (a : KSrc) (b : Option KSrc) (s : State) : Host.Outcome State Fault Refusal :=
  match b with
  | some b =>
    issue (op h 8 (KSrc.src a ++ KSrc.src b)) (fun e => .ok (e.s, e.w.wrK d (kopOf o (e.r.gK a) (e.r.gK b)), .seq)) s
  | none => issue (op h 8 (KSrc.src a)) (fun e => .ok (e.s, e.w.wrK d (~~~(e.r.gK a)), .seq)) s

/-- The value of a scalar or mask source. -/
def Strand.gSK (t : Strand) : SKSrc → Word
  | .s x => t.gS x
  | .k x => t.gK x
/-- Write a scalar or mask destination. -/
def Strand.wSK (t : Strand) (d : SKDst) (v : Word) : Strand :=
  match d with
  | .s r => t.wrS r v
  | .k r => t.wrK r v

/-- KMOV (R190). -/
def execKmov (h : Hd) (d : SKDst) (a : SKSrc) (s : State) : Host.Outcome State Fault Refusal :=
  issue (op h 8 (SKSrc.src a)) (fun e => .ok (e.s, e.w.wSK d (e.r.gSK a), .seq)) s

/-- KPOP (R190). -/
def execKpop (h : Hd) (t : ETy) (d : Fin 32) (a : KSrc) (s : State) : Host.Outcome State Fault Refusal :=
  issue (op h 8 (KSrc.src a)) (fun e => .ok (e.s, e.w.wrS d (BitVec.ofNat 64 (popcount (min t.lanes 64) (e.r.gK a).toNat)), .seq)) s

end Sys2Proof.Machine
end

