-- ==== Sys2Proof/Machine/MemAccess.lean ====
section
/-! DEFINITION. Class 3 (R224–R246): loads and stores with their ordering, full-empty words, hints, fences, cache controls,
atomics, ADEC and RADD. -/
namespace Sys2Proof.Machine

/-- Bytes of an access size. -/
def sizeBytes : Size → Nat
  | .b => 1 | .h => 2 | .w => 4 | .d => 8

/-- An acquire part. -/
def Ord.acquires : Ord → Bool
  | .acq | .ar => true
  | _ => false
/-- A release part. -/
def Ord.releases : Ord → Bool
  | .rel | .ar => true
  | _ => false

/-! ### What every access shares -/

/-- The address of an access: where a request to another core is out, the address it went to. -/
def Env.addrOf (e : Env) (ea : Word) : Word :=
  match e.o.rem with
  | r :: _ => r.va
  | [] => ea

/-- A push of the line of n bytes waits at its home (R77), an operation of this strand on the line is on its way there, or a load of
the strand from the bytes is still to be performed (R266). -/
def Env.lineHeld (e : Env) (pa n : Nat) : Bool :=
  e.s.pushHeld (lineOf pa) || (e.s.homeReqs.any fun r => r.2.sid == e.o.sid && lineOf r.2.pa == lineOf pa) || e.o.loadingAt false pa n

/-- An access of the strand to n bytes of another core of this package is still to be performed (R281). -/
def Env.farHeld (e : Env) (pkg pcore off n : Nat) : Bool := pkg == e.s.pkgNo && e.o.loadingFar pcore off n

/-- A store of this strand to n bytes of host memory is on its way, or a load from them is still to be performed (R266). -/
def Env.hostHeld (e : Env) (hpa n : Nat) (load : Bool) : Bool :=
  (load && e.s.hostPending e.o.sid hpa n) || e.o.loadingAt true hpa n

/-- The unit whose scratchpad the strand calls its own. -/
def Env.home (e : Env) : UnitRef := (homeOf e.c e.o).unit

/-- A request to another core's scratchpad that brings a reply (R211, R281, R283). -/
def Env.ask (e : Env) (s : State) (va : Word) (pkg pcore l : Nat) (o : RemOp) (acc : Acc) (k : Word → Res) : Res :=
  match e.o.rem with
  | [] =>
    if e.farHeld pkg pcore (va.toNat % 2 ^ 22) o.bytes then .error (.hold s e.o .lates) else
    let (id, s) := s.fresh
    let s := { s with flights := NMap.set s.flights id (.access e.o.sid 0 pkg pcore l va e.o.dom o) }
    .error (.hold s { e.o with rem := [⟨0, id, va, none⟩] } .remote)
  | r :: _ =>
    match r.reply with
    | none => .error (.hold s e.o .remote)
    | some (.ok v) => k v
    | some .rights => .error (.trap cRIGHTS acc.trapCode va 0 0)
    | some .target => .error (.trap cTARGET acc.trapCode va 0 0)
    | some .poison => .error (.trap cPOISON acc.trapCode va 0 0)

/-- A request to another core's scratchpad that only an acknowledgement follows: UNACK rises (R227, R281, R282). -/
def Env.tell (e : Env) (s : State) (t : Strand) (va : Word) (pkg pcore l : Nat) (o : RemOp) : Res :=
  if e.farHeld pkg pcore (va.toNat % 2 ^ 22) o.bytes then .error (.hold s e.o .lates)
  else .ok (s.send (.access e.o.sid 0 pkg pcore l va e.o.dom o), { t with unack := t.unack + 1 }, .seq)

/-- The acquire half of an access above CORE to device memory (R228, R273): the reply is on its way. -/
def Env.acquire (e : Env) (s : State) (t : Strand) (acq : Bool) (sc : Scope) (q : State → AcqInfo) : State × Strand :=
  if acq && sc != .core then s.acquireSent e.c.unit t (q s) else (s, t)

/-- The acquire information of a line that no side store covers: a generation never seen (R228). -/
def neverSeen (line : Nat) : AcqInfo := ⟨line, 0, 0, true⟩

/-! ### Loads (R226, R230): an access of the own scratchpad waits for the strand's matrix commands that use its bytes (R249) -/

/-- The strand's own scratchpad bytes are in use by its matrix commands (R249). -/
def Env.spHeld (e : Env) (off n : Nat) : Bool := (e.s.unit e.home).matrixAt e.o.sid off n

/-- An access that need not be performed at once is left to be performed later, or not: the choice is free (R267, log 3). -/
def State.defer (s : State) (d : DLoad) : State × List DLoad :=
  ({ s with freeCtr := s.freeCtr + 1 }, if Config.freeBool s.freeCtr then [d] else [])

/-- The same for an access of the own scratchpad, which is performed later where an earlier one of the core's is (R268). -/
def State.deferOwn (s : State) (u : UnitRef) (d : DLoad) : State × List DLoad :=
  ((s.defer d).1, if s.ownLate u then [d] else (s.defer d).2)

/-- An access of the own scratchpad that is performed as it issues waits for the core's earlier ones (R268). -/
def Env.ownHeld (e : Env) : Bool := e.s.ownLate e.home

/-- A load issues (R265, R267): its value, or nothing where its line is poisoned. One that does not acquire may be performed later, at
any time until its result is written (log 3). -/
def Env.loadIssue (e : Env) (acq : Bool) (d : DLoad) : State × Option Nat × List DLoad :=
  let (s, v) := e.s.loadNow e.c.unit e.home e.o.part d
  if acq then (s, v, [])
  else
    match v, e.s.defer d with
    | some v, (s1, d :: ds) => (s1, some v, d :: ds)
    | v, (s1, _) => ({ s with freeCtr := s1.freeCtr }, v, [])

/-- An acquire above CORE takes no value from a buffered store that carries a release: that store is performed at its home first, so that
the reply brings its signature (R271, R273, R275). -/
def Env.relDrained (e : Env) (pa : Nat) : Except Stop State :=
  let line := lineOf pa
  if (e.s.unit e.c.unit).sb.any fun x => x.line == line && x.rel.isSome then
    let s := e.s.drainLine e.c.unit line
    if (s.unit e.c.unit).sb.any fun x => x.line == line then .error (.hold s e.o (.home line)) else .ok s
  else .ok e.s

/-- A load of n bytes; `full` for LDF, whose section is checked each time that it issues, and so again after it has waited (R97, log 36). -/
def Env.load (e : Env) (sz : Size) (sx acq full : Bool) (sc : Scope) (d : Fin 32) (ad : Addr) : Res := do
  let n := sizeBytes sz
  let va := e.addrOf (Strand.ea e.r ad)
  let out (v : Nat) : Word := if sx then sext (8 * n) v else BitVec.ofNat 64 v
  let done (s : State) (t : Strand) (v : Nat) (todo : List DLoad) : Res :=
    let (s, t) := s.loadS t d (out v) 0 todo
    .ok (s, t, .seq)
  match ← e.access va n n .read (if full then .full else .plain) with
  | .mem l pa =>
    if e.lineHeld pa n then .error (.hold e.s e.o (.home (lineOf pa)))
    else do
      let s ← if acq && sc != .core then e.relDrained pa else .ok e.s
      match ({ e with s := s } : Env).loadIssue acq ⟨0, .mem l (loadAt acq sc), pa, n, sx, .load⟩ with
      | (_, none, _) => .error (.trap cPOISON 1 va 0 0)
      | (s, some v, todo) =>
        let (s, t) := e.acquire s e.w acq sc fun s => s.acqInfo (lineOf pa) l.sync
        done s t v todo
  | .host hpa ro =>
    if e.hostHeld hpa n true then .error (.hold e.s e.o (.host hpa n))
    else
      match e.loadIssue acq ⟨0, .host ro, hpa, n, sx, .load⟩ with
      | (_, none, _) => .error (.trap cPOISON 1 va 0 0)
      | (s, some v, todo) =>
        let (s, t) := e.acquire s e.w acq sc fun _ => neverSeen (2 ^ 60 + hpa / 64)
        done s t v todo
  | .own off =>
    let x := e.s.unit e.home
    let got := if full then e.o.seen else none
    if e.spHeld off n then .error (.hold e.s e.o (.command (.bytes off n)))
    else if e.ownHeld && got.isNone && (full || acq || spPoisoned x off n) then .error (.hold e.s e.o .port)
    else if full && got.isNone && !fullBit x (off / 8) then .error (.hold e.s e.o (.fullBit (ukey e.home) (off / 8)))
    else if spPoisoned x off n then .error (.trap cPOISON 1 va 0 0)
    else match got with
    | some w => done e.s e.w (w.toNat / 2 ^ (8 * (off % 8)) % 2 ^ (8 * n)) []
    | none =>
      let (s, todo) := if full || acq then (e.s, []) else e.s.deferOwn e.home ⟨0, .own, off, n, sx, .load⟩
      done s e.w (spRead x off n) todo
  | .far pkg pcore l off =>
    e.ask e.s va pkg pcore l (if full then .ldf n else .load n) .read fun v =>
      let (s, todo) := if pkg == e.s.pkgNo && !full && !acq then e.s.defer ⟨0, .far pcore, off, n, sx, .load⟩ else (e.s, [])
      done s e.w (v.toNat % 2 ^ (8 * n)) todo

/-- LD (R226). -/
def execLd (h : Hd) (sz : Size) (sx : Bool) (acq : Bool) (sc : Scope) (d : Fin 32) (ad : Addr) (s : State) :
    Host.Outcome State Fault Refusal :=
  issue (op h 8 (Addr.src ad)) (fun e => e.load sz sx acq false sc d ad) s

/-- LDF (R230). -/
def execLdf (h : Hd) (sz : Size) (sx : Bool) (acq : Bool) (sc : Scope) (d : Fin 32) (ad : Addr) (s : State) :
    Host.Outcome State Fault Refusal :=
  issue (op h 8 (Addr.src ad)) (fun e => e.load sz sx acq true sc d ad) s

/-! ### Stores (R227, R230) -/

/-- The write signature that a release above CORE carries, and the strand after it (R228, R272). -/
def carried (t : Strand) (rel : Bool) (sc : Scope) (sync : Bool) : Option RelInfo × Strand :=
  if rel && sc != .core then (some ⟨sc, t.wsig, sync⟩, { t with wsig := 0 }) else (none, t)

/-- A store within a line enters the buffer; with all 32 entries in use it makes the older ones drain first (R200). -/
def State.storeIn (s : State) (c : CtxRef) (t : Strand) (l : Leaf) (pa n v : Nat) (rel : Option RelInfo) : Option State :=
  let go (s : State) : Option State :=
    s.storeMask c t l (lineOf pa) (byteMask (pa % 128) n) (linePut (pa % 128) n v) rel
  match go s with
  | some s => some s
  | none => go (s.drainUnit c.unit)

/-- A store at a scratchpad bank (R197, R230). -/
def spStore (x : CoreUnit) (k : StKind) (off n v : Nat) : CoreUnit :=
  match k with
  | .plain => spWrite x off (bytesOf n v)
  | .full => setFull (spWrite x off (bytesOf n v)) (off / 8) true
  | .empty => setFull x (off / 8) false

/-- A store at the bank of a unit's scratchpad, which serves what waits for the full bit that it sets (R231). -/
def State.putSp (s : State) (u : UnitRef) (k : StKind) (off n : Nat) (v : Word) : State :=
  let s := s.modUnit u fun x => spStore x k off n v.toNat
  if k == .full then s.serveFull u (off / 8) else s

/-- A store of the low n bytes of a word, or SETE. One to the own scratchpad may be performed later (R267, log 3). -/
def Env.store (e : Env) (k : StKind) (sz : Size) (rel : Bool) (sc : Scope) (v : Word) (ad : Addr) : Res := do
  let n := sizeBytes sz
  let va := Strand.ea e.r ad
  let p ← e.access va n n .write (if k == .plain then .plain else .full)
  let s ← if rel then e.release e.s sc else .ok e.s
  let s := if rel then s.closed e.c.unit e.o.sid else s
  match p with
  | .mem l pa =>
    if e.lineHeld pa n then .error (.hold s e.o (.home (lineOf pa)))
    else
      let (r, t) := carried (sigStore e.w pa) rel sc l.sync
      match s.storeIn e.c e.o l pa n v.toNat r with
      | some s => .ok (s, t, .seq)
      | none => .error (.hold s e.o .sbFull)
  | .host hpa _ =>
    if e.hostHeld hpa n false then .error (.hold s e.o (.host hpa n))
    else
      let (_, t) := carried e.w rel sc false
      .ok (s.send (.hostStore e.o.sid hpa va (bytesOf n v.toNat)), { t with unack := t.unack + 1 }, .seq)
  | .own off =>
    if e.spHeld off n then .error (.hold s e.o (.command (.bytes off n)))
    else
      match s.deferOwn e.home ⟨0, .own, off, n, false, .put k v⟩ with
      | (s, []) => .ok (s.putSp e.home k off n v, e.w, .seq)
      | (s, todo) =>
        let (s, t) := s.loadS e.w 0 0 0 todo
        .ok (s, t, .seq)
  | .far pkg pcore l _ =>
    e.tell s e.w va pkg pcore l (match k with | .plain => .store n v false | .full => .store n v true | .empty => .sete n)

/-- ST (R227). -/
def execSt (h : Hd) (sz : Size) (rel : Bool) (sc : Scope) (d : Fin 32) (ad : Addr) (s : State) :
    Host.Outcome State Fault Refusal :=
  issue (op h 8 (dsrc d ++ Addr.src ad)) (fun e => e.store .plain sz rel sc (e.r.rdS d) ad) s

/-- STF (R230). -/
def execStf (h : Hd) (sz : Size) (rel : Bool) (sc : Scope) (d : Fin 32) (ad : Addr) (s : State) :
    Host.Outcome State Fault Refusal :=
  issue (op h 8 (dsrc d ++ Addr.src ad)) (fun e => e.store .full sz rel sc (e.r.rdS d) ad) s

/-- SETE (R230). -/
def execSete (h : Hd) (sz : Size) (rel : Bool) (sc : Scope) (ad : Addr) (s : State) : Host.Outcome State Fault Refusal :=
  issue (op h 8 (Addr.src ad)) (fun e => e.store .empty sz rel sc 0 ad) s

/-! ### Hints and cache controls (R232, R236, R237) -/

/-- The place of a hint or cache control: none where a check fails or the page is not present; a page with no cached translation
is walked for, or asked for, first (R225). No rule gives PREF and CINV a kind of access or a size: they are checked as a read of one byte
(log 29). -/
def Env.hint (e : Env) (va : Word) : Except Stop (Option Place) :=
  match e.s.check (who e.c e.o) va 1 1 .read .plain with
  | .ok p => .ok (some p)
  | .error .miss => .error (e.s.stopAcc e.c e.o va .read .miss)
  | .error _ => .ok none

/-- Fetch a line ahead (R232): no counter, no fold; dropped for a page with NC = 1 and for a line with live slots. -/
def State.prefetch (s : State) (u : UnitRef) (p : Nat) (l : Leaf) (line : Nat) (l2 : Bool) : State :=
  if l.nc || s.hasSlots line || paKind (128 * line) != .mem then s
  else
    let die := udie u
    let fill (s : State) (d : LineData) : State :=
      let x := s.unit u
      if l2 || x.l1.any (fun y => !y.host && y.line == line && !y.past) || x.fills.any (fun f => f.live && f.line == line && !f.past) then s
      else s.setUnit u { x with fills := x.fills ++ [⟨line, !l.w, true, false, p, sbOver x.sb line d⟩] }
    match if die == homeDie line then none else s.replicaFor p u line with
    | some r => if (s.line line).poison then s else fill s r.data
    | none =>
      let (s, d, hit) := (s.atHomeSeen u line).homePeek (some p) line
      if hit != .ok then s
      else
        fill (if die != homeDie line && s.mayFill line die (s.degreeFor line l.repl) then s.fillOn p line die d else s) d

/-- PREF (R232): a line of the host window goes into the L1 alone (R210). -/
def execPref (h : Hd) (l2 : Bool) (ad : Addr) (s : State) : Host.Outcome State Fault Refusal :=
  issue (op h 8 (Addr.src ad)) (fun e => do
    match ← e.hint (Strand.ea e.r ad) with
    | some (.mem l pa) => return (e.s.prefetch e.c.unit e.o.part l (lineOf pa) l2, e.w, .seq)
    | some (.host hpa ro) => return (if l2 then e.s else (e.s.loadHost e.c.unit e.o.part hpa 1 ro).1, e.w, .seq)
    | _ => return (e.s, e.w, .seq)) s

/-- CINV (R236): with no address, every line of the core's L1. -/
def execCinv (h : Hd) (ad : Option Addr) (s : State) : Host.Outcome State Fault Refusal :=
  match ad with
  | none =>
    issue (op h 8 []) (fun e => .ok (e.s.modUnit e.c.unit fun x =>
      { x with l1 := [], fills := x.fills.map fun f => { f with live := false } }, e.w, .seq)) s
  | some ad =>
    issue (op h 8 (Addr.src ad)) (fun e => do
      match ← e.hint (Strand.ea e.r ad) with
      | some (.mem _ pa) => return (e.s.modUnit e.c.unit fun x => dropLine x (lineOf pa), e.w, .seq)
      | some (.host hpa _) =>
        return (e.s.modUnit e.c.unit fun x => { x with l1 := x.l1.filter fun y => !(y.host && y.line == hpa / 64) }, e.w, .seq)
      | _ => return (e.s, e.w, .seq)) s

/-- The code that a region keeps for a degree. -/
def degCode : Deg → BitVec 2
  | .d1 => 0 | .d2 => 1 | .d4 => 2

/-- REPL (R237): the translation must grant W to the issuer. -/
def execRepl (h : Hd) (g : Deg) (ad : Addr) (s : State) : Host.Outcome State Fault Refusal :=
  issue (op h 8 (Addr.src ad)) (fun e => do
    let va := Strand.ea e.r ad
    if regionOf va != .paged then return (e.s, e.w, .seq)
    else
      match e.s.xlate (udie e.c.unit) e.o.part va false e.o.wfaults with
      | .miss => .error (e.s.stopAcc e.c e.o va .read .miss)
      | .ok l =>
        let pa := leafAddr l va
        if permOk l .write && paKind pa == .mem && reach e.o.frames e.o.dom l va.toNat 1 .write then
          let rg := regionNo (lineOf pa)
          let s := (e.s.modRegion rg fun _ => ⟨degCode g, 0, 0⟩).collapseExcluded rg (degCode g).toNat
          return (s, e.w, .seq)
        else return (e.s, e.w, .seq)
      | _ => return (e.s, e.w, .seq)) s

/-! ### Fences (R233, R234) -/

/-- FENCE (R233): its acquire part comes after every load that has issued (R267). -/
def execFence (h : Hd) (o : Ord) (sc : Scope) (s : State) : Host.Outcome State Fault Refusal :=
  issue (op h 8 []) (fun e => do
    let s ← if Ord.releases o then e.release e.s sc else .ok e.s
    if Ord.acquires o && e.o.loading then .error (.hold s e.o .lates)
    let s := s.closed e.c.unit e.o.sid
    if Ord.acquires o && sc != .core then return (s.fullInval e.c.unit, { e.w with wsig := BitVec.allOnes 2048 }, .seq)
    else return (s, e.w, .seq)) s

/-- A unit lies in another's group of a scope; a kingpost lies in no quad (R19, R234). -/
def inGroup (sc : Scope) (a b : UnitRef) : Bool :=
  match sc with
  | .core => a == b
  | .quad => match a, b with
    | .core p, .core q => p / 4 == q / 4
    | _, _ => a == b
  | .tile => utile a == utile b
  | .die => udie a == udie b
  | .pkg | .sys => true

/-- IFENCE (R234): it waits until the strand's stores are performed with their collapses. -/
def execIfence (h : Hd) (sc : Scope) (s : State) : Host.Outcome State Fault Refusal :=
  issue (op h 8 []) (fun e =>
    let (s, ok) := e.s.release e.c.unit e.o .pkg
    if !ok then .error (.hold s e.o (.release .pkg))
    else
      .ok ({ s with units := NMap.mapV (fun k x =>
        if inGroup sc e.c.unit (uref k) && x.tag == e.o.part then { x with ic := [] } else x) s.units }, e.w, .seq)) s

/-! ### Atomics (R238, R239) -/

/-- F(old, b) of an atomic by its number in the table from AADD on, on w-bit operands; `cmp` is ACAS's comparand. -/
def atomNew (f w old b cmp : Nat) : Nat :=
  match f with
  | 0 => fnAdd w old b
  | 1 => old &&& b
  | 2 => old ||| b
  | 3 => old ^^^ b
  | 4 => fnMin w old b
  | 5 => fnMax w old b
  | 6 => Nat.min old b
  | 7 => Nat.max old b
  | 8 => b
  | _ => if old = cmp then b else old

/-- The result of an atomic: long-latency unless D = g0 (R238), where it may still be to be performed (R267). -/
def State.result (s : State) (t : Strand) (d : Fin 32) (v : Word) (todo : List DLoad) : State × Strand :=
  if d.val = 0 && todo.isEmpty then (s, t) else s.loadS t d v 0 todo

/-- The strand's buffered bytes of a line are at its home, and the host owns no part of what is written (R285); or what to wait
for. -/
def Env.settleLine (e : Env) (s : State) (pa n : Nat) : Except Stop State :=
  let line := lineOf pa
  let s := s.drainLine e.c.unit line
  if (s.unit e.c.unit).sb.any (fun x => x.line == line) then .error (.hold s e.o (.home line))
  else if s.hostHas line (byteMask (pa % 128) n) then .error (.hold (s.recall line (byteMask (pa % 128) n)) e.o (.home line))
  else .ok s

/-- The release half of an operation at its home (R273). -/
def State.releaseAt (s : State) (p line : Nat) (rel : Option RelInfo) : State :=
  match rel with
  | some r => s.atHome p line r.sig r.sync
  | none => s

/-- A unit's own operation at the home of a line has been performed: the unit has seen the home, and its copy goes (R238, R266). -/
def State.ownOp (s : State) (u : UnitRef) (line : Nat) : State := (s.atHomeSeen u line).modUnit u fun x => dropLine x line

/-- What a line held for a partition before it was poisoned, or before another partition took it over: nothing where no copy of that is
left. -/
def State.lastData (s : State) (p line : Nat) : Option LineData :=
  let m := s.line line
  if m.owner == some p then some (s.lineData line)
  else
    match m.dram with
    | .key q _ => if q != p then none else if m.owner.isNone then some (s.lineData line) else m.old
    | _ => if m.owner.isNone then some (s.lineData line) else none

/-- The same with n bytes changed, where the line is still the partition's; what another has taken over is lost with its old bytes. -/
def State.putLast (s : State) (p pa n v : Nat) : State :=
  if (s.line (lineOf pa)).owner == some p then { s with mem := Memory.writeN s.mem pa n v } else s

/-- The bytes of a line for an operation at its home; none where the line is poisoned. Where `late` the operation has issued on a sound
line: it then counts as performed just before the poison came, or another partition's write (R238, log 3). -/
def State.opRead (s : State) (p line : Nat) (late : Bool) : State × Option LineData × Bool :=
  match s.homeRead (some p) line with
  | (s', d, .ok) => (s', some d, true)
  | (s', _, _) => (s', if late then s.lastData p line else none, false)

/-- An operation at the home of a line writes n bytes; where the line was not sound any more, into what was there before. -/
def State.opWrite (s : State) (p : Nat) (sids : List Nat) (pa n v : Nat) (sound : Bool) : State :=
  if sound then s.homeWriteN (some p) sids pa n v else s.putLast p pa n v

/-- An atomic at the home of a line as one step, with the release it carries (R238, R239, R273): the old value; none where the line is
poisoned. -/
def State.rmwAt (s : State) (u : UnitRef) (t : Strand) (pa n f : Nat) (b cmp : Word) (rel : Option RelInfo) (late : Bool) :
    State × Option Nat :=
  let line := lineOf pa
  match s.opRead t.part line late with
  | (s, none, _) => (s, none)
  | (s, some d, sound) =>
    let old := lineGet d (pa % 128) n
    (((s.opWrite t.part [t.sid] pa n (atomNew f (8 * n) old b.toNat cmp.toNat) sound).ownOp u line).releaseAt t.part line rel, some old)

/-- An atomic at a scratchpad bank (R239); none where the bytes are poisoned, unless it has issued before (`late`). -/
def State.rmwSp (s : State) (u : UnitRef) (off n f : Nat) (b cmp : Word) (late : Bool) : State × Option Nat :=
  let x := s.unit u
  let old := spRead x off n
  let bs := bytesOf n (atomNew f (8 * n) old b.toNat cmp.toNat)
  if !spPoisoned x off n then (s.setUnit u (spWrite x off bs), some old)
  else if late then (s.setUnit u { x with sp := Memory.writeBytes x.sp off bs }, some old)
  else (s, none)

/-- A word of a list of bytes. -/
def wordIn (bs : List Byte) (o : Nat) : Word := BitVec.ofNat 64 (natOfBytes ((bs.drop o).take 8))

/-- ADEC of the record at a VA, at its home as one step, with the push it decides (R240, R241): the new value; none where the line is
poisoned. -/
def State.decAt (s : State) (u : UnitRef) (t : Strand) (va : Word) (pa : Nat) (rel : Option RelInfo) (late : Bool) : State × Option Nat :=
  let line := lineOf pa
  match s.opRead t.part line late with
  | (s, none, _) => (s, none)
  | (s, some d, sound) =>
    let c := BitVec.ofNat 64 (lineGet d (pa % 128) 8) - 1
    let s := ((s.opWrite t.part [t.sid] pa 8 c.toNat sound).ownOp u line).releaseAt t.part line rel
    let r := bytesOf 32 (lineGet d (pa % 128) 32)
    let s := if c = 0 then
        s.pushRecord t.part (utile u) t.launch t.vtime pa va (wordIn r 8) (wordIn r 16) (wordIn r 24) none
          (rel.map fun x => s.acqInfo line x.sync)
      else if c.msb then
        s.modSlice (sliceNo line) fun x => { x with underflow := Nat.min (x.underflow + 1) (2 ^ 32 - 1) }
      else s
    (s, some c.toNat)

/-! ### Accesses that are performed later (R265, R267) -/

/-- Perform an access that has issued (`late` where that was in an earlier step): what it returns; none where what it uses is poisoned. -/
def State.lateDo (s : State) (c : CtxRef) (t : Strand) (d : DLoad) (late : Bool) : State × Option Nat :=
  let h := (homeOf c t).unit
  match d.op, d.src with
  | .load, .own => if late then (s, some (spRead (s.unit h) d.pa d.n)) else (s, spGet (s.unit h) d.pa d.n)
  | .load, _ => s.loadNow c.unit h t.part d
  | .rmw f b cmp _, .far pcore => s.rmwSp (.core pcore) d.pa d.n f b cmp late
  | .rmw f b cmp _, .own => s.rmwSp h d.pa d.n f b cmp late
  | .rmw f b cmp rel, _ => s.rmwAt c.unit t d.pa d.n f b cmp rel late
  | .dec va rel, _ => s.decAt c.unit t va d.pa rel late
  | .put k v, _ => (s.putSp h k d.pa d.n v, none)

/-- An access of the result with a number can be performed now: one of the own scratchpad after the core's earlier ones (R268), and an
operation at a home once what is in its way there is gone (R77, R200, R285). -/
def State.lateReady (s : State) (c : CtxRef) (t : Strand) (id : Nat) (d : DLoad) : State × Bool :=
  match d.op, d.src with
  | _, .own => (s, !s.ownBefore (homeOf c t).unit id)
  | .load, _ | _, .far _ => (s, true)
  | _, _ => s.devReady c.unit d.pa (min d.n 8) true

/-- What an atomic or ADEC would return now; none where what it uses is poisoned. -/
def State.latePeek (s : State) (p : Nat) (d : DLoad) : Option Nat :=
  let old := match d.src with
    | .far pcore => spGet (s.unit (.core pcore)) d.pa d.n
    | _ => match s.homePeek (some p) (lineOf d.pa) with
      | (_, x, .ok) => some (lineGet x (d.pa % 128) d.n)
      | _ => none
  match d.op with
  | .dec .. => old.map fun v => (v + 2 ^ 64 - 1) % 2 ^ 64
  | _ => old

/-- An atomic or ADEC issues (R238, R240, R267): what it returns, or nothing where what it uses is poisoned. One that does not acquire may
be performed later, at any time until its result is written (log 3). -/
def Env.opIssue (e : Env) (s : State) (acq : Bool) (d : DLoad) : State × Option Nat × List DLoad :=
  let now (s : State) : State × Option Nat × List DLoad := let (s, v) := s.lateDo e.c e.o d false
    (s, v, [])
  if acq then now s
  else
    match s.defer d with
    | (s, []) => now s
    | (s, ds) => (s, s.latePeek e.o.part d, ds)

/-- Perform the accesses that the result with a number still waits for, in rising lane order, as far as they can be (R265, R267). A load
that finds poison that was not there when it issued keeps what it returned then. -/
def State.performLates (s : State) (c : CtxRef) (t : Strand) (id : Nat) (x : LateVal) : List DLoad → State × LateVal × List DLoad
  | [] => (s, x, [])
  | d :: ds =>
    match s.lateReady c t id d with
    | (s, false) => (s, x, d :: ds)
    | (s, true) =>
      let (s, v) := s.lateDo c t d true
      State.performLates s c t id (match v with | some v => x.put d v | none => x) ds

/-- Perform the accesses of the result with a number. An operation that returns none is then over (R238). -/
def State.performLate (s : State) (c : CtxRef) (t : Strand) (id : Nat) : State × Strand :=
  match t.lates.find? fun x => x.id == id with
  | none => (s, t)
  | some r =>
    let (s, v, todo) := s.performLates c t id r.val r.todo
    (s, { t with lates := if todo.isEmpty && !r.awaited then t.lates.filter fun x => x.id != id
      else t.lates.map fun x => if x.id == id then { x with val := v, todo := todo } else x })

/-! ### The instructions -/

/-- An atomic (R238). -/
def Env.atomic (e : Env) (f : Nat) (dw : Bool) (o : Ord) (sc : Scope) (d : Fin 32) (a : SSrc) (b : SB) : Res := do
  let n := if dw then 8 else 4
  let w := 8 * n
  let va := e.addrOf (e.r.gS a)
  let x : Word := BitVec.ofNat 64 ((e.r.gSB b).toNat % 2 ^ w)
  let cmp : Word := BitVec.ofNat 64 ((e.r.rdS d).toNat % 2 ^ w)
  let rel := Ord.releases o
  let acq := Ord.acquires o
  let p ← e.access va n n .both .atomic
  let s ← if rel then e.release e.s sc else .ok e.s
  let s := if rel then s.closed e.c.unit e.o.sid else s
  match p with
  | .mem l pa =>
    if e.lineHeld pa n then .error (.hold s e.o (.home (lineOf pa)))
    else do
      let s ← e.settleLine s pa n
      let (r, t) := carried (sigStore e.w pa) rel sc l.sync
      match e.opIssue s acq ⟨0, .mem l .home, pa, n, true, .rmw f x cmp r⟩ with
      | (_, none, _) => .error (.trap cPOISON 3 va 0 0)
      | (s, some old, todo) =>
        let (s, t) := e.acquire s t acq sc fun s => s.acqInfo (lineOf pa) l.sync
        let (s, t) := s.result t d (sext w old) todo
        .ok (s, t, .seq)
  | .own off =>
    let u := s.unit e.home
    if e.spHeld off n then .error (.hold s e.o (.command (.bytes off n)))
    else if e.ownHeld && (acq || spPoisoned u off n) then .error (.hold s e.o .port)
    else
      let op : DLoad := ⟨0, .own, off, n, true, .rmw f x cmp none⟩
      let (s, todo) := if acq || spPoisoned u off n then (s, []) else s.deferOwn e.home op
      match if todo.isEmpty then s.lateDo e.c e.o op false else (s, some (spRead u off n)) with
      | (_, none) => .error (.trap cPOISON 3 va 0 0)
      | (s, some old) =>
        let (s, t) := s.result e.w d (sext w old) todo
        .ok (s, t, .seq)
  | .far pkg pcore l off =>
    let done (s : State) (v : Nat) (todo : List DLoad) : Res :=
      let (s, t) := s.result e.w d (sext w v) todo
      .ok (s, t, .seq)
    if pkg != s.pkgNo then
      e.ask s va pkg pcore l (.atomic f dw x cmp) .both fun v => done s (v.toNat % 2 ^ w) []
    else
      e.ask s va pkg pcore l (.probe n) .both fun _ =>
        match e.opIssue s acq ⟨0, .far pcore, off, n, true, .rmw f x cmp none⟩ with
        | (_, none, _) => .error (.trap cPOISON 3 va 0 0)
        | (s, some old, todo) => done s old todo
  | .host .. => .error (.trap cRIGHTS 3 va 0 0)

/-- The common form of the atomics but ACAS. -/
def atomOp (f : Nat) (h : Hd) (dw : Bool) (o : Ord) (sc : Scope) (d : Fin 32) (a : SSrc) (b : SB) (s : State) :
    Host.Outcome State Fault Refusal :=
  issue (op h 8 (SSrc.src a ++ SB.src b)) (fun e => e.atomic f dw o sc d a b) s

/-- AADD (R238). -/
def execAadd (h : Hd) (dw : Bool) (o : Ord) (sc : Scope) (d : Fin 32) (a : SSrc) (b : SB) (s : State) :
    Host.Outcome State Fault Refusal := atomOp 0 h dw o sc d a b s
/-- AAND (R238). -/
def execAand (h : Hd) (dw : Bool) (o : Ord) (sc : Scope) (d : Fin 32) (a : SSrc) (b : SB) (s : State) :
    Host.Outcome State Fault Refusal := atomOp 1 h dw o sc d a b s
/-- AOR (R238). -/
def execAor (h : Hd) (dw : Bool) (o : Ord) (sc : Scope) (d : Fin 32) (a : SSrc) (b : SB) (s : State) :
    Host.Outcome State Fault Refusal := atomOp 2 h dw o sc d a b s
/-- AXOR (R238). -/
def execAxor (h : Hd) (dw : Bool) (o : Ord) (sc : Scope) (d : Fin 32) (a : SSrc) (b : SB) (s : State) :
    Host.Outcome State Fault Refusal := atomOp 3 h dw o sc d a b s
/-- AMIN (R238). -/
def execAmin (h : Hd) (dw : Bool) (o : Ord) (sc : Scope) (d : Fin 32) (a : SSrc) (b : SB) (s : State) :
    Host.Outcome State Fault Refusal := atomOp 4 h dw o sc d a b s
/-- AMAX (R238). -/
def execAmax (h : Hd) (dw : Bool) (o : Ord) (sc : Scope) (d : Fin 32) (a : SSrc) (b : SB) (s : State) :
    Host.Outcome State Fault Refusal := atomOp 5 h dw o sc d a b s
/-- AMINU (R238). -/
def execAminu (h : Hd) (dw : Bool) (o : Ord) (sc : Scope) (d : Fin 32) (a : SSrc) (b : SB) (s : State) :
    Host.Outcome State Fault Refusal := atomOp 6 h dw o sc d a b s
/-- AMAXU (R238). -/
def execAmaxu (h : Hd) (dw : Bool) (o : Ord) (sc : Scope) (d : Fin 32) (a : SSrc) (b : SB) (s : State) :
    Host.Outcome State Fault Refusal := atomOp 7 h dw o sc d a b s
/-- ASWP (R238). -/
def execAswp (h : Hd) (dw : Bool) (o : Ord) (sc : Scope) (d : Fin 32) (a : SSrc) (b : SB) (s : State) :
    Host.Outcome State Fault Refusal := atomOp 8 h dw o sc d a b s
/-- ACAS (R238): D is read as the comparand. -/
def execAcas (h : Hd) (dw : Bool) (o : Ord) (sc : Scope) (d : Fin 32) (a : SSrc) (b : SB) (s : State) :
    Host.Outcome State Fault Refusal :=
  issue (op h 8 (SSrc.src a ++ SB.src b ++ dsrc d)) (fun e => e.atomic 9 dw o sc d a b) s

/-! ### ADEC and RADD (R240, R241, R243) -/

/-- ADEC (R240). -/
def execAdec (h : Hd) (o : Ord) (sc : Scope) (d : Fin 32) (a : SSrc) (s : State) : Host.Outcome State Fault Refusal :=
  issue (op h 8 (SSrc.src a)) (fun e => do
    let va := e.r.gS a
    let rel := Ord.releases o
    match ← e.access va 32 32 .both .adec with
    | .mem l pa =>
      let s ← if rel then e.release e.s sc else .ok e.s
      let s := if rel then s.closed e.c.unit e.o.sid else s
      if e.lineHeld pa 32 then .error (.hold s e.o (.home (lineOf pa)))
      else
        let s ← e.settleLine s pa 8
        let (r, t) := carried (sigStore e.w pa) rel sc l.sync
        match e.opIssue s (Ord.acquires o) ⟨0, .mem l .home, pa, 32, false, .dec va r⟩ with
        | (_, none, _) => .error (.trap cPOISON 3 va 0 0)
        | (s, some c, todo) =>
          let (s, t) := e.acquire s t (Ord.acquires o) sc fun s => s.acqInfo (lineOf pa) l.sync
          let (s, t) := s.result t d (BitVec.ofNat 64 c) todo
          return (s, t, .seq)
    | _ => .error (.trap cRIGHTS 3 va 0 0)) s

/-- The key of a strand's contributions (R243): a kingpost's own contexts have one of their own. -/
def Env.redKey (e : Env) : Nat :=
  match e.home with
  | .core _ => e.o.lcore
  | .kp n => kpKey n

/-- RADD (R243): the contribution goes on its way to the home. -/
def execRadd (h : Hd) (dw : Bool) (rel : Bool) (sc : Scope) (a b : SSrc) (s : State) : Host.Outcome State Fault Refusal :=
  issue (op h 8 (SSrc.src a ++ SSrc.src b)) (fun e => do
    let va := e.r.gS a
    let n := if dw then 8 else 4
    match ← e.access va n n .both .radd with
    | .mem l pa =>
      let s ← if rel then e.release e.s sc else .ok e.s
      let s := if rel then s.closed e.c.unit e.o.sid else s
      if e.s.pushHeld (lineOf pa) || e.o.loadingAt false pa n then .error (.hold s e.o (.home (lineOf pa)))
      else
        let s ← e.settleLine s pa n
        let (r, t) := carried (sigStore e.w pa) rel sc l.sync
        let (id, s) := s.fresh
        let x := BitVec.ofNat 64 ((e.r.gS b).toNat % 2 ^ (8 * n))
        return ({ s with homeReqs := NMap.set s.homeReqs id ⟨e.c.unit, e.o.sid, e.o.part, pa, dw, x, e.redKey, r⟩ }, t, .seq)
    | _ => .error (.trap cRIGHTS 3 va 0 0)) s

end Sys2Proof.Machine
end

