-- ==== Sys2Proof/Machine/VecMem.lean ====
section
/-! DEFINITION. The vector memory instructions of class 4 (R191–R193): lanes that trap, lanes whose page is not present and that
replay alone, and lanes that are performed. -/
namespace Sys2Proof.Machine

/-! ### One vector access -/

/-- A vector memory instruction at a strand: element width, whether it loads, the address of a lane, the element a lane stores,
and the lanes that are active. -/
structure VMem where
  w    : Nat
  load : Bool
  ea   : Nat → Word
  el   : Nat → Nat
  act  : List Nat

/-- Bytes of an element. -/
def VMem.size (m : VMem) : Nat := m.w / 8
/-- The kind of access. -/
def VMem.acc (m : VMem) : Acc := if m.load then .read else .write

/-- A lane mask from its lanes. -/
def laneMask (ls : List Nat) : Word := ls.foldl (fun (a : Word) i => a ||| BitVec.ofNat 64 (2 ^ i)) 0

/-- Where every lane goes, or why it does not (R192). -/
def Env.places (e : Env) (m : VMem) : List (Nat × Except AStop Place) :=
  m.act.map fun i => (i, e.s.check (who e.c e.o) (m.ea i) m.size m.size m.acc .plain)

/-- A trap of some lanes, at the lowest one's address. -/
def VMem.trap (m : VMem) (cause : Nat) (ls : List Nat) : Stop :=
  .trap cause m.acc.trapCode (match ls with | i :: _ => m.ea i | [] => 0) (laneMask ls) 0

/-- The lanes that a check stopped with a cause. -/
def lanesOfCause (cause : Nat) (ps : List (Nat × Except AStop Place)) : List Nat :=
  ps.filterMap fun p => match p.2 with
    | .error (.trap c) => if c = cause then some p.1 else none
    | _ => none

/-- The lanes whose page is not present, with the fault of each. -/
def lanesAbsent (ps : List (Nat × Except AStop Place)) : List (Nat × WalkFault × Bool) :=
  ps.filterMap fun p => match p.2 with
    | .error (.absent f host) => some (p.1, f, host)
    | _ => none

/-- The first lane whose page has no cached translation. -/
def laneMiss (ps : List (Nat × Except AStop Place)) : Option Nat :=
  ps.findSome? fun p => match p.2 with
    | .error .miss => some p.1
    | _ => none

/-- The lanes that are performed, with their places. -/
def lanesOk (ps : List (Nat × Except AStop Place)) : List (Nat × Place) :=
  ps.filterMap fun p => match p.2 with
    | .ok x => some (p.1, x)
    | .error _ => none

/-- Lanes loaded so far: the state, the elements by lane, the lanes that read poison, and the lines already read. -/
structure VLoad where
  s   : State
  els : List (Nat × Nat)
  bad : List Nat
  got : List (Nat × LineData × Bool)

/-- Perform one load lane. A line is read once for the lanes it serves. -/
def Env.loadLane (e : Env) (m : VMem) (a : VLoad) (p : Nat × Place) : VLoad :=
  let put (s : State) (v : Option Nat) : VLoad :=
    match v with
    | some v => { a with s := s, els := a.els ++ [(p.1, v)] }
    | none => { a with s := s, bad := a.bad ++ [p.1] }
  match p.2 with
  | .mem l pa =>
    let line := lineOf pa
    let ok (bad : Bool) : Bool := !bad || sbCovers (a.s.unit e.c.unit).sb line (pa % 128) m.size
    match a.got.find? fun g => g.1 == line with
    | some (_, d, bad) => put a.s (if ok bad then some (lineGet d (pa % 128) m.size) else none)
    | none =>
      let (s, d, hit) := a.s.loadLine e.c.unit e.o.part l pa .l1
      let a' := put s (if ok (hit != .ok) then some (lineGet d (pa % 128) m.size) else none)
      { a' with got := a.got ++ [(line, d, hit != .ok)] }
  | .host hpa ro =>
    let (s, v) := a.s.loadHost e.c.unit e.o.part hpa m.size ro
    put s (some v)
  | .own off =>
    let x := a.s.unit e.home
    put a.s (if spPoisoned x off m.size then none else some (spRead x off m.size))
  | .far .. =>
    match e.o.rem.find? fun r => r.lane == p.1 with
    | some ⟨_, _, _, some (.ok v)⟩ => put a.s (some (v.toNat % 2 ^ m.w))
    | _ => a

/-- What a lane must wait for: an operation of the strand on its bytes that is still to be performed; one of the own scratchpad, where the
instruction parks (`park`) or reads poison, the core's earlier ones (R268). -/
def Env.laneWait (e : Env) (m : VMem) (park : Bool) (p : Nat × Place) : Option Hold :=
  match p.2 with
  | .mem _ pa => if e.lineHeld pa m.size then some (.home (lineOf pa)) else none
  | .host hpa _ => if e.hostHeld hpa m.size m.load then some (.host hpa m.size) else none
  | .own off =>
    if e.spHeld off m.size then some (.command (.bytes off m.size))
    else if e.ownHeld && (park || (m.load && spPoisoned (e.s.unit e.home) off m.size)) then some .port
    else none
  | .far pkg pcore _ off => if e.farHeld pkg pcore off m.size then some .lates else none

/-- The load of a lane of device memory, of the host window, of the own scratchpad or of another core's of this package, as it may be
performed later (R267, R281). -/
def Env.later (e : Env) (m : VMem) (p : Nat × Place) : Option DLoad :=
  let d (src : LoadFrom) (a : Nat) : DLoad := ⟨p.1, src, a, m.size, false, .load⟩
  match p.2 with
  | .mem l pa => some (d (.mem l .l1) pa)
  | .host hpa ro => some (d (.host ro) hpa)
  | .far pkg pcore _ off => if pkg == e.s.pkgNo then some (d (.far pcore) off) else none
  | .own off => some (d .own off)

/-- Two loads read the same address (R265). -/
def DLoad.sameAs (a b : DLoad) : Bool :=
  a.pa == b.pa && (match a.src, b.src with
    | .mem .., .mem .. => true
    | .host _, .host _ => true
    | .far p, .far q => p == q
    | .own, .own => true
    | _, _ => false)

/-- Whether a lane's load is performed later; the choice is free (log 3), but that a lane goes with a lower one of its address (R193), and one
of the own scratchpad with an earlier access of the core there (R268). -/
def Env.deferred (e : Env) (m : VMem) (oks : List (Nat × Place)) (p : Nat × Place) : Bool :=
  match e.later m p with
  | none => false
  | some d => (d.src == .own && e.ownHeld) || oks.any fun q =>
      q.1 ≤ p.1 && Config.freeBool (e.s.freeCtr + q.1) && ((e.later m q).any fun b => b.sameAs d)

/-- Perform store lanes in rising order; the lanes that found no room in the store buffer stay. -/
def Env.storeLanes (e : Env) (m : VMem) : List (Nat × Place) → State → Strand → State × Strand × List Nat
  | [], s, t => (s, t, [])
  | p :: ps, s, t =>
    let v := m.el p.1
    match p.2 with
    | .mem l pa =>
      match s.storeIn e.c e.o l pa m.size v none with
      | some s => Env.storeLanes e m ps s (sigStore t pa)
      | none => (s, t, (p :: ps).map Prod.fst)
    | .host hpa _ =>
      Env.storeLanes e m ps (s.send (.hostStore e.o.sid hpa (m.ea p.1) (bytesOf m.size v))) { t with unack := t.unack + 1 }
    | .own off => Env.storeLanes e m ps (s.modUnit e.home fun x => spWrite x off (bytesOf m.size v)) t
    | .far pkg pcore l _ =>
      Env.storeLanes e m ps
        (s.send (.access e.o.sid p.1 pkg pcore l (m.ea p.1) e.o.dom (.store m.size (BitVec.ofNat 64 v) false)))
        { t with unack := t.unack + 1 }

/-- Park on the missing lanes (R192, R324): one fault for each page, with the lanes on it. -/
def State.parkLanes (s : State) (c : CtxRef) (t : Strand) (m : VMem) : List (Nat × WalkFault × Bool) → Nat → State × List Nat
  | [], _ => (s, [])
  | _, 0 => (s, [])
  | (i, f, host) :: ls, fuel + 1 =>
    let pg := pageKey (m.ea i)
    let same := i :: (ls.filter fun l => pageKey (m.ea l.1) == pg).map Prod.fst
    let (s, id) := s.parkOn c t (m.ea i) t.pc (laneMask same) m.acc.faultCode f host
    let (s, ids) := State.parkLanes s c t m (ls.filter fun l => pageKey (m.ea l.1) != pg) fuel
    (s, id :: ids)

/-- The register that loaded lanes leave (R192): the old one's value in every other lane. -/
def Env.loaded (e : Env) (m : VMem) (d : Fin 32) (els : List (Nat × Nat)) : Vec :=
  vecOf m.w (els.foldl (fun (l : List Nat) x => l.set x.1 x.2) (lanesOf m.w (e.r.rdV d)))

/-- Ask other cores for the load lanes that lie in their windows. -/
def Env.askLanes (e : Env) (m : VMem) : List (Nat × Place) → State → List RemReq → State × List RemReq
  | [], s, rs => (s, rs)
  | (i, .far pkg pcore l _) :: ps, s, rs =>
    let (id, s) := s.fresh
    let s := { s with flights := NMap.set s.flights id (.access e.o.sid i pkg pcore l (m.ea i) e.o.dom (.load m.size)) }
    Env.askLanes e m ps s (rs ++ [⟨i, id, m.ea i, none⟩])
  | _ :: ps, s, rs => Env.askLanes e m ps s rs

/-- Lanes whose reply is of a kind. -/
def Strand.lanesReplied (t : Strand) (k : RemoteReply) : List Nat :=
  t.rem.filterMap fun r => if r.reply == some k then some r.lane else none

/-- The part of a load after every check and reply (R192, R194): every lane that reads poison, or whose walk has met it (`walk`, R223), is
named. A park leaves D with the lanes loaded so far, and a poison that it has (R334). -/
def Env.loadAll (e : Env) (m : VMem) (d : Fin 32) (oks : List (Nat × Place)) (miss : List (Nat × WalkFault × Bool)) (walk : List Nat) : Res :=
  let a := oks.foldl (e.loadLane m) ⟨e.s, [], [], []⟩
  let bad := m.act.filter fun i => a.bad.contains i || walk.contains i || (e.o.lanesReplied .poison).contains i
  if !bad.isEmpty then .error (m.trap cPOISON bad)
  else if miss.isEmpty then
    let old := e.r.rdV d
    let t := if a.els.length = 512 / m.w then e.w else e.w.wrV d old
    let now := (oks.filter fun p => !e.deferred m oks p).foldl (e.loadLane m) ⟨e.s, [], [], []⟩
    let (s, t) := ({ now.s with freeCtr := e.s.freeCtr + 64 } : State).loadV t d (e.loaded m d a.els) (laneMask (a.els.map Prod.fst)) m.w 0
      ((oks.filter (e.deferred m oks)).filterMap (e.later m))
    .ok (s, t, .seq)
  else
    let t := if a.els.isEmpty then e.o
      else e.o.setVreg d { RegCell.of (e.loaded m d a.els) with poison := (e.o.vreg d).poison }
    let (s, ids) := a.s.parkLanes e.c t m miss 64
    .error (.hold s { t with faults := t.faults ++ ids, wfaults := [], rem := [], replay := some ⟨laneMask (miss.map Prod.fst)⟩ } .parked)

/-- The store of a lane of the own scratchpad, as it may be performed later (R267). -/
def Env.put (e : Env) (m : VMem) (p : Nat × Place) : Option DLoad :=
  match p.2 with
  | .own off => some ⟨p.1, .own, off, m.size, false, .put .plain (BitVec.ofNat 64 (m.el p.1))⟩
  | _ => none

/-- The stores that are performed later, and the state with that choice made (log 3): all those of the own scratchpad, or none; all where
an earlier access of the core there is (R268), none where the instruction parks. -/
def Env.puts (e : Env) (m : VMem) (oks : List (Nat × Place)) (park : Bool) : State × List DLoad :=
  let ds := oks.filterMap (e.put m)
  if park || ds.isEmpty then (e.s, [])
  else ({ e.s with freeCtr := e.s.freeCtr + 1 }, if e.ownHeld || Config.freeBool e.s.freeCtr then ds else [])

/-- There is no room for every lane in the store buffer, and no lane is performed: older entries drain, and the host gives up the halves that
the lanes touch (R200, R285). -/
def Env.makeRoom (e : Env) (m : VMem) (oks : List (Nat × Place)) : State :=
  oks.foldl (fun s p => match p.2 with
    | .mem _ pa => s.recall (lineOf pa) (byteMask (pa % 128) m.size)
    | _ => s) (e.s.drainUnit e.c.unit)

/-- The part of a store after every check (R192). -/
def Env.storeAll (e : Env) (m : VMem) (oks : List (Nat × Place)) (miss : List (Nat × WalkFault × Bool)) : Res :=
  let (s, todo) := e.puts m oks !miss.isEmpty
  let (s, t, left) := e.storeLanes m (if todo.isEmpty then oks else oks.filter fun p => (e.put m p).isNone) s e.w
  if !left.isEmpty then .error (.hold (e.makeRoom m oks) e.o .sbFull)
  else if miss.isEmpty then
    let (s, t) := if todo.isEmpty then (s, t) else s.loadS t 0 0 0 todo
    .ok (s, t, .seq)
  else
    let o := { e.o with wsig := t.wsig, unack := t.unack }
    let (s, ids) := s.parkLanes e.c o m miss 64
    .error (.hold s { o with faults := o.faults ++ ids, wfaults := [], replay := some ⟨laneMask (miss.map Prod.fst)⟩ } .parked)

/-- VMem (R192). A page without a cached translation is walked for before anything is performed; an instruction that will park
first lets long-latency results and matrix commands finish (R122, R250, R324), and one that asks other cores first lets its pending sources
settle. A store with a lane whose walk has met poison performs nothing (R223). -/
def Env.vmem (e : Env) (m : VMem) (d : Fin 32) : Res :=
  let ps := e.places m
  let bad := lanesOfCause cALIGN ps
  if !bad.isEmpty then .error (m.trap cALIGN bad)
  else
    match laneMiss ps with
    | some i => .error (e.s.stopAcc e.c e.o (m.ea i) m.acc .miss)
    | none =>
      let bad := lanesOfCause cRIGHTS ps
      let tgt := lanesOfCause cTARGET ps
      let miss := lanesAbsent ps
      let oks := lanesOk ps
      let far := oks.filter fun p => match p.2 with | .far .. => true | _ => false
      if !bad.isEmpty then .error (m.trap cRIGHTS bad)
      else if !tgt.isEmpty then .error (m.trap cTARGET tgt)
      else if (!miss.isEmpty || (m.load && !far.isEmpty && e.pend)) && !e.o.lates.isEmpty then .error (.hold e.s e.o .lates)
      else if !miss.isEmpty && e.o.matrixBusy then .error (.hold e.s e.o (.command .matrix))
      else match oks.findSome? (e.laneWait m !miss.isEmpty) with
      | some h => .error (.hold e.s e.o h)
      | none =>
      if m.load && !far.isEmpty && e.o.rem.isEmpty then
        let (s, rs) := e.askLanes m far e.s []
        .error (.hold s { e.o with rem := rs } .remote)
      else if m.load && e.o.rem.any (·.reply.isNone) then .error (.hold e.s e.o .remote)
      else
        let bad := e.o.lanesReplied .rights
        let tgt := e.o.lanesReplied .target
        if !bad.isEmpty then .error (m.trap cRIGHTS bad)
        else if !tgt.isEmpty then .error (m.trap cTARGET tgt)
        else
          let walk := lanesOfCause cPOISON ps
          if m.load then e.loadAll m d oks miss walk
          else if !walk.isEmpty then .error (m.trap cPOISON walk)
          else e.storeAll m oks miss

/-- The lanes a vector memory instruction is to perform: the replay's, or the active ones (R192). -/
def Env.lanes (e : Env) (t : ETy) (k : Fin 8) : List Nat :=
  let mask := match e.o.replay with
    | some r => r.lanes
    | none => e.r.rdK k
  (List.range t.lanes).filter fun i => mask.getLsbD i

/-! ### The instructions (R191) -/

/-- The size of an element. -/
def elSize (t : ETy) : Word := BitVec.ofNat 64 (t.width / 8)

/-- VLD (R191). -/
def execVld (h : Hd) (t : ETy) (k : Fin 8) (d : Fin 32) (ad : Addr) (s : State) : Host.Outcome State Fault Refusal :=
  issue (opW h 8 (Addr.src ad ++ mergeSrc k d) d) (fun e =>
    e.vmem ⟨t.width, true, fun i => Strand.ea e.r ad + BitVec.ofNat 64 i * elSize t, fun _ => 0, e.lanes t k⟩ d) s

/-- VST (R191). -/
def execVst (h : Hd) (t : ETy) (k : Fin 8) (ad : Addr) (c : VSrc) (s : State) : Host.Outcome State Fault Refusal :=
  issue (opV h 8 (Addr.src ad ++ VSrc.src c ++ msrc k)) (fun e =>
    e.vmem ⟨t.width, false, fun i => Strand.ea e.r ad + BitVec.ofNat 64 i * elSize t, laneGet t.width (e.r.gV c), e.lanes t k⟩ 0) s

/-- The address of a lane of a strided access (R191). -/
def Env.strided (e : Env) (ad : Addr) (i : Nat) : Word := e.r.gS ad.a + BitVec.ofNat 64 i * e.r.gSB ad.b

/-- VLDS (R191). -/
def execVlds (h : Hd) (t : ETy) (k : Fin 8) (d : Fin 32) (ad : Addr) (s : State) : Host.Outcome State Fault Refusal :=
  issue (opW h 8 (Addr.src ad ++ mergeSrc k d) d) (fun e =>
    e.vmem ⟨t.width, true, e.strided ad, fun _ => 0, e.lanes t k⟩ d) s

/-- VSTS (R191). -/
def execVsts (h : Hd) (t : ETy) (k : Fin 8) (ad : Addr) (c : VSrc) (s : State) : Host.Outcome State Fault Refusal :=
  issue (opV h 8 (Addr.src ad ++ VSrc.src c ++ msrc k)) (fun e =>
    e.vmem ⟨t.width, false, e.strided ad, laneGet t.width (e.r.gV c), e.lanes t k⟩ 0) s

/-- The address of a lane of a gather or scatter (R191): a signed index of the element's width. -/
def Env.indexed (e : Env) (t : ETy) (a : SSrc) (b : VSrc) (sh : BitVec 3) (i : Nat) : Word :=
  e.r.gS a + widen t.width (laneGet t.width (e.r.gV b) i) * BitVec.ofNat 64 (2 ^ sh.toNat)

/-- VGATH (R191). -/
def execVgath (h : Hd) (t : ETy) (k : Fin 8) (d : Fin 32) (a : SSrc) (b : VSrc) (sh : BitVec 3) (s : State) :
    Host.Outcome State Fault Refusal :=
  issue (opW h 8 (SSrc.src a ++ VSrc.src b ++ mergeSrc k d) d) (fun e =>
    e.vmem ⟨t.width, true, e.indexed t a b sh, fun _ => 0, e.lanes t k⟩ d) s

/-- VSCAT (R191). -/
def execVscat (h : Hd) (t : ETy) (k : Fin 8) (a : SSrc) (b c : VSrc) (sh : BitVec 3) (s : State) :
    Host.Outcome State Fault Refusal :=
  issue (opV h 8 (SSrc.src a ++ VSrc.src b ++ VSrc.src c ++ msrc k)) (fun e =>
    e.vmem ⟨t.width, false, e.indexed t a b sh, laneGet t.width (e.r.gV c), e.lanes t k⟩ 0) s

end Sys2Proof.Machine
end

