-- ==== Sys2Proof/Machine/Engine.lean ====
section
/-! DEFINITION. Class 5 (R247–R264): the instructions that issue matrix and copy commands, CPWAIT and CPSTAT. -/
namespace Sys2Proof.Machine

/-! ### Issuing a command (R93, R248) -/

/-- The crossing a command cites (R93): the innermost one, when its active set is not empty. -/
def Strand.citing (t : Strand) : Option Nat :=
  match t.frames with
  | f :: _ => if f.grafts.toList.any Option.isSome then some t.crossings else none
  | [] => none

/-- An accumulator the strand owns (R74): its number among the core's. -/
def Env.accOf (e : Env) (a : Fin 8) : Except Stop Nat :=
  match e.o.accs[a.val]? with
  | some n => .ok n
  | none => .error (.plain cILLEGAL)

/-- The offset of a tile that passes CheckTile (R251). -/
def Env.tile (e : Env) (base : Word) (stride rows rowbytes : Nat) (acc : Acc) : Except Stop Nat :=
  let fail (cause : Nat) : Except Stop Nat := .error (.trap cause acc.trapCode base 0 0)
  let x := e.s.unit e.home
  if base.toNat % 16 != 0 || stride % 16 != 0 then fail cALIGN
  else
    match (match regionOf base with
      | .own off => some off
      | .window l off => if l == e.o.lcore && !isKp e.home then some off else none
      | _ => none) with
    | none => fail cRIGHTS
    | some off =>
      if off + stride * (rows - 1) + rowbytes > spSize e.home x then fail cRIGHTS
      else if (List.range rows).all fun r => checkSect e.home x (off + stride * r) rowbytes acc e.o.dom then .ok off
      else fail cRIGHTS

/-- Enter a matrix command into the queue of two (R248), after the strand's earlier accesses of its scratchpad (R266). -/
def Env.matrix (e : Env) (t : Strand) (o : MOp) : Res :=
  if e.o.loadingOwn then .error (.hold e.s e.o .port)
  else if (e.s.unit e.home).mq.length ≥ 2 then .error (.hold e.s e.o (.queue .matrix))
  else
    let (id, s) := e.s.fresh
    .ok (s.modUnit e.home fun x => { x with mq := x.mq ++ [⟨id, e.o.sid, o⟩] },
      { t with cmds := t.cmds ++ [⟨id, .matrix, e.o.citing, .live, 0⟩] }, .seq)

/-! ### Matrix instructions (R252–R255) -/

/-- MMA (R252). -/
def execMma (h : Hd) (t : MTy) (sat : Bool) (d : Fin 8) (a b : SSrc) (sa sb : BitVec 16) (s : State) :
    Host.Outcome State Fault Refusal :=
  issue (opE h 12 (SSrc.src a ++ SSrc.src b) d) (fun e => do
    let acc ← e.accOf d
    let sh := shapeOf t
    let ta ← e.tile (e.r.gS a) sa.toNat 32 sh.ra .read
    let tb ← e.tile (e.r.gS b) sb.toNat sh.k sh.rb .read
    e.matrix e.w (.mma t sat e.o.nx acc ta sa.toNat tb sb.toNat)) s

/-- MMA of BX4 (R252): both scale arrays are checked after the tiles. -/
def execMmaBx4 (h : Hd) (d : Fin 8) (a b e0 e1 : SSrc) (x0 x1 : BitVec 16) (s : State) : Host.Outcome State Fault Refusal :=
  issue (opE h 16 (SSrc.src a ++ SSrc.src b ++ SSrc.src e0 ++ SSrc.src e1) d) (fun e => do
    let acc ← e.accOf d
    let ta ← e.tile (e.r.gS a) x0.toNat 32 64 .read
    let tb ← e.tile (e.r.gS b) x1.toNat 128 16 .read
    let s0 ← e.tile (e.r.gS e0) 16 32 16 .read
    let s1 ← e.tile (e.r.gS e1) 128 4 128 .read
    e.matrix e.w (.bx4 acc ta x0.toNat tb x1.toNat s0 s1)) s

/-- MZERO (R253). -/
def execMzero (h : Hd) (d : Fin 8) (s : State) : Host.Outcome State Fault Refusal :=
  issue (opE h 8 [] d) (fun e => do
    let acc ← e.accOf d
    e.matrix e.w (.zero acc)) s

/-- MLDA (R253). -/
def execMlda (h : Hd) (d : Fin 8) (a : SSrc) (b : SB) (s : State) : Host.Outcome State Fault Refusal :=
  issue (opE h 8 (SSrc.src a ++ SB.src b) d) (fun e => do
    let acc ← e.accOf d
    let stride := (e.r.gSB b).toNat
    let ta ← e.tile (e.r.gS a) stride 32 128 .read
    e.matrix e.w (.lda acc ta stride)) s

/-- MSTA (R254). -/
def execMsta (h : Hd) (t : StTy) (sat : Bool) (d : Fin 8) (a : SSrc) (c : Option SSrc) (stride : BitVec 16) (s : State) :
    Host.Outcome State Fault Refusal :=
  issue (opE h 12 (SSrc.src a ++ (match c with | some x => SSrc.src x | none => [])) d) (fun e => do
    let acc ← e.accOf d
    let ta ← e.tile (e.r.gS a) stride.toNat 32 (rowBytes t) .write
    let tc ← match c with
      | some x => e.tile (e.r.gS x) 16 8 16 .write
      | none => .ok 0
    e.matrix e.w (.sta t sat e.o.nx acc ta stride.toNat tc)) s

/-- MOVA (R255): vD leaves the pending set at once; like every instruction that names vD, it waits for an earlier MOVA into it. -/
def execMova (h : Hd) (d : Fin 32) (a : Fin 8) (b : SB) (s : State) : Host.Outcome State Fault Refusal :=
  issue { opE h 8 (SB.src b) a with vd := some d } (fun e => do
    let acc ← e.accOf a
    e.matrix (e.w.wrV d (e.o.rdV d)) (.mova acc ((e.r.gSB b).toNat % 64) d)) s

/-! ### Copy commands (R256–R261) -/

/-- Enter a copy command into the queue of two (R248), with what it captures (R92, R256), after the strand's earlier accesses of its
scratchpad (R266). -/
def Env.copy (e : Env) (ch : Fin 4) (o : COp) : Res :=
  if e.o.loadingOwn then .error (.hold e.s e.o .port)
  else if (e.s.unit e.home).cq.length ≥ 2 then .error (.hold e.s e.o (.queue .copy))
  else
    let (id, s) := e.s.fresh
    let k : CCmd :=
      { id := id, sid := e.o.sid, ch := ch, op := o, dom := e.o.dom, frames := e.o.frames, nx := e.o.nx, part := e.o.part
        launch := e.o.launch, lcore := e.o.lcore, issuer := faultWord4 e.c e.o }
    let rest := e.w.cmds.filter fun x => !(x.kind == .copy ch && x.st != .live)
    .ok (s.modUnit e.home fun x => { x with cq := x.cq ++ [k] },
      { e.w with cmds := rest ++ [⟨id, .copy ch, e.o.citing, .live, 0⟩] }, .seq)

/-- The length of CPY and CPFILL (R259). -/
def Env.copyLen (e : Env) (b : SSrc) (imm : BitVec 32) : Nat := (e.r.gS b + imm.setWidth 64).toNat

/-- CPY (R259). -/
def execCpy (h : Hd) (ch : Fin 4) (d : Fin 32) (a b : SSrc) (imm : BitVec 32) (s : State) : Host.Outcome State Fault Refusal :=
  issue (op h 12 (SSrc.src a ++ SSrc.src b ++ dsrc d)) (fun e =>
    let len := e.copyLen b imm
    if len > 2 ^ 32 then .error (.plain cILLEGAL) else e.copy ch (.cpy (e.r.rdS d) (e.r.gS a) len)) s

/-- CPFILL (R259). -/
def execCpfill (h : Hd) (ch : Fin 4) (d : Fin 32) (a b : SSrc) (imm : BitVec 32) (s : State) :
    Host.Outcome State Fault Refusal :=
  issue (op h 12 (SSrc.src a ++ SSrc.src b ++ dsrc d)) (fun e =>
    let len := e.copyLen b imm
    if len > 2 ^ 32 then .error (.plain cILLEGAL) else e.copy ch (.fill (e.r.rdS d) (e.r.gS a) len)) s

/-- CPY2 (R260). -/
def execCpy2 (h : Hd) (ch : Fin 4) (d : Fin 32) (a b e0 e1 : SSrc) (x0 : BitVec 16) (s : State) :
    Host.Outcome State Fault Refusal :=
  issue (op h 16 (SSrc.src a ++ SSrc.src b ++ dsrc d ++ SSrc.src e0 ++ SSrc.src e1)) (fun e =>
    let rows := (e.r.gS b).toNat
    if rows > 65536 || (rows > 1 && (e.r.gS e1).toNat < x0.toNat) then .error (.plain cILLEGAL)
    else e.copy ch (.cpy2 (e.r.rdS d) (e.r.gS a) rows (e.r.gS e0) (e.r.gS e1) x0.toNat)) s

/-- CPYG (R261). -/
def execCpyg (h : Hd) (ch : Fin 4) (d : Fin 32) (a b e0 e1 : SSrc) (x0 : BitVec 16) (s : State) :
    Host.Outcome State Fault Refusal :=
  issue (op h 16 (SSrc.src a ++ SSrc.src b ++ dsrc d ++ SSrc.src e0 ++ SSrc.src e1)) (fun e =>
    let count := (e.r.gS e0).toNat
    if (e.r.gS b).toNat % 4 != 0 then .error (.trap cALIGN 1 (e.r.gS b) 0 0)
    else if count > 65536 then .error (.plain cILLEGAL)
    else e.copy ch (.cpyg (e.r.rdS d) (e.r.gS a) (e.r.gS b) count (e.r.gS e1) x0.toNat)) s

/-! ### CPWAIT and CPSTAT (R258, R262, R263) -/

/-- The oldest unconsumed report of a channel, raised precisely and consumed (R258). -/
def Env.reported (e : Env) (ch : Fin 4) : Except Stop Unit :=
  match e.o.reports.find? fun r => r.ch == ch with
  | some r =>
    let (cause, info) := reportTrap r
    .error (.trapAt e.s { e.o with reports := dropReport (fun r => r.ch == ch) e.o.reports } cause 0 0 0 info 0)
  | none => .ok ()

/-- A CPWAIT that returns is an acquire at CORE scope for the command's deliveries (R262). They have left no older copy with the home core
(R257); for a strand that is migrated (R250), the kingpost drops its copies, and does not go back to a replica that they still have to
collapse (R266). -/
def Env.acquired (e : Env) : State :=
  if e.c.unit == e.home then e.s
  else
    (e.s.keepOff e.c.unit fun v => v.sids.contains e.o.sid).modUnit
        e.c.unit fun x => { x with l1 := x.l1.filter (·.host), fills := x.fills.map fun f => { f with live := false } }

/-- CPWAIT (R262): without A it waits for the whole command. -/
def execCpwait (h : Hd) (ch : Fin 4) (a : Option SSrc) (s : State) : Host.Outcome State Fault Refusal :=
  issue (op h 8 (match a with | some x => SSrc.src x | none => [])) (fun e => do
    e.reported ch
    match e.o.newest ch with
    | none => return (e.s, e.w, .seq)
    | some k =>
      let c := (e.s.unit e.home).chan[ch]
      let reached := c.reached k.id (a.map e.r.gS)
      if k.st != .live || reached then return (e.acquired, e.w, .seq)
      else .error (.hold e.s e.o (.command (.copy ch (a.map e.r.gS))))) s

/-- The status word of CPSTAT (R263). -/
def cpstatOf (c : Channel) (k : Option CmdRec) : Word :=
  let (st, err, done) := match k with
    | none => (0, c.err, 0)
    | some k => match k.st with
      | .done => (0, 0, k.bytes)
      | .stopped e => (4, e, k.bytes)
      | .live => if c.runs k.id then (if c.faults.isEmpty then 2 else 3, 0, k.bytes) else (1, 0, 0)
  BitVec.ofNat 64 (min done (2 ^ 48 - 1) + err * 2 ^ 48 + st * 2 ^ 61)

/-- CPSTAT (R263): long-latency. -/
def execCpstat (h : Hd) (ch : Fin 4) (d : Fin 32) (s : State) : Host.Outcome State Fault Refusal :=
  issue (op h 8 []) (fun e => do
    e.reported ch
    let (s, t) := e.s.longS e.w d (cpstatOf (e.s.unit e.home).chan[ch] (e.o.newest ch)) 0
    return (s, t, .seq)) s

end Sys2Proof.Machine
end

