-- ==== Sys2Proof/Machine/EngineEvents.lean ====
section
/-! DEFINITION. What the engines do by themselves (R248–R261): a command starts, a matrix command completes, a channel reaches a
page, delivers, pauses, stops or completes. -/
namespace Sys2Proof.Machine

/-! ### Matrix commands (R252–R255) -/

/-- Word n of an accumulator: row n / 32, column n % 32. -/
def accWord (a : AccData) (n : Nat) : Nat := a.toNat / 2 ^ (32 * n) % 2 ^ 32

/-- An accumulator from its words. -/
def accOfWords (f : Nat → Nat) : AccData :=
  BitVec.ofNat 32768 ((List.range 1024).foldr (fun i n => f i % 2 ^ 32 + 2 ^ 32 * n) 0)

/-- The first n elements of w bits of a row. -/
def rowEls (x : CoreUnit) (off w n bytes : Nat) : List Nat :=
  let r := Memory.readN x.sp off bytes
  (List.range n).map fun i => r / 2 ^ (w * i) % 2 ^ w

/-- The rows of a tile. -/
def tileRows (x : CoreUnit) (off stride rows w n bytes : Nat) : List (List Nat) :=
  (List.range rows).map fun i => rowEls x (off + stride * i) w n bytes

/-- A column of a tile's rows. -/
def column (rows : List (List Nat)) (j : Nat) : List Nat := rows.map fun r => r.getD j 0

/-- An accumulator after an MMA (R171, R252). -/
def mmaOf (x : CoreUnit) (t : MTy) (sat nx : Bool) (acc : AccData) (a sa b sb : Nat) : AccData :=
  let sh := shapeOf t
  let ar := tileRows x a sa 32 sh.w sh.k sh.ra
  let br := tileRows x b sb sh.k sh.w 32 sh.rb
  let f : Fmt := match t with
    | .f16 => .f16 | .bf16 => .bf16 | .e4m3 => .e4m3 nx | .e5m2 => .e5m2 | _ => .f32
  accOfWords fun n =>
    let row := ar.getD (n / 32) []
    let col := column br (n % 32)
    if t == .int8 then accumulateI sat (accWord acc n) row col else accumulateF f sh.g (accWord acc n) row col

/-- An accumulator after an MMA of BX4 (R163, R171, R251). -/
def mmaBOf (x : CoreUnit) (acc : AccData) (a sa b sb e0 e1 : Nat) : AccData :=
  let ar := tileRows x a sa 32 4 128 64
  let br := tileRows x b sb 128 4 32 16
  accOfWords fun n =>
    let i := n / 32
    let j := n % 32
    let s0 := (List.range 4).map fun k => Memory.readN x.sp (e0 + 16 * i + 4 * k) 4
    let s1 := (List.range 4).map fun k => Memory.readN x.sp (e1 + 128 * k + 4 * j) 4
    accumulateB (accWord acc n) (ar.getD i []) (column br j) s0 s1

/-- The bytes of words of n bytes each. -/
def packEls (n : Nat) (xs : List Nat) : List Byte := xs.flatMap fun x => bytesOf n x

/-- MSTA of one row (R254): its bytes, and the scale of BX4. -/
def storeRow (t : StTy) (sat nx : Bool) (ws : List Nat) : List Byte × Option Nat :=
  match t with
  | .i32 | .f32 => (packEls 4 ws, none)
  | .bf16 => (packEls 2 (ws.map fun w => (convertF .f32 .bf16 .rne false w).bits), none)
  | .e4m3 => (packEls 1 (ws.map fun w => (convertF .f32 (.e4m3 nx) .rne sat w).bits), none)
  | .bx4 =>
    let (sc, cs, _) := quantBX4 ws
    (packEls 1 ((List.range 16).map fun n => cs.getD (2 * n) 0 + 16 * cs.getD (2 * n + 1) 0), some sc)

/-- A core's scratchpad after an MSTA (R254): rows ascending; full bits stay. -/
def mstaOf (x : CoreUnit) (t : StTy) (sat nx : Bool) (acc : AccData) (a sa c : Nat) : CoreUnit :=
  (List.range 32).foldl (fun x i =>
    let (bs, sc) := storeRow t sat nx ((List.range 32).map fun j => accWord acc (32 * i + j))
    let x := spWrite x (a + sa * i) bs
    match sc with
    | some v => spWrite x (c + 4 * i) (bytesOf 4 v)
    | none => x) x

/-- Lanes that MOVA reads (R255). -/
def movaOf (acc : AccData) (r : Nat) : Vec := vecOf 32 ((List.range 16).map fun n => accWord acc (32 * (r / 2) + 16 * (r % 2) + n))

/-- A matrix command takes effect. A poisoned scratchpad word gives it the bytes it holds, since R264 has it stop on nothing: the model's
choice (log 69). An accumulator that MLDA loads holds the words as they are, a signalling NaN's too (log 65). -/
def State.matrixDo (s : State) (u : UnitRef) (k : MCmd) : State :=
  let x := s.unit u
  let acc (d : Nat) : AccData := NMap.getD x.acc d 0
  let put (d : Nat) (a : AccData) : State := s.setUnit u { x with acc := NMap.set x.acc d a }
  match k.op with
  | .mma t sat nx d a sa b sb => put d (mmaOf x t sat nx (acc d) a sa b sb)
  | .bx4 d a sa b sb e0 e1 => put d (mmaBOf x (acc d) a sa b sb e0 e1)
  | .zero d => put d 0
  | .lda d a sa => put d (accOfWords fun n => Memory.readN x.sp (a + sa * (n / 32) + 4 * (n % 32)) 4)
  | .sta t sat nx d a sa c => s.setUnit u (mstaOf x t sat nx (acc d) a sa c)
  | .mova d r v => s.modSid k.sid fun t => t.wrV v (movaOf (acc d) r)

/-- MATRIX_COMMAND_COMPLETE (R248): the running command takes effect and is done. -/
def execMatrixCommandComplete (u : UnitRef) (s : State) : Host.Outcome State Fault Refusal :=
  match (s.unit u).mrun with
  | none => .next s
  | some k =>
    let s := (s.matrixDo u k).modUnit u fun x => { x with mrun := none }
    .next (s.modSid k.sid fun t => { t with cmds := t.cmds.filter fun c => c.id != k.id })

/-! ### Copy commands: what they move (R259–R261) -/

/-- Bytes a command delivers. -/
def COp.total : COp → Nat
  | .cpy _ _ n => n
  | .fill _ _ n => n
  | .cpy2 _ _ rows _ _ n => rows * n
  | .cpyg _ _ _ rows _ n => rows * n

/-- The destination base. -/
def COp.base : COp → Word
  | .cpy d _ _ => d
  | .fill d _ _ => d
  | .cpy2 d _ _ _ _ _ => d
  | .cpyg d _ _ _ _ _ => d

/-- The destination address of byte `pos` of the command, and the bytes left of its row. An address past 2^64 wraps: the model's choice
(log 69). -/
def COp.dst : COp → Nat → Word × Nat
  | .cpy d _ n, pos => (d + BitVec.ofNat 64 pos, n - pos)
  | .fill d _ n, pos => (d + BitVec.ofNat 64 pos, n - pos)
  | .cpy2 d _ _ _ ds n, pos => (d + BitVec.ofNat 64 (pos / n) * ds + BitVec.ofNat 64 (pos % n), n - pos % n)
  | .cpyg d _ _ _ _ n, pos => (d + BitVec.ofNat 64 pos, n - pos % n)

/-- The address of the index that byte `pos` needs (R261). -/
def COp.index : COp → Nat → Option Word
  | .cpyg _ _ idx _ _ n, pos => some (idx + BitVec.ofNat 64 (4 * (pos / n)))
  | _, _ => none

/-- The source address of byte `pos`, given its index; none for a fill. -/
def COp.src : COp → Nat → Nat → Option Word
  | .cpy _ a _, pos, _ => some (a + BitVec.ofNat 64 pos)
  | .fill .., _, _ => none
  | .cpy2 _ a _ ss _ n, pos, _ => some (a + BitVec.ofNat 64 (pos / n) * ss + BitVec.ofNat 64 (pos % n))
  | .cpyg _ a _ _ ss n, pos, i => some (a + BitVec.ofNat 64 i * ss + BitVec.ofNat 64 (pos % n))

/-- Two addresses lie in one kind of memory: device-paged, the host window, or scratchpads. -/
def sameKind (a d : Word) : Bool := regionOf a == regionOf d || (isScratch a && isScratch d)

/-- The source and the destination of a command may overlap (R257), by whatever addresses they are named. -/
def COp.overlaps : COp → Bool
  | .cpy d a _ => sameKind a d
  | .fill .. => false
  | .cpy2 .. => true
  | .cpyg .. => true

/-! ### A channel at a page (R92, R258) -/

/-- The rights a command captured. -/
def CCmd.who (k : CCmd) (u : UnitRef) (c : Channel) : Who :=
  ⟨udie u, u, u, k.part, k.lcore, k.launch, k.dom, k.frames, c.wf⟩

/-- Where a range of a command's lies, checked with given rights; the sections of another core are checked at once. A core of another
package (R258) fails as a core that is not valid does, with ERR 0x13: the model's choice (log 69). -/
def State.engPlace (s : State) (w : Who) (va : Word) (n : Nat) (acc : Acc) : Except AStop Place :=
  match s.place w va n acc with
  | .ok (.far pkg pcore l off) =>
    if pkg != s.pkgNo then .error (.trap cTARGET)
    else if checkSect (.core pcore) (s.unit (.core pcore)) off n acc w.dom then .ok (.far pkg pcore l off)
    else .error (.trap cRIGHTS)
  | r => r

/-- What a channel captures of section n of a unit (R92, R95). -/
def State.sectReached (s : State) (u : UnitRef) (off : Nat) : Reached :=
  let x := s.unit u
  .sect (ukey u) (off / 65536) (x.sect.toList.getD (off / 65536) 0) (x.mort[0].map (·.tag)) (x.mort[1].map (·.tag))

/-- A unit with the tags that a channel has captured of section n: its own, or those of the mortises (R94, R95). -/
def reachedUnit (u : UnitRef) (x : CoreUnit) (n : Nat) (tag : BitVec 10) (m0 m1 : Option Dom) : CoreUnit :=
  let m (old : Option Mort) (t : Option Dom) : Option Mort :=
    match old, t with
    | some k, t => some { k with tag := t.getD 0 }
    | none, t => t.map fun t => ⟨0, 0, 0, t, .landed⟩
  if n + 1 = spSize u x / 65536 then { x with mort := #v[m x.mort[0] m0, m x.mort[1] m1] }
  else if h : n < 32 then { x with sect := x.sect.set n tag } else x

/-- The state as a channel checks against it: with what it has captured (R92). -/
def State.asReached (s : State) (at_ : List Reached) : State :=
  at_.foldl (fun s r => match r with
    | .page e => { s with tlb := e :: s.tlb }
    | .sect u n tag m0 m1 => s.modUnit (uref u) fun x => reachedUnit (uref u) x n tag m0 m1) s

/-- Where a range of a channel's command lies, checked with what the command and the channel have captured. -/
def State.chanPlace (s : State) (u : UnitRef) (k : CCmd) (c : Channel) (va : Word) (n : Nat) (acc : Acc) : Except AStop Place :=
  (s.asReached c.at_).engPlace (k.who u c) va n acc

/-- What a command of a unit captures as it reaches the page or section of a range that passes (R92), beside what it has captured. -/
def State.reachOf (s : State) (u : UnitRef) (part : Nat) (at_ : List Reached) (va : Word) (p : Place) : List Reached :=
  let s := s.asReached at_
  match p with
  | .mem .. => ((s.tlb.find? fun e => e.die == udie u && e.part == part && e.vpage == va.toNat / 65536).map .page).toList
  | .own off => [s.sectReached u off]
  | .far _ pcore _ off => [s.sectReached (.core pcore) off]
  | .host .. => []

/-- Read n bytes at a place: nothing where they are poisoned. -/
def State.engRead (s : State) (u : UnitRef) (part : Nat) (p : Place) (n : Nat) : State × Option (List Byte) :=
  match p with
  | .mem _ pa =>
    let (s, bs, bad) := s.homeReadBytes (some part) pa n 3
    (s, if bad then none else some bs)
  | .host hpa _ => (s, some (Memory.readBytes s.hostMem hpa n))
  | .own off =>
    let x := s.unit u
    (s, if spPoisoned x off n then none else some (Memory.readBytes x.sp off n))
  | .far _ pcore _ off =>
    let x := s.unit (.core pcore)
    (s, if spPoisoned x off n then none else some (Memory.readBytes x.sp off n))

/-- A change of a channel. -/
def State.modChan (s : State) (u : UnitRef) (ch : Fin 4) (f : Channel → Channel) : State :=
  s.modUnit u fun x => { x with chan := x.chan.set ch (f x.chan[ch]) }

/-- A command stops (R258): its report goes to the issuing strand. -/
def State.chanStop (s : State) (u : UnitRef) (ch : Fin 4) (k : CCmd) (err : Nat) : State :=
  let s := s.modChan u ch fun c => { c with cmd := none, faults := [], wf := [], ready := false, err := err, old := [], at_ := [] }
  s.modSid k.sid fun t =>
    let cites := match t.cmds.find? fun x => x.id == k.id with
      | some x => x.cites
      | none => none
    { t with
      cmds := t.cmds.map fun x => if x.id == k.id then { x with st := .stopped err } else x
      reports := t.reports ++ [⟨ch, err, cites⟩] }

/-- A channel pauses on a page that is not present (R258, R324). -/
def State.chanPause (s : State) (u : UnitRef) (ch : Fin 4) (k : CCmd) (va : Word) (acc : Acc) (f : WalkFault) (host : Bool) : State :=
  let vf := s.vfOf k.part
  let a := f.acc.getD acc.faultCode
  let (s, id) := s.raiseFault
    { id := 0, fid := none, die := udie u, vf := vf, part := k.part, stage := f.stage, host := host, who := .chan u ch
      launch := k.launch, lanes := 0, acc := acc.faultCode
      words := #v[va, f.ipa, 0, faultWord3 a f.stage f.level f.mal host true ch.val false k.part vf, k.issuer, 0] }
  s.modChan u ch fun c => { c with faults := [id], wf := [], ready := false, at_ := [] }

/-- A channel forgets the translation that it has captured of a page. -/
def Channel.forget (c : Channel) (va : Word) : Channel :=
  { c with ready := false, at_ := c.at_.filter fun r => match r with
      | .page e => e.vpage != va.toNat / 65536
      | .sect .. => true }

/-- What a failed check of a channel does: a stop, a walk or an ATS request, or a pause. -/
def State.chanFail (s : State) (u : UnitRef) (ch : Fin 4) (k : CCmd) (va : Word) (acc : Acc) : AStop → State
  | .trap cause => s.chanStop u ch k (if cause = cTARGET || cause = cPOISON then cause else cRIGHTS)
  | .miss =>
    if regionOf va == .host then
      match s.fnPasid k.launch with
      | some (fn, pasid) => (s.startAts (udie u) fn pasid (va.toNat % 2 ^ 53) (.chan u ch)).1
      | none => s.chanStop u ch k cRIGHTS
    else ((s.modChan u ch fun c => c.forget va).startWalk (udie u) k.part va acc.writes (.chan u ch)).1
  | .absent f host => s.chanPause u ch k va acc f host

/-- Bytes of the next delivery: to the end of the destination's line, of its row, and of the source's line. -/
def COp.pieces (o : COp) (pos i : Nat) : Nat × Nat :=
  let (d, rem) := o.dst pos
  let n := min (128 - d.toNat % 128) rem
  match o.src pos i with
  | some a => (n, min n (128 - a.toNat % 128))
  | none => (n, n)

/-- The index that byte `pos` of a channel's command needs, with what is captured of its page; or how the channel fails. -/
def State.engIndex (s : State) (u : UnitRef) (ch : Fin 4) (k : CCmd) (c : Channel) : Except State (State × Nat × List Reached) :=
  match k.op.index c.pos with
  | none => .ok (s, 0, [])
  | some va =>
    match s.chanPlace u k c va 4 .read with
    | .error e => .error (s.chanFail u ch k va .read e)
    | .ok p =>
      let got := s.reachOf u k.part c.at_ va p
      let (s, bs) := s.engRead u k.part p 4
      match bs with
      | some bs => .ok (s, natOfBytes bs, got)
      | none => .error (s.chanStop u ch k cPOISON)

/-- The command reads a source. -/
def COp.reads : COp → Bool
  | .fill .. => false
  | _ => true

/-- A copy command of a partition that is STOPPED stands still, but for a service strand's (R79, R355). -/
def State.chanStands (s : State) (k : CCmd) : Bool := s.stands k.part (k.launch == 0)

/-- Accesses that the issuing strand has made before the command are still to be performed: loads, atomics and ADECs, and, where it reads a
source, stores and matrix commands (R249, R257). -/
def State.copyWaits (s : State) (k : CCmd) : Bool :=
  (match s.findSid k.sid with
    | some (_, t) => (t.lates.any fun x => x.id < k.id && !x.todo.isEmpty) ||
      (k.op.reads && t.cmds.any fun x => x.id < k.id && x.kind == .matrix && x.st == .live)
    | none => false) ||
  (k.op.reads &&
    (s.units.any (fun e => e.2.sb.any fun x => x.id < k.id && x.sid == k.sid) ||
      s.homeReqs.any (fun e => e.1 < k.id && e.2.sid == k.sid) ||
      s.flights.any (fun e => e.1 < k.id && (match e.2 with
        | .access i _ _ _ _ _ _ _ => i == k.sid
        | .hostStore i _ _ _ => i == k.sid
        | _ => false))))

/-- The pages and sections that come next for a channel, each checked with the captured rights (R92, R258): what is captured of them, or
how the channel fails. -/
def State.reachNext (s : State) (u : UnitRef) (ch : Fin 4) (k : CCmd) (c : Channel) : Except State (State × List Reached) := do
  let (s, i, r0) ← s.engIndex u ch k c
  let (n, n1) := k.op.pieces c.pos i
  let one (va : Word) (n : Nat) (acc : Acc) : Except State (List Reached) :=
    match s.chanPlace u k c va n acc with
    | .ok p => .ok (s.reachOf u k.part c.at_ va p)
    | .error e => .error (s.chanFail u ch k va acc e)
  let r1 ← match k.op.src c.pos i with
    | none => .ok []
    | some a => one a n1 .read
  let r2 ← one (k.op.dst c.pos).1 n .write
  return (s, r0 ++ r1 ++ r2)

/-- COPY_PAGE_REACH (R92, R257, R258): the pages and sections that come next are translated, checked and captured; a channel keeps what it
has captured of those that it has reached before. It comes after what the issuing strand has done before the command. -/
def execCopyPageReach (u : UnitRef) (ch : Fin 4) (s : State) : Host.Outcome State Fault Refusal :=
  let c := (s.unit u).chan[ch]
  match c.cmd with
  | none => .next s
  | some k =>
    if c.ready || !c.faults.isEmpty || k.op.total ≤ c.pos || s.chanStands k then .next s
    else
      let s := if k.op.reads then s.drainSid u k.sid else s
      if s.copyWaits k then .next s
      else
        .next (match s.reachNext u ch k c with
          | .error s => s
          | .ok (s, at_) => s.modChan u ch fun c => { c with ready := true, at_ := at_ })

/-! ### Delivery (R256, R257) -/

/-- A byte's place as one number, whatever address names it: device memory, the host's, or a scratchpad. -/
def Place.key (u : UnitRef) : Place → Nat
  | .mem _ pa => pa
  | .host hpa _ => 2 ^ 62 + hpa
  | .own off => 2 ^ 63 + ukey u * 2 ^ 22 + off
  | .far _ pcore _ off => 2 ^ 63 + ukey (.core pcore) * 2 ^ 22 + off

/-- Bytes with their places, from a place on. -/
def keyed (k : Nat) (bs : List Byte) : List (Nat × Byte) := bs.zipIdx.map fun e => (k + e.2, e.1)

/-- Source bytes as the engine reads them: one that the command has overwritten, in an earlier delivery or before it in this one, which
starts at place `dst`, has its value from before the command or the one written; which is left open (R257, log 3). -/
def mixOld (old : NMap Byte) (dst ctr : Nat) (bs : List (Nat × Byte)) : List Byte :=
  bs.zipIdx.foldl (fun out e =>
    let other := match NMap.find old e.1.1 with
      | some o => some o
      | none => if dst ≤ e.1.1 && e.1.1 < dst + e.2 then out[e.1.1 - dst]? else none
    out ++ [match other with
      | some o => if Config.freeBool (ctr + e.2) then o else e.1.2
      | none => e.1.2]) []

/-- The source bytes of a delivery of up to n bytes with their places, n1 of them in the first line; nothing where the first line is
poisoned. A second line that is poisoned, whose check fails, or that lies in the next page or section, which the channel has still to reach
(R92), ends the delivery before it. -/
def State.engSource (s : State) (u : UnitRef) (k : CCmd) (c : Channel) (a : Word) (n n1 : Nat) :
    Except AStop (State × Option (List (Nat × Byte))) :=
  match s.chanPlace u k c a n1 .read with
  | .error e => .error e
  | .ok p =>
    let (s, b1) := s.engRead u k.part p n1
    match b1.map (keyed (p.key u)) with
    | none => .ok (s, none)
    | some b1 =>
      let a2 := a + BitVec.ofNat 64 n1
      if n1 = n || pageKey a2 != pageKey a then .ok (s, some b1)
      else
        match s.chanPlace u k c a2 (n - n1) .read with
        | .error _ => .ok (s, some b1)
        | .ok p2 =>
          let (s, b2) := s.engRead u k.part p2 (n - n1)
          match b2 with
          | some b2 => .ok (s, some (b1 ++ keyed (p2.key u) b2))
          | none => .ok (s, some b1)

/-- The bytes that a command has still to deliver from byte `pos` on, as ranges of addresses that wrap at 2^64. -/
def COp.rest : COp → Nat → List (Nat × Nat)
  | .cpy2 d _ rows _ ds n, pos => (List.range (rows - pos / n)).map fun j =>
      let o := if j = 0 then pos % n else 0
      ((d + BitVec.ofNat 64 (pos / n + j) * ds + BitVec.ofNat 64 o).toNat, n - o)
  | o, pos => [((o.base + BitVec.ofNat 64 pos).toNat, o.total - pos)]

/-- A range of addresses that wraps at 2^64 has a byte of the 8 from an address on. -/
def meetsWord (r : Nat × Nat) (a : Nat) : Bool := 0 < r.2 && ((a + 2 ^ 64 - r.1) % 2 ^ 64 < r.2 || (r.1 + 2 ^ 64 - a) % 2 ^ 64 < 8)

/-- The scratchpad words of a delivery that are complete: no later byte of the command lies in them (R257). -/
def doneWords (off n : Nat) (va : Word) (rest : List (Nat × Nat)) : List Nat :=
  let first := off / 8
  let last := (off + n - 1) / 8
  ((List.range (last - first + 1)).map (first + ·)).filter fun w =>
    !rest.any fun r => meetsWord r ((va.toNat + 2 ^ 64 - off % 8 + 8 * (w - first)) % 2 ^ 64)

/-- Write a delivery at its place; none where the home has to wait (R77, R285). A word that becomes full serves what waits for it (R231). -/
def State.engWrite (s : State) (u : UnitRef) (k : CCmd) (p : Place) (va : Word) (bs : List Byte) (rest : List (Nat × Nat)) :
    Except State State :=
  let n := bs.length
  let sp (v : UnitRef) (off : Nat) : State :=
    let ws := doneWords off n va rest
    let s := s.modUnit v fun x => ws.foldl (fun x w => setFull x w true) (spWrite x off bs)
    ws.foldl (fun s w => s.serveFull v w) s
  match p with
  | .own off => .ok (sp u off)
  | .far _ pcore _ off => .ok (sp (.core pcore) off)
  | .host hpa _ => .ok (s.writeHost hpa bs)
  | .mem _ pa =>
    let line := lineOf pa
    let mask := byteMask (pa % 128) n
    if s.pushHeld line then .error s
    else if s.hostHas line mask then .error (s.recall line mask)
    else
      let s := s.homeWrite (some k.part) [k.sid] line mask (linePut (pa % 128) n (natOfBytes bs))
      let s := (s.atHomeSeen u line).modUnit u fun x => dropLine x line
      .ok (match s.findSid k.sid with
        | some (c, t) => s.setStrand c (sigStore t pa)
        | none => match paKind pa with
          | .mem => s.modLaunch k.launch fun l => { l with csig := sigAdd l.csig line }
          | _ => s)

/-- The bytes at a place before they are overwritten. -/
def State.engOld (s : State) (u : UnitRef) (p : Place) (n : Nat) : List Byte :=
  match p with
  | .mem _ pa => Memory.readBytes s.mem pa n
  | .host hpa _ => Memory.readBytes s.hostMem hpa n
  | .own off => Memory.readBytes (s.unit u).sp off n
  | .far _ pcore _ off => Memory.readBytes (s.unit (.core pcore)).sp off n

/-- COPY_DELIVERY (R256, R257): the next bytes, in rising destination address, each checked with the captured rights, translations and tags
(R92, R258). A page whose translation has gone since it was reached is reached again. -/
def execCopyDelivery (u : UnitRef) (ch : Fin 4) (s : State) : Host.Outcome State Fault Refusal :=
  let c := (s.unit u).chan[ch]
  match c.cmd with
  | none => .next s
  | some k =>
    if !c.ready || k.op.total ≤ c.pos || s.chanStands k then .next s
    else
      let again (s : State) : Host.Outcome State Fault Refusal := .next (s.modChan u ch fun c => { c with ready := false })
      let fail (s : State) (va : Word) (acc : Acc) (e : AStop) : Host.Outcome State Fault Refusal := match e with
        | .trap _ => .next (s.chanFail u ch k va acc e)
        | _ => again s
      match s.engIndex u ch k c with
      | .error _ => again s
      | .ok (s, i, _) =>
        let (n, n1) := k.op.pieces c.pos i
        let d := (k.op.dst c.pos).1
        let src : Except (Word × AStop) (State × Option (List (Nat × Byte))) := match k.op, k.op.src c.pos i with
          | .fill _ pat _, _ =>
            .ok (s, some (keyed 0 ((List.range n).map fun j => BitVec.ofNat 8 (pat.toNat / 2 ^ (8 * ((d.toNat + j) % 8))))))
          | _, some a => (s.engSource u k c a n n1).mapError fun x => (a, x)
          | _, none => .ok (s, none)
        match src with
        | .error x => fail s x.1 .read x.2
        | .ok (s, none) => .next (s.chanStop u ch k cPOISON)
        | .ok (s, some sb) =>
          match s.chanPlace u k c d sb.length .write with
          | .error x => fail s d .write x
          | .ok p =>
            let bs := if k.op.overlaps then mixOld c.old (p.key u) s.freeCtr sb else sb.map Prod.snd
            let s := { s with freeCtr := s.freeCtr + bs.length }
            let pos := c.pos + bs.length
            let next := if pos < k.op.total then some (k.op.dst pos).1 else none
            let before := if k.op.overlaps then s.engOld u p bs.length else []
            match s.engWrite u k p d bs (if pos < k.op.total then k.op.rest pos else []) with
            | .error s => .next s
            | .ok s =>
              let same := match next, k.op.src c.pos i, k.op.src pos i with
                | some x, some a, some b => k.op.index pos == k.op.index c.pos && pageKey x == pageKey d && pageKey a == pageKey b
                | some x, none, none => pageKey x == pageKey d
                | _, _, _ => false
              let s := s.modChan u ch fun c => { c with
                pos := pos, ready := same, wptr := d + BitVec.ofNat 64 bs.length
                old := (before.zipIdx).foldl (fun (m : NMap Byte) e =>
                  if (NMap.find m (p.key u + e.2)).isSome then m else NMap.set m (p.key u + e.2) e.1) c.old }
              .next (s.modSid k.sid fun t =>
                { t with cmds := t.cmds.map fun x => if x.id == k.id then { x with bytes := pos } else x })

/-- COPY_COMPLETE (R256): every byte has been delivered. -/
def execCopyComplete (u : UnitRef) (ch : Fin 4) (s : State) : Host.Outcome State Fault Refusal :=
  let c := (s.unit u).chan[ch]
  match c.cmd with
  | none => .next s
  | some k =>
    if c.pos < k.op.total then .next s
    else
      let s := s.modChan u ch fun c => { c with cmd := none, faults := [], wf := [], ready := false, old := [], at_ := [] }
      .next (s.modSid k.sid fun t => { t with
        cmds := t.cmds.map fun x => if x.id == k.id then { x with st := .done, bytes := k.op.total } else x })

/-! ### Starting a command (R248) -/

/-- ENGINE_COMMAND_START (R248): the head of a queue starts on the matrix engine, or on the channel it names. -/
def execEngineCommandStart (u : UnitRef) (e : Engine) (s : State) : Host.Outcome State Fault Refusal :=
  let x := s.unit u
  match e with
  | .matrix =>
    match x.mrun, x.mq with
    | none, k :: ks => .next (s.setUnit u { x with mrun := some k, mq := ks })
    | _, _ => .next s
  | .copy =>
    match x.cq with
    | [] => .next s
    | k :: ks =>
      if x.chan[k.ch].cmd.isSome then .next s
      else
        let s := s.modUnit u fun x => { x with cq := ks }
        .next (s.modChan u k.ch fun _ => ⟨some k, 0, [], [], false, k.op.base, 0, [], []⟩)

end Sys2Proof.Machine
end

