-- ==== Sys2Proof/Machine/Class6.lean ====
section
/-! DEFINITION. Class 6 (R289–R313): SPAWN, barriers and timed waits, messages and deposits, virtual time, and the instructions
that make, change, ship and retire capsules. -/
namespace Sys2Proof.Machine

/-! ### Starting work (R291) -/

/-- A refused request writes its code to REJECT (R290). -/
def Strand.refused (t : Strand) (code : Nat) : Strand := { t with reject := BitVec.ofNat 8 code }

/-- SPAWN (R291). The push acquires at PKG scope on the counter's line (R241). -/
def execSpawn (h : Hd) (a : SSrc) (s : State) : Host.Outcome State Fault Refusal :=
  issue (op h 8 (SSrc.src a)) (fun e => do
    let va := e.r.gS a
    match ← e.access va 32 32 .both .adec with
    | .mem l pa =>
      let s ← e.release e.s .pkg
      let s := s.closed e.c.unit e.o.sid
      if e.lineHeld pa 32 then .error (.hold s e.o (.home (lineOf pa)))
      else
        let s ← e.settleLine s pa 8
        let (s, d, hit) := s.homeRead (some e.o.part) (lineOf pa)
        if hit != .ok then .error (.trap cPOISON 3 va 0 0)
        else
          let r := bytesOf 32 (lineGet d (pa % 128) 32)
          if wordIn r 0 != 0 then return (s, e.w.refused 2, .seq)
          else
            let s := s.atHome e.o.part (lineOf pa) e.w.wsig l.sync
            let s := s.pushRecord e.o.part (utile e.c.unit) e.o.launch e.o.vtime pa va (wordIn r 8) (wordIn r 16) (wordIn r 24)
              none (some (s.acqInfo (lineOf pa) l.sync))
            return (s, { e.w with wsig := 0 }, .seq)
    | _ => .error (.trap cRIGHTS 3 va 0 0)) s

/-! ### Barriers (R292–R294) -/

/-- The strand may arrive at a barrier of a level: the launch's BARS has the level, and the strand holds a position (R290). -/
def Env.barOk (e : Env) (lvl : Scope) : Bool :=
  e.o.barPos && (match e.s.launch e.o.launch with
    | some l => l.pkt.bars.getLsbD lvl.code
    | none => false)

/-- CYCLE of the strand's island (R131). -/
def Env.cycle (e : Env) : Nat := (e.s.island (uisland e.home)).cycle

/-- Arrive, and wait for the phase or for a limit. -/
def Env.arrive (e : Env) (lvl : Scope) (limit : Option Nat) : Res :=
  .error (.hold e.s { e.o with arrived := some lvl, limit := limit.map (e.cycle + ·) } .barrier)

/-- BAR (R293): a refused one goes on at once. -/
def execBar (h : Hd) (lvl : Scope) (s : State) : Host.Outcome State Fault Refusal :=
  issue (op h 8 []) (fun e =>
    match e.o.res with
    | some _ => .ok (e.s, e.w, .seq)
    | none => if e.barOk lvl then e.arrive lvl none else .ok (e.s, e.w.refused 1, .seq)) s

/-- BARW (R294): D is 0 when the phase completed, 1 when the limit passed first, 2 when refused. -/
def execBarw (h : Hd) (lvl : Scope) (d : Fin 32) (b : SB) (s : State) : Host.Outcome State Fault Refusal :=
  issue (op h 8 (SB.src b)) (fun e =>
    match e.o.res with
    | some r => .ok (e.s, e.w.wrS d (BitVec.ofNat 64 r), .seq)
    | none =>
      if e.barOk lvl then e.arrive lvl (some (e.r.gSBu b).toNat)
      else .ok (e.s, (e.w.refused 1).wrS d 2, .seq)) s

/-! ### WAITF (R295) -/

/-- Wait in place, with the limit that the first issue set. -/
def Env.waitUntil (e : Env) (s : State) (t : Strand) (limit : Nat) (h : Hold) : Res :=
  .error (.hold s { t with limit := some (e.o.limit.getD (e.cycle + limit)) } h)

/-- WAITF of a word in a bank of this package; a bit that was set while it waited has ended the wait, whatever became of the bit since. One
of the own bank comes after the core's earlier accesses there (R268). -/
def Env.waitBit (e : Env) (u : UnitRef) (off : Nat) (d : Fin 32) (limit : Nat) : Res :=
  if e.o.seen.isNone && u == e.home && e.ownHeld then .error (.hold e.s e.o .port)
  else if e.o.seen.isSome || fullBit (e.s.unit u) (off / 8) then .ok (e.s, e.w.wrS d 0, .seq)
  else e.waitUntil e.s e.o limit (.timed (some (ukey u, off / 8)))

/-- WAITF (R295). The section is checked once, when the wait begins; a word in another package's core is asked for there (R281). -/
def execWaitf (h : Hd) (d : Fin 32) (a : SSrc) (b : SB) (s : State) : Host.Outcome State Fault Refusal :=
  issue (op h 8 (SSrc.src a ++ SB.src b)) (fun e =>
    let va := e.addrOf (e.r.gS a)
    let lim := (e.r.gSBu b).toNat
    let w := if e.o.limit.isSome then (who e.c e.o).asZero else who e.c e.o
    match e.o.res with
    | some r => .ok (e.s, e.w.wrS d (BitVec.ofNat 64 r), .seq)
    | none =>
      match e.s.check w va 8 8 .read .full with
      | .error x => .error (e.s.stopAcc e.c e.o va .read x)
      | .ok (.own off) => e.waitBit e.home off d lim
      | .ok (.far pkg pcore l off) =>
        if pkg == e.s.pkgNo then
          if checkSect (.core pcore) (e.s.unit (.core pcore)) off 8 .read w.dom then e.waitBit (.core pcore) off d lim
          else .error (.trap cRIGHTS 1 va 0 0)
        else
          match e.o.rem with
          | [] =>
            let (id, s) := e.s.fresh
            let s := { s with flights := NMap.set s.flights id (.access e.o.sid 0 pkg pcore l va e.o.dom (.ldf 8)) }
            e.waitUntil s { e.o with rem := [⟨0, id, va, none⟩] } lim (.timed none)
          | r :: _ =>
            match r.reply with
            | none => e.waitUntil e.s e.o lim (.timed none)
            | some (.ok _) | some .poison => .ok (e.s, e.w.wrS d 0, .seq)
            | some .rights => .error (.trap cRIGHTS 1 va 0 0)
            | some .target => .error (.trap cTARGET 1 va 0 0)
      | .ok _ => .error (.trap cRIGHTS 1 va 0 0)) s

/-! ### Messages and deposits (R296, R300, R303) -/

/-- The timestamp of what a strand sends (R303). -/
def Env.stamp (e : Env) : Nat := if e.s.isDet e.o.launch then e.o.vtime + 1 else 0

/-- Something of the strand's is on its way and not yet acknowledged (R282). -/
def Strand.sent (t : Strand) : Strand := { t with unack := t.unack + 1 }

/-- A valid logical core of the partition (R69): where it is. -/
def Env.target (e : Env) (l : Nat) : Except Stop (Nat × Nat) :=
  match e.s.coreAt e.o.part l with
  | some p => .ok p
  | none => .error (.plain cTARGET)

/-- o0–o3, the words of a message (R296). -/
def msgSrc : Srcs := [(.s 8, false), (.s 9, false), (.s 10, false), (.s 11, false)]

/-- The message of a SEND. One count numbers what is sent, and so what any one sender sends (R304). -/
def Env.message (e : Env) (t : Nat) (entry : Word) : Message where
  words := #v[e.r.rdS 8, e.r.rdS 9, e.r.rdS 10, e.r.rdS 11]
  entry := entry
  key := e.redKey
  launch := e.o.launch
  nx := e.o.nx
  dom := e.o.dom
  ts := e.stamp
  born := e.o.born
  seq := e.s.nextId
  part := e.o.part
  target := t
  i4 := BitVec.ofNat 64 e.redKey
  miss := none

/-- The function that a strand's launch belongs to (R44, R299). -/
def Env.fnOf (e : Env) : Nat := e.s.launchFn e.o.launch e.o.part

/-- SEND (R296, R299, R362): to a core's inbox, to a host service queue of the launch's function, or to a collective. -/
def execSend (h : Hd) (a c : SSrc) (off : BitVec 32) (s : State) : Host.Outcome State Fault Refusal :=
  issue (op h 12 (SSrc.src a ++ SSrc.src c ++ msgSrc)) (fun e => do
    let t := (e.r.gS a).toNat
    let entry := e.o.pc + imm32 off * 4
    let g := (e.r.gS c).toNat
    let m := e.message t entry
    if t / 2 ^ 18 != 0 then .error (.plain cTARGET)
    else
      let place ← if t < 0x3_FF00 then e.target t else .ok (0, 0)
      let f : Flight :=
        if g != 0 then .collective e.o.sid (g % 2 ^ 16) (g / 2 ^ 16 % 256) t m
        else if t ≥ 0x3_FF00 then .hostMsg e.o.sid e.fnOf (t - 0x3_FF00) m
        else .message e.o.sid place.1 place.2 m
      return (e.s.send f, e.w.sent, .seq)) s

/-- POST (R300). -/
def execPost (h : Hd) (a : SSrc) (b : SB) (s : State) : Host.Outcome State Fault Refusal :=
  issue (op h 8 (SSrc.src a ++ SB.src b)) (fun e => do
    let x := (e.r.gS a).toNat
    if x / 2 ^ 24 != 0 then .error (.plain cTARGET)
    else
      let place ← e.target (x % 2 ^ 18)
      let d : Deposit :=
        ⟨0, ⟨x / 2 ^ 21 % 8, Nat.mod_lt _ (by decide)⟩, x / 2 ^ 18 % 8, e.r.gSB b, e.o.nx, e.stamp, e.redKey, e.o.born, e.s.nextId,
          e.o.launch, none⟩
      return (e.s.send (.deposit e.o.sid place.1 place.2 d), e.w.sent, .seq)) s

/-- VTADV (R302): ILLEGAL outside a DET launch. -/
def execVtadv (h : Hd) (b : SB) (s : State) : Host.Outcome State Fault Refusal :=
  issue (op h 8 (SB.src b)) (fun e =>
    if e.s.isDet e.o.launch then
      .ok (e.s, { e.w with vtime := min (2 ^ 64 - 1) (e.w.vtime + (e.r.gSBu b).toNat) }, .seq)
    else .error (.plain cILLEGAL)) s

/-! ### Capsules (R308–R312) -/

/-- The pieces of a range, page by page. -/
def pieces (va : Word) (n : Nat) : Nat → List (Word × Nat)
  | 0 => []
  | fuel + 1 =>
    if n = 0 then []
    else
      let k := min n (65536 - va.toNat % 65536)
      (va, k) :: pieces (va + BitVec.ofNat 64 k) (n - k) fuel

/-- The physical pieces of an image in device memory, each page checked for READ (R86, R308). -/
def Env.image (e : Env) : List (Word × Nat) → Except Stop (List (Nat × Nat))
  | [] => .ok []
  | (va, n) :: ps => do
    match ← e.access va n 1 .read .plain with
    | .mem _ pa =>
      let rest ← Env.image e ps
      return (pa, n) :: rest
    | _ => .error (.trap cRIGHTS 1 va 0 0)

/-- Read the pieces of an image after the strand's earlier accesses to them: its bytes, and whether some were poisoned. -/
def Env.readImage (e : Env) : List (Nat × Nat) → State → Except Stop (State × List Byte × Bool)
  | [], s => .ok (s, [], false)
  | (pa, n) :: ps, s => do
    let s ← s.whenReady e.c e.o pa n false
    let (s, bs, bad) := s.devRead e.c.unit e.o.part pa n
    let (s, rest, bad') ← Env.readImage e ps s
    return (s, bs ++ rest, bad || bad')

/-- FLAGS with the NX of a strand. -/
def Capsule.withNx (c : Capsule) (nx : Bool) : Capsule := c.put 0x1A 1 (c.get 0x1A 1 / 2 * 2 + nx.toNat)

/-- CNEW (R308, R316): the image is read while the context is held. -/
def execCnew (h : Hd) (a : SSrc) (len : BitVec 32) (s : State) : Host.Outcome State Fault Refusal :=
  issue (op h 12 (SSrc.src a)) (fun e => do
    let p := e.r.gS a
    let n := len.toNat
    if p.toNat % 256 != 0 then .error (.trap cALIGN 1 p 0 0)
    else if n % 256 != 0 || n < 256 || n > 16384 then .error (.plain cCAPSULE)
    else
      let ps ← e.image (pieces p (256 + n) 3)
      let (s, bs, bad) ← e.readImage ps e.s
      if bad then .error (.trap cPOISON 1 p 0 0)
      else
        let c : Capsule := ⟨bs.take 256, bs.drop 256, e.o.launch, e.o.part, e.stamp, some (capBy e.c e.o e.o.pc)⟩
        let c := (((c.put 0x1C 4 n).put 0x1B 1 e.o.dom.toNat).withNx e.o.nx).put 0x20 8 0
        return (s.enterFabric c, e.w, .seq)) s

/-- The capsule a strand holds: its mortise and the prefix there, once the core's earlier accesses of its scratchpad are performed (R268). -/
def Env.held (e : Env) : Except Stop (HeldCap × Capsule) :=
  match e.o.cap with
  | none => .error (.plain cCAPSULE)
  | some k =>
    if e.ownHeld then .error (.hold e.s e.o .port)
    else .ok (k, ⟨mortBytes e.home (e.s.unit e.home) k.mort 0 256, [], e.o.launch, e.o.part, 0, none⟩)

/-- CGET (R309): a word of the prefix. -/
def execCget (h : Hd) (d : Fin 32) (b : SB) (s : State) : Host.Outcome State Fault Refusal :=
  issue (op h 8 (SB.src b)) (fun e => do
    let n := (e.r.gSBu b).toNat
    let (k, c) ← e.held
    let off := mortOff e.home (e.s.unit e.home) k.mort.val + 8 * n
    if n > 31 then .error (.plain cCAPSULE)
    else if spPoisoned (e.s.unit e.home) off 8 then .error (.trap cPOISON 1 (BitVec.ofNat 64 (aliasBase + off)) 0 0)
    else return (e.s, e.w.wrS d (BitVec.ofNat 64 (c.get (8 * n) 8)), .seq)) s

/-- The 16 bytes of a stop (R49). -/
def stopBytes (entry place : Word) : List Byte := bytesOf 8 entry.toNat ++ bytesOf 8 place.toNat

/-- Insert a stop at k (R310). -/
def Capsule.insertStop (c : Capsule) (k : Nat) (b : List Byte) : Capsule :=
  ({ c with pfx := (c.pfx.take (0x40 + 16 * k) ++ b ++ c.pfx.drop (0x40 + 16 * k)).take 256 } : Capsule).put 0x18 1 (c.stops + 1)

/-- Delete stop k; the slot that becomes free is zero (R310). -/
def Capsule.deleteStop (c : Capsule) (k : Nat) : Capsule :=
  ({ c with pfx := c.pfx.take (0x40 + 16 * k) ++ c.pfx.drop (0x50 + 16 * k) ++ List.replicate 16 0 } : Capsule).put 0x18 1 (c.stops - 1)

/-- Replace stop k (R310). -/
def Capsule.setStop (c : Capsule) (k : Nat) (b : List Byte) : Capsule :=
  { c with pfx := c.pfx.take (0x40 + 16 * k) ++ b ++ c.pfx.drop (0x50 + 16 * k) }

/-- A change of the itinerary after the running stop (R310): the four failures in their order, then the new prefix. `j` is the
position, `w` the place word where one is given, `req` the requirement on k and STOPS. -/
def Env.rewrite (e : Env) (j : Word) (w : Option Word) (req : Nat → Nat → Bool) (f : Capsule → Nat → Capsule) : Res := do
  let (k, c) ← e.held
  let n := k.stop + 1 + j.toNat
  if e.o.dom.toNat != c.get 0x1B 1 then .error (.plain cCAPSULE)
  else if !req n c.stops then .error (.plain cCAPSULE)
  else if !(match w with | some w => placeOk w.toNat | none => true) then .error (.plain cCAPSULE)
  else
    let s := e.s.modUnit e.home fun x => spWrite x (mortOff e.home x k.mort.val) (f c n).pfx
    return (s, e.w, .seq)

/-- The entry that CINS and CSET name. -/
def Env.stopEntry (e : Env) (off : BitVec 32) : Word := e.o.pc + imm32 off * 4

/-- CINS (R310). -/
def execCins (h : Hd) (a b : SSrc) (off : BitVec 32) (s : State) : Host.Outcome State Fault Refusal :=
  issue (op h 12 (SSrc.src a ++ SSrc.src b)) (fun e =>
    e.rewrite (e.r.gS b) (some (e.r.gS a)) (fun k n => k ≤ n && n < 12)
      fun c k => c.insertStop k (stopBytes (e.stopEntry off) (e.r.gS a))) s

/-- CDEL (R310). -/
def execCdel (h : Hd) (a : SSrc) (s : State) : Host.Outcome State Fault Refusal :=
  issue (op h 8 (SSrc.src a)) (fun e => e.rewrite (e.r.gS a) none (fun k n => k < n) fun c k => c.deleteStop k) s

/-- CSET (R310). -/
def execCset (h : Hd) (a b : SSrc) (off : BitVec 32) (s : State) : Host.Outcome State Fault Refusal :=
  issue (op h 12 (SSrc.src a ++ SSrc.src b)) (fun e =>
    e.rewrite (e.r.gS b) (some (e.r.gS a)) (fun k n => k < n)
      fun c k => c.setStop k (stopBytes (e.stopEntry off) (e.r.gS a))) s

/-- The held capsule as it is read out of its mortise, likewise. -/
def Env.takeOut (e : Env) : Except Stop (HeldCap × Capsule) :=
  match e.o.cap with
  | none => .error (.plain cCAPSULE)
  | some k =>
    let x := e.s.unit e.home
    match x.mort[k.mort] with
    | none => .error (.plain cCAPSULE)
    | some m =>
      if e.ownHeld then .error (.hold e.s e.o .port)
      else .ok (k, mortCapsule e.home x k.mort m (some (capBy e.c e.o e.o.pc)))

/-- CSHIP (R311): the capsule leaves its mortise, once the strand's MSTA have finished (R249). -/
def execCship (h : Hd) (s : State) : Host.Outcome State Fault Refusal :=
  issue (op h 8 []) (fun e => do
    let (k, c) ← e.takeOut
    if k.stop + 1 = c.stops then .error (.plain cCAPSULE)
    else if e.o.matrixBusy then .error (.hold e.s e.o (.command .matrix))
    else
      let c := (c.put 0x19 1 (k.stop + 1)).withNx e.o.nx
      return (e.s.ship { c with ts := e.stamp } (k.stop + 1) (some (ukey e.home, k.mort)), { e.w with cap := none }, .seq)) s

/-- CDONE (R312): the retirement goes on with the rights captured here; the strand continues. -/
def execCdone (h : Hd) (s : State) : Host.Outcome State Fault Refusal :=
  issue (op h 8 []) (fun e => do
    let (k, c) ← e.takeOut
    if e.o.matrixBusy then .error (.hold e.s e.o (.command .matrix))
    else
      let (id, s) := (e.s.modUnit e.home fun x => freeMortise x k.mort).fresh
      let r : Retire := ⟨id, e.o.sid, c, e.o.dom, e.o.frames, 0, 0, [], [], e.home, e.o.lcore, utile e.c.unit, faultWord4 e.c e.o, []⟩
      return ({ s with retires := NMap.set s.retires id r },
        { e.w with cap := none, cmds := e.w.cmds ++ [⟨id, .retire, e.o.citing, .live, 0⟩] }, .seq)) s

end Sys2Proof.Machine
end

