-- ==== Sys2Proof/Machine/Faults.lean ====
section
/-! DEFINITION. Answers to faults (R326, R346, R348), the end of a launch before its work is done (R332, R359), and the events of
section 20: held faults, replies, invalidations, trap migration, ERET's return, saves at safe points, PGRACE and poison. -/
namespace Sys2Proof.Machine

/-! ### Replies (R326) -/

/-- The access code of a trap from that of a fault record (R320, R324). -/
def trapOfFault (acc : Nat) : Nat := acc + 1

/-- The lowest lane of a mask; 64 for none. -/
def lowLane (w : Word) : Nat := ((List.range 64).find? fun i => w.getLsbD i).getD 64

/-- One more denied fault of a park: the lanes add up, and the address is that of the lowest lane. -/
def addDenied (old : Option (Nat × Word × Word)) (acc : Nat) (va lanes : Word) : Option (Nat × Word × Word) :=
  match old with
  | none => some (acc, va, lanes)
  | some (a, v, l) => some (a, if lowLane lanes < lowLane l then va else v, l ||| lanes)

/-- A park whose last reply has come resolves (R326): the access replays, or RIGHTS is raised at the next fetch; a trap that
waited to migrate goes on, or ends the strand where a reply was DENY (R319). -/
def State.resolvePark (s : State) (c : CtxRef) (t : Strand) : State :=
  match t.trap, t.denied with
  | some i, some _ => s.endHandled c t i.cause i.pc true
  | some _, none => s.setStrand c { t with hold := some .trap }
  | none, some _ => s.setStrand c { t with hold := none, saving := none, mask := none }
  | none, none => s.setStrand c { t with hold := none }

/-- One reply reaches a parked strand. -/
def State.replyStrand (s : State) (f : FaultRec) (deny : Bool) (sid : Nat) : State :=
  match s.findSid sid with
  | none => s
  | some (c, t) =>
    let t := { t with
      faults := t.faults.filter (· != f.id)
      denied := if deny then addDenied t.denied (trapOfFault f.acc) f.words[0] f.lanes else t.denied }
    if t.faults.isEmpty then s.resolvePark c t else s.setStrand c t

/-- One reply reaches a paused channel (R258). -/
def State.replyChan (s : State) (f : FaultRec) (deny : Bool) (u : UnitRef) (ch : Fin 4) : State :=
  let c := (s.unit u).chan[ch]
  match c.cmd with
  | none => s
  | some k =>
    if deny then s.chanStop u ch k cRIGHTS
    else s.modChan u ch fun c => { c with faults := c.faults.filter (· != f.id), wf := [], ready := false }

/-- A retirement is over: its strand's command is done (R93, R312). -/
def State.retireGone (s : State) (id : Nat) (sid : Nat) : State :=
  ({ s with retires := NMap.del s.retires id }).modSid sid fun t => { t with cmds := t.cmds.filter fun k => k.id != id }

/-- A retirement fails: its capsule parks (R312, R335). -/
def State.retireFail (s : State) (r : Retire) (cause : Nat) (va ipa : Word) : State :=
  (s.retireGone r.id r.sid).park r.cap cause va true ipa r.cap.next none

/-- One reply reaches a retirement. -/
def State.replyRetire (s : State) (f : FaultRec) (deny : Bool) (id : Nat) : State :=
  match NMap.find s.retires id with
  | none => s
  | some r =>
    if deny then s.retireFail r cRIGHTS f.words[0] f.words[1]
    else { s with retires := NMap.set s.retires id { r with faults := r.faults.filter (· != f.id), wf := [] } }

/-- A fault's slot in a VF queue is zeroed and freed (R348). -/
def State.freePrq (s : State) (f : FaultRec) : State :=
  match f.fid with
  | some fid =>
    if f.vf = 0 then s
    else
      let q := fid % 64
      let s := s.homeWriteN none [] ((s.fn f.vf).prqbase.toNat + 64 * q + 0x18) 8 0
      s.modFn f.vf fun x => { x with prqUsed := x.prqUsed.filter (· != q) }
  | none => s

/-- A reply is taken (R326): its record's slot is free, then the reply reaches what waits. -/
def State.reply (s : State) (f : FaultRec) (deny : Bool) : State :=
  let s := ({ s with faults := s.faults.filter fun g => g.id != f.id } : State).freePrq f
  match f.who with
  | .strand sid => s.replyStrand f deny sid
  | .chan u ch => s.replyChan f deny u ch
  | .retire id => s.replyRetire f deny id

/-- The outstanding fault with an id. -/
def State.faultOf (s : State) (fid : Nat) : Option FaultRec := s.faults.find? fun f => f.fid == some fid

/-- RESUMEW (R326): a write of the PF or of a VF. -/
def execResumew (fn : Nat) (v : Word) (s : State) : Host.Outcome State Fault Refusal :=
  let st := v.toNat / 2 ^ 32 % 4
  if !s.ready then .next s.unsupported else
  match s.faultOf (v.toNat % 2 ^ 32) with
  | none => .next s
  | some f =>
    let mine := if fn = 0 then f.vf = 0 || f.stage else f.vf == fn && !f.stage
    if mine && !f.host && st < 2 then .next (s.reply f (st == 1)) else .next s

/-- The cached translations of the page that a host-window fault names go: what they lacked has been asked for, and the replay asks for
the translation again (R212). -/
def State.dropAtc (s : State) (f : FaultRec) : State :=
  match s.fnPasid f.launch with
  | some (fn, pasid) =>
    let ha := f.words[0].toNat % 2 ^ 53
    { s with atc := s.atc.filter fun e => !(e.fn == fn && e.pasid == pasid && ha / 2 ^ e.log2 == e.page * 4096 / 2 ^ e.log2) }
  | none => s

/-- PRG_RESPONSE (R212, R326): a Response Failure also stops PRI for the function. -/
def execPrgResponse (fid : Nat) (code : PrgCode) (s : State) : Host.Outcome State Fault Refusal :=
  match s.faultOf fid with
  | none => .next s
  | some f =>
    if !f.host then .next s
    else
      match code with
      | .success => .next ((s.dropAtc f).reply f false)
      | .invalid => .next (s.reply f true)
      | .failure => .next ((s.reply f true).modFn f.vf fun x => { x with priOff := true })

/-- HELD_FAULT_RETRY (R327): a held fault is tried again. -/
def execHeldFaultRetry (id : Nat) (s : State) : Host.Outcome State Fault Refusal :=
  match s.faults.find? fun f => f.id == id && f.fid.isNone with
  | none => .next s
  | some f =>
    let (s, f') := s.tryRecord f false
    .next { s with faults := s.faults.map fun g => if g.id == id then f' else g }

/-! ### Invalidations (R212, R220, R341) -/

/-- Results by their contexts and numbers, in the order in which they were issued. -/
def inIssueOrder (es : List (CtxRef × Nat)) : List (CtxRef × Nat) :=
  es.foldr (fun e l => l.takeWhile (fun x => x.2 < e.2) ++ e :: l.dropWhile fun x => x.2 < e.2) []

/-- Perform what the strands that meet a condition have issued and not yet performed (R267), in the order of issue, with what goes before it
through the own ports of cores (R268). -/
def State.finishLoadsOf (s : State) (f : Strand → Bool) : State :=
  let es := (s.allStrands.filter fun e => (f e.2 && e.2.loading) || e.2.loadingOwn).flatMap fun e => e.2.lates.map fun l => (e.1, l.id)
  (inIssueOrder es).foldl (fun s e => match s.strand e.1 with
    | some t => let (s, t) := s.performLate e.1 t e.2
      s.setStrand e.1 t
    | none => s) s

/-- Perform what still uses a partition's translations: its loads on their way, its buffered stores, and for the host window its stores
on their way. -/
def State.finishUses (s : State) (p : Nat) (host : Bool) : State :=
  let s := s.finishLoadsOf fun t => t.part == p
  let s := s.units.foldl (fun s e => s.drainWhere (uref e.1) (fun x => x.part == p) 32) s
  if host then
    s.flights.foldl (fun s e => match e.2 with
      | .hostStore sid _ _ _ => (match s.findSid sid with
        | some (_, t) => if t.part == p then s.hostStoreDone e.1 else s
        | none => s.hostStoreDone e.1)
      | _ => s) s
  else s

/-- Some access of a partition that used a translation, with a number that meets a condition, is not performed (R220). -/
def State.usesOf (s : State) (p : Nat) (f : Nat → Bool) : Bool :=
  s.units.any (fun e => e.2.sb.any fun x => x.part == p && f x.id) || s.homeReqs.any (fun e => e.2.part == p && f e.1) ||
    s.allStrands.any fun e => e.2.part == p && e.2.lates.any fun x => !x.todo.isEmpty && f x.id

/-- Some access that used a translation of the partition is not performed (R220). -/
def State.usesLeft (s : State) (p : Nat) : Bool := s.usesOf p fun _ => true

/-- An invalidation of the PF is incomplete (R341): accesses made before it that used its partition's translations are not performed. An
entry of `tlbiPend` is the partition, and the next number to be given when the write was accepted. -/
def State.tlbiBusy (s : State) (x : Nat × Nat) : Bool := s.usesOf x.1 fun n => n < x.2

/-- What a TLBI or a TLBIW of a kind names (R341). -/
def coverOf (kind : Nat) (page : Nat) : Cover := if kind = 0 then .all else if kind = 1 then .va page else .ipa page

/-- TLBIW (R341): accepted at once; TLBISTAT shows it until the accesses that used the partition's translations are performed. -/
def execTlbiw (v : Word) (s : State) : Host.Outcome State Fault Refusal :=
  let p := v.toNat % 64
  let kind := v.toNat / 2 ^ 8 % 4
  if !s.ready then .next s.unsupported
  else if kind = 3 then .next s
  else
    let s := (s.finishUses p (kind == 0)).invalidate p (coverOf kind (v.toNat / 65536))
    .next (if s.usesLeft p then { s with tlbiPend := s.tlbiPend ++ [(p, s.nextId)] } else s)

/-- Two aligned ranges of 2^m and 2^n bytes, each holding an address, have bytes in common. -/
def alignedMeet (a m b n : Nat) : Bool := a / 2 ^ max m n == b / 2 ^ max m n

/-- ATS_INVALIDATION (R212, R220): the cached copies that share bytes with the range go, after the accesses that used them are
performed; requests on their way for pages of the range start again. -/
def execAtsInvalidation (fn : Nat) (pasid : Nat) (page : Nat) (log2 : Nat) (s : State) : Host.Outcome State Fault Refusal :=
  let over_ (e : AtcEntry) : Bool := e.fn == fn && e.pasid == pasid && alignedMeet (e.page * 4096) e.log2 (page * 4096) log2
  let s := s.finishLoadsOf fun _ => true
  let s := s.flights.foldl (fun s e => match e.2 with
    | .hostStore .. => s.hostStoreDone e.1
    | _ => s) s
  .next (({ s with atc := s.atc.filter fun e => !over_ e } : State).restartAts fun r =>
    r.fn == fn && r.pasid == pasid && alignedMeet (r.page * 4096) 12 (page * 4096) log2)

/-! ### Migration, return and saves -/

/-- TRAP_MIGRATION (R319): a pending trap goes on as far as it can; not while the partition is STOPPED (R355). -/
def execTrapMigration (c : CtxRef) (s : State) : Host.Outcome State Fault Refusal :=
  match s.strand c with
  | none => .next s
  | some t => .next (if t.trap.isSome && t.handler.isNone && t.faults.isEmpty && !s.stands t.part (t.kind == .service) then s.migrate c else s)

/-- DOUBLE_TRAP (R321): a trap pending in a handler window ends the strand, once what it has issued is performed. -/
def execDoubleTrap (c : CtxRef) (s : State) : Host.Outcome State Fault Refusal :=
  match s.strand c with
  | none => .next s
  | some t => .next (if t.trap.isSome then s.doubleTrap c else s)

/-- ERET_RETURN (R322): the strand moves to a free context of its home core. -/
def execEretReturn (c : CtxRef) (s : State) : Host.Outcome State Fault Refusal := .next (s.comeHome c)

/-- SAFE_POINT_SAVE (R328, R329): a strand that has reached a safe point is saved, as far as that can go; not while the partition is
STOPPED (R355). -/
def execSafePointSave (c : CtxRef) (s : State) : Host.Outcome State Fault Refusal :=
  match s.strand c with
  | none => .next s
  | some t => .next (if t.faults.isEmpty && !s.stands t.part (t.kind == .service) then s.safePoint c else s)

/-! ### The early end of a launch (R332, R359) -/

/-- The entries of queues, rings, overflow areas and home slices that belong to a launch. -/
def State.entriesOf (s : State) (n : Nat) : List QEntry :=
  (s.units.flatMap (fun e => e.2.pinned.q ++ e.2.pinned.ring) ++
    s.tiles.flatMap (fun e => e.2.ready.flatMap (fun q => q.2.q ++ q.2.ring) ++
      e.2.items.filterMap fun i => match i with | .entry _ q => some q | _ => none) ++
    s.pushWait.map fun e => e.2.2).filter fun q => q.launch == n

/-- A queue without the entries of a launch. -/
def Queue.without (q : Queue) (n : Nat) : Queue :=
  { q with q := q.q.filter fun e => e.launch != n, ring := q.ring.filter fun e => e.launch != n }

/-- Free the save slot and the kept store of a discarded entry. -/
def State.freeSaved (s : State) (e : QEntry) : State :=
  match e.saved with
  | none => s
  | some v =>
    let s := s.modTile v.tile fun x => { x with saves := x.saves.filter (· != v.slot) }
    match v.kept with
    | some (u, n) => s.modUnit (uref u) fun x => { x with kept := NMap.del x.kept n }
    | none => s

/-- A channel that waits for a fault's reply gives its command up. -/
def Channel.withoutFaulted (c : Channel) (n : Nat) : Channel :=
  match c.cmd with
  | some k => if k.launch == n && !c.faults.isEmpty then { c with cmd := none, faults := [], wf := [], ready := false, old := [], at_ := [] }
    else c
  | none => c

/-- A unit with nothing of a launch but its running engine commands. -/
def CoreUnit.without (x : CoreUnit) (n : Nat) : CoreUnit :=
  { x with
    pinned := x.pinned.without n
    inbox := x.inbox.filter fun e => !e.ofLaunch n
    mort := x.mort.map fun m => match m with
      | some k => if k.launch == n then none else some k
      | none => none
    chan := x.chan.map fun c => c.withoutFaulted n }

/-- Every strand of a launch ends as under R146, and its queued, landed, parked and travelling work is discarded (R332). -/
def State.discardLaunch (s : State) (n : Nat) : State :=
  let s := ((s.entriesOf n).foldl State.freeSaved s).finishLoadsOf fun t => t.launch == n
  let s := (s.allStrands.filter fun e => e.2.launch == n).foldl (fun s e => s.endStrand e.1 e.2) s
  { s with
    units := NMap.mapV (fun _ x => x.without n) s.units
    tiles := NMap.mapV (fun _ t => { t with
      ready := NMap.mapV (fun _ q => q.without n) t.ready, ovf := t.ovf.filter fun o => !o.item.ofLaunch n }) s.tiles
    pushWait := s.pushWait.filter fun e => e.2.2.launch != n
    flights := s.flights.filter fun e => !e.2.ofLaunch n
    marks := s.marks.filter fun r => s.markLaunch r.1 != n
    retires := s.retires.filter fun e => e.2.cap.launch != n
    parkWait := s.parkWait.filter fun e => e.2.cap.launch != n
    parts := NMap.mapV (fun _ p => { p with parks := p.parks.filter fun k => k.launch != n }) s.parts
    groups := NMap.mapV (fun _ g => { g with got := g.got.filter fun c => !(c.m.launch == n && s.ours g c) }) s.groups
    faults := s.faults.filterMap fun f => if f.launch != n then some f else f.orphan }

/-- End a launch early with a code (R332, R333): its generators stop. -/
def State.endLaunch (s : State) (n code : Nat) : State :=
  let s := s.discardLaunch n
  let s := s.modLstat n fun l => { l with code := code }
  s.modLaunch n fun l => { l with killed := true }

/-- A strand with an open pre-emption request that is not parked: its grace period runs (R328). -/
def Strand.graceRuns (t : Strand) : Bool := t.preempt && t.faults.isEmpty

/-- PGRACE_EXPIRY (R332): the grace period of a request to a strand of the launch has passed. -/
def execPgraceExpiry (launch : Nat) (s : State) : Host.Outcome State Fault Refusal :=
  if (s.launch launch).isSome && s.allStrands.any fun e => e.2.launch == launch && e.2.graceRuns then .next (s.endLaunch launch 1)
  else .next s

/-! ### Poison (R334) -/

/-- A poisoned cell. -/
def RegCell.poisoned {n : Nat} (x : RegCell n) : RegCell n := { x with poison := true }

/-- POISON_EVENT (R334): an uncorrectable error strikes. A line is poisoned where its only copy is lost: dirty in the L2, or in
LPDDR6 alone. An accumulator word becomes the default NaN. A failed die's memory answers as poisoned. -/
def execPoisonEvent (x : PoisonTarget) (s : State) : Host.Outcome State Fault Refusal :=
  match x with
  | .line n =>
    let m := s.line n
    .next (if m.owner.isSome then (if m.dirty then s.setLine n { m with poison := true } else s)
      else s.setLine n { m with dram := .poisoned })
  | .spWord u w => .next (s.modUnit u fun x => if x.spPoison.contains w then x else { x with spPoison := x.spPoison ++ [w] })
  | .sreg c r => match s.strand c with
    | some t => .next (s.setStrand c (t.setSreg r (t.sreg r).poisoned))
    | none => .next s
  | .vreg c r => match s.strand c with
    | some t => .next (s.setStrand c (t.setVreg r (t.vreg r).poisoned))
    | none => .next s
  | .accWord u a w =>
    .next (s.modUnit u fun x =>
      let old := NMap.getD x.acc a.val 0
      { x with acc := NMap.set x.acc a.val (accOfWords fun i => if i = w then 0x7FC0_0000 else accWord old i) })
  | .die d => .next (s.modDie d.val fun x => { x with failed := true })

end Sys2Proof.Machine
end

