-- ==== Sys2Proof/Machine/System.lean ====
section
/-! DEFINITION. Class 7 (R337–R346): control registers (R131–R133), the return from a handler (R322, R340), translation
maintenance, sections, parked capsules, snapshots (R369), waiting for a wake flag, and the answer to a fault. -/
namespace Sys2Proof.Machine

/-! ### Control registers (R131, R132, R339) -/

/-- LCORE of a strand: a kingpost's own context reads 2^18 + 8 × die + tile (R131, R370). -/
def Env.lcoreReg (e : Env) : Nat :=
  match e.home with
  | .core _ => e.o.lcore
  | .kp n => kpKey n

/-- PCORE of a strand (R13, R370). -/
def Env.pcoreReg (e : Env) : Nat :=
  match e.home with
  | .core p => p
  | .kp n => 2 ^ 10 + n / 8 * 2 ^ 8 + n % 8 * 2 ^ 5

/-- The user-readable registers (R131); 0 outside a stop for those of a capsule. -/
def Env.userReg (e : Env) (n : Nat) : Nat :=
  let x := e.s.unit e.home
  let chan (i : Fin 4) : Nat := x.chan[i].wptr.toNat
  match n with
  | 0x000 => (homeOf e.c e.o).ctx
  | 0x001 => e.lcoreReg
  | 0x002 => e.pcoreReg
  | 0x003 => e.o.part
  | 0x004 => e.o.dom.toNat
  | 0x005 => e.o.caller.toNat
  | 0x006 => e.o.launch
  | 0x008 => e.o.nx.toNat
  | 0x009 => e.o.fflags.toNat
  | 0x00A => e.o.vtime
  | 0x00B => (match e.s.launch e.o.launch with | some l => if l.pkt.det then l.horizon else 0 | none => 0)
  | 0x00C => e.o.unack
  | 0x00D => e.o.strict.toNat
  | 0x00E => if e.o.cap.isSome then e.o.capId.toNat else 0
  | 0x00F => (match e.o.cap with | some k => k.stop | none => 0)
  | 0x010 => (match e.o.cap with | some k => aliasBase + mortOff e.home x k.mort.val | none => 0)
  | 0x011 => e.cycle
  | 0x012 => chan 0
  | 0x013 => chan 1
  | 0x014 => chan 2
  | 0x015 => chan 3
  | 0x016 => e.o.reject.toNat
  | _ => 0

/-- The die and the tile whose registers a strand reaches. -/
def Env.dieNo (e : Env) : Nat := udie e.home

/-- The registers of domain 0 (R132). -/
def Env.sysReg (e : Env) (n : Nat) : Nat :=
  let x := e.s.unit e.home
  let t := e.s.tile (utile e.home)
  let d := e.s.die e.dieNo
  match n with
  | 0x100 => x.wbs.toNat
  | 0x101 => splitOf e.home x
  | 0x102 => t.trapbase.toNat
  | 0x103 => e.s.pgrace.toNat
  | 0x104 => e.s.replup.toNat
  | 0x105 => e.s.replwmax.toNat
  | 0x106 => e.s.repldown.toNat
  | 0x107 => t.actfc.toNat
  | 0x108 => d.fbhead.toNat
  | 0x109 => d.fbtail.toNat
  | 0x10A => d.fovf.toNat
  | 0x10B => d.flost
  | 0x10C => e.s.snapctl.toNat
  | _ => (x.sect.toList.getD (n - 0x110) 0).toNat

/-- The value of a register (R339). -/
def Env.ctlReg (e : Env) (n : Nat) : Word := BitVec.ofNat 64 (if n < 0x100 then e.userReg n else e.sysReg n)

/-- What reading a register does beside (R6, R339): an RC register clears, and FBTAIL acquires at PKG scope. -/
def Env.readEffect (e : Env) (n : Nat) : State × Strand :=
  match n with
  | 0x016 => (e.s, { e.w with reject := 0 })
  | 0x109 => (e.s.fullInval e.c.unit, { e.w with wsig := BitVec.allOnes 2048 })
  | 0x10B => (e.s.modDie e.dieNo fun d => { d with flost := 0 }, e.w)
  | _ => (e.s, e.w)

/-- MFC (R339). -/
def execMfc (h : Hd) (d : Fin 32) (reg : BitVec 12) (s : State) : Host.Outcome State Fault Refusal :=
  issue { op h 8 [] with priv := decide (0x100 ≤ reg.toNat) } (fun e =>
    let v := e.ctlReg reg.toNat
    let (s, t) := e.readEffect reg.toNat
    .ok (s, t.wrS d v, .seq)) s

/-- SPLIT may be written (R196): the strand is alone on its core, nothing is reserved there, both mortises are free, and the
inbox is empty; a kingpost's is read-only (R195), and so it is from a guest slot (R339). -/
def Env.splitOk (e : Env) : Bool :=
  let x := e.s.unit e.c.unit
  !isKp e.c.unit && x.strands.length == 1 && x.resvAcc.isEmpty && x.resvSp.isNone && x.mort[0].isNone && x.mort[1].isNone &&
    x.inbox.isEmpty

/-- An accepted write of SPLIT (R196): the strand's earlier accesses of the scratchpad are performed and the buffer drains, and the L1 and the
scratchpad are cleared. -/
def Env.writeSplit (e : Env) (v : BitVec 2) : Res :=
  let s := e.s.drainUnit e.c.unit
  if e.ownHeld then .error (.hold s e.o .port)
  else if !(s.unit e.c.unit).sb.isEmpty then .error (.hold s e.o .sbFull)
  else
    .ok (s.modUnit e.c.unit fun x => { x with
      split := v, l1 := [], fills := x.fills.map (fun f => { f with live := false }), sp := [], full := [], spPoison := [] }, e.w, .seq)

/-- A register of a word keeps its reserved bits zero: none above bit n − 1 is set. -/
def fits (n : Nat) (x : Word) : Bool := x.toNat / 2 ^ n == 0

/-- The limits of an MTC (R339). -/
def Env.mtcOk (e : Env) (n : Nat) (x : Word) : Bool :=
  match n with
  | 0x008 => fits 1 x
  | 0x009 => fits 5 x
  | 0x00A => e.s.isDet e.o.launch
  | 0x00D => fits 1 x
  | 0x100 => x.toNat % 2 ^ 21 == 0
  | 0x101 => fits 2 x && e.splitOk
  | 0x102 => x.toNat % 2 ^ 13 == 0
  | 0x103 => x != 0
  | 0x108 => (e.s.die e.dieNo).fbhead.toNat ≤ x.toNat && x.toNat ≤ (e.s.die e.dieNo).fbtail.toNat
  | 0x10A => fits 1 x
  | 0x10C => fits 16 x && x.toNat / 16 % 16 == 0
  | n => n < 0x110 || fits 10 x

/-- The effect of an MTC that is accepted (R339). -/
def Env.mtc (e : Env) (n : Nat) (x : Word) : Res :=
  let done (s : State) : Res := .ok (s, e.w, .seq)
  match n with
  | 0x008 => .ok (e.s, { e.w with nx := x.getLsbD 0 }, .seq)
  | 0x009 => .ok (e.s, { e.w with fflags := x.setWidth 5 }, .seq)
  | 0x00A => .ok (e.s, { e.w with vtime := max e.w.vtime x.toNat }, .seq)
  | 0x00D => .ok (e.s, { e.w with strict := x.getLsbD 0 }, .seq)
  | 0x100 => done (e.s.modUnit e.home fun u => { u with wbs := x })
  | 0x101 => e.writeSplit (x.setWidth 2)
  | 0x102 => done (e.s.modTile (utile e.home) fun t => { t with trapbase := x })
  | 0x103 => done { e.s with pgrace := x }
  | 0x104 => done { e.s with replup := x }
  | 0x105 => done { e.s with replwmax := x }
  | 0x106 => done { e.s with repldown := x }
  | 0x108 => done (e.s.modDie e.dieNo fun d => { d with fbhead := x })
  | 0x10A => done (e.s.modDie e.dieNo fun d => { d with fovf := d.fovf && !x.getLsbD 0 })
  | 0x10C => done { e.s with snapctl := (e.s.snapctl &&& 0xFF00) ||| BitVec.ofNat 16 (x.toNat % 16) }
  | n =>
    if h : 0x110 ≤ n ∧ n < 0x130 then
      done (e.s.modUnit e.home fun u => { u with sect := u.sect.set (n - 0x110) (x.setWidth 10) (by omega) })
    else done e.s

/-- MTC (R339); outside domain 0 PRIV comes before the checks of the value (R338, log 64). -/
def execMtc (h : Hd) (a : SSrc) (reg : BitVec 12) (s : State) : Host.Outcome State Fault Refusal :=
  issue (opP h 8 (SSrc.src a)) (fun e =>
    let x := e.r.gS a
    if e.mtcOk reg.toNat x then e.mtc reg.toNat x else .error (.plain cILLEGAL)) s

/-! ### ERET (R322, R340) -/

/-- The strand as it leaves its handler window: windows above it are discarded with it (R340), with what was kept of them and of no
crossing that is still open. -/
def State.unhandle (s : State) (c : CtxRef) (t : Strand) (k : Handler) : Except Stop (State × Strand) := do
  let over_ := t.depth - k.depth
  let (s, t) ← if over_ < t.wins.length then .ok (s, { t with wins := t.wins.drop over_, depth := k.depth })
    else (s.fillWindow c t k.depth).map fun p => (p.1, { t with wins := [p.2], depth := k.depth })
  let (s, t) ← s.slideBack c t
  return (s, { t with handler := none, returning := true, spillPend := t.spillPend.filter fun p => p.1 < k.depth - 1 || recEntry t.crossings < p.1 })

/-- ERET (R322, R340): the strand leaves for its home core, where ERET_RETURN puts it into a free context; with S = 1 it is a safe point
at the address that it returns to (R105, log 23). -/
def execEret (h : Hd) (next : Bool) (s : State) : Host.Outcome State Fault Refusal :=
  issue { opP h 8 [] with falls := false } (fun e => do
    match e.o.handler with
    | none => .error (.plain cILLEGAL)
    | some k =>
      if k.cross < e.o.crossings then .error (.plain cCROSSING)
      else if !e.o.lates.isEmpty then .error (.hold e.s e.o .lates)
      else
        let s ← e.release e.s .tile
        let (s, bs) ← s.storeRead e.c e.o (k.recd + (if next then 16 else 8)) 8 cRIGHTS
        let (s, t) ← (s.unhandle e.c e.w k).mapError (Stop.keeping e.o)
        let t := t.retired h (.cross (BitVec.ofNat 64 (natOfBytes bs))) e.len
        return (s.setStrand e.c t, t, .gone)) s

/-! ### TLBI (R341) -/

/-- The three steps of TLBI for the issuer's partition. -/
def Env.tlbi (e : Env) (kind : Nat) (va : Word) : Res :=
  if !fits 55 va then .error (.plain cILLEGAL)
  else do
    let s ← e.release e.s .pkg
    let s := s.finishUses e.o.part (kind == 0)
    if s.usesLeft e.o.part then .error (.hold s e.o (.release .pkg))
    else return (s.invalidate e.o.part (coverOf kind (va.toNat / 65536)), e.w, .seq)

/-- TLBI, kind all (R341). -/
def execTlbiAll (h : Hd) (s : State) : Host.Outcome State Fault Refusal := issue (opP h 8 []) (fun e => e.tlbi 0 0) s

/-- TLBI, kind VA (R341). -/
def execTlbiVa (h : Hd) (a : SSrc) (s : State) : Host.Outcome State Fault Refusal :=
  issue (opP h 8 (SSrc.src a)) (fun e => e.tlbi 1 (e.r.gS a)) s

/-- TLBI, kind IPA (R341). -/
def execTlbiIpa (h : Hd) (a : SSrc) (s : State) : Host.Outcome State Fault Refusal :=
  issue (opP h 8 (SSrc.src a)) (fun e => e.tlbi 2 (e.r.gS a)) s

/-! ### SECT (R342) -/

/-- The unit and the section that an address names: a scratchpad address of a core of this package. -/
def Env.section_ (e : Env) (va : Word) : Except Stop (UnitRef × Fin 32) :=
  let no (cause : Nat) : Except Stop (UnitRef × Fin 32) := .error (.trap cause 2 va 0 0)
  let at_ (u : UnitRef) (off : Nat) : Except Stop (UnitRef × Fin 32) :=
    if spSize u (e.s.unit u) ≤ off then no cRIGHTS else .ok (u, ⟨off / 65536 % 32, Nat.mod_lt _ (by decide)⟩)
  match regionOf va with
  | .own off => at_ e.home off
  | .window l off =>
    if l == e.o.lcore && !isKp e.home then at_ e.home off
    else
      match e.s.coreAt e.o.part l with
      | none => no cTARGET
      | some (pkg, pcore) => if pkg == e.s.pkgNo then at_ (.core pcore) off else no cRIGHTS
  | _ => no cRIGHTS

/-- SECT.TAG (R342). -/
def execSectTag (h : Hd) (a b : SSrc) (s : State) : Host.Outcome State Fault Refusal :=
  issue (opP h 8 (SSrc.src a ++ SSrc.src b)) (fun e => do
    let (u, n) ← e.section_ (e.r.gS a)
    let v := e.r.gS b
    if !fits 10 v then .error (.plain cILLEGAL)
    else
      let s ← e.release e.s .pkg
      return (s.modUnit u fun x => { x with sect := x.sect.set n (v.setWidth 10) }, e.w, .seq)) s

/-- The accesses on their way to a section of a core that have been checked there are performed, and those of own ports (R342). -/
def State.finishFar (s : State) (u : UnitRef) (n : Nat) : State :=
  match u with
  | .core p => s.finishLoadsOf fun t => t.loadingFar p (65536 * n) 65536
  | .kp _ => s.finishLoadsOf fun _ => false

/-- SECT.ZERO (R342): after the accesses that were checked before it: those on their way to the core, and the engine commands whose tiles
lie in the section or that have reached it. Every other access is checked as it is performed. -/
def execSectZero (h : Hd) (a : SSrc) (s : State) : Host.Outcome State Fault Refusal :=
  issue (opP h 8 (SSrc.src a)) (fun e => do
    let (u, n) ← e.section_ (e.r.gS a)
    if n.val + 1 = spSize u (e.s.unit u) / 65536 then .error (.plain cILLEGAL)
    else
      let s ← e.release e.s .pkg
      let s := s.finishFar u n.val
      if s.sectBusy (ukey u) n.val then .error (.hold s e.o (.command (.section_ (ukey u) n.val)))
      else return (s.modUnit u fun x => zeroSect x (65536 * n.val) 65536, e.w, .seq)) s

/-- The line of SECT.CLRP becomes zero at its home, and leaves the L2 with a fresh tag under the issuer's slot. -/
def Env.clearLine (e : Env) (s : State) (pa : Nat) : State :=
  let s := (s.homeWrite (some e.o.part) [e.o.sid] (lineOf pa) fullMask 0).atHomeSeen e.c.unit (lineOf pa)
  (s.evict (lineOf pa)).modUnit e.c.unit fun x => dropLine x (lineOf pa)

/-- SECT.CLRP (R342): the context is held until the collapse is acknowledged. The line joins the strand's write signature (log 57). -/
def execSectClrp (h : Hd) (a : SSrc) (s : State) : Host.Outcome State Fault Refusal :=
  issue (opP h 8 (SSrc.src a)) (fun e => do
    let va := e.r.gS a
    match e.o.res with
    | some _ =>
      let s ← e.release e.s .pkg
      return (s, e.w, .seq)
    | none =>
      if va.toNat % 128 != 0 then .error (.trap cALIGN 2 va 0 0)
      else if regionOf va != .paged then .error (.trap cRIGHTS 2 va 0 0)
      else
        match ← e.access va 128 128 .write .plain with
        | .mem _ pa =>
          let s ← e.release e.s .pkg
          if e.lineHeld pa 128 then .error (.hold s e.o (.home (lineOf pa)))
          else if s.hostHas (lineOf pa) fullMask then .error (.hold (s.recall (lineOf pa) fullMask) e.o (.home (lineOf pa)))
          else
            let s := e.clearLine s pa
            let (s, ok) := s.release e.c.unit e.o .pkg
            if ok then return (s, sigStore e.w pa, .seq)
            else .error (.hold s { sigStore e.o pa with res := some 0 } (.release .pkg))
        | _ => .error (.trap cRIGHTS 2 va 0 0)) s

/-! ### CREINJ (R336, R343) -/

/-- CREINJ (R336, R343): slot k of the strand's partition frees, and its capsule enters the fabric again or, with NEXT = 0xFF,
retires. -/
def execCreinj (h : Hd) (a : SSrc) (s : State) : Host.Outcome State Fault Refusal :=
  issue (opP h 8 (SSrc.src a)) (fun e => do
    let k := (e.r.gS a).toNat
    let p := e.o.part
    match (e.s.part p).parks.find? fun x => x.slot == k with
    | none => .error (.plain cCAPSULE)
    | some slot =>
      let pa := (e.s.part p).parkbase.toNat + 17408 * k + 0x100
      let s ← e.s.whenReady e.c e.o pa 17152 false
      let (s, pfx, bad) := s.devRead e.c.unit p pa 256
      let (s, payload, bad') := s.devRead e.c.unit p (pa + 256) (min (natOfBytes ((pfx.drop 0x1C).take 4)) 16384)
      if bad || bad' then .error (.trap cPOISON 1 (BitVec.ofNat 64 pa) 0 0)
      else
        let s := s.modPart p fun x => { x with parks := x.parks.filter fun y => y.slot != k }
        let c : Capsule := ⟨pfx, payload, slot.launch, p, slot.ts, some (capBy e.c e.o e.o.pc)⟩
        let c := c.put 0x20 8 0
        return (if c.next = 0xFF then s else s.enterFabric c, e.w, .seq)) s

/-! ### SNAP and the snapshot (R344, R369) -/

/-- The bit of SNAPCTL that admits a source of the trigger (R369). -/
def snapBit : SnapSrc → Nat
  | .instr => 1
  | .host => 2
  | .fabric => 3

/-- What a core latches (R369). -/
def State.snapCore (s : State) (u : UnitRef) (x : CoreUnit) : CoreSnap where
  core := ukey u
  cycle := (s.island (uisland u)).cycle
  ctxs := x.strands.map fun t => ⟨t.1, t.2.pc, s.ctxState ⟨u, t.1⟩ t.2⟩
  sbOcc := x.sb.length
  qOcc := x.pinned.q.length + x.inbox.length + x.mq.length + x.cq.length

/-- The common snapshot trigger (R369): with ARM set and the source accepted, every block latches, ARM clears and COUNT rises. -/
def State.latch (s : State) (src : SnapSrc) : State :=
  if s.snapctl.getLsbD 0 && s.snapctl.getLsbD (snapBit src) then
    let n := BitVec.ofNat 16 ((s.snapctl.toNat / 256 + 1) % 256 * 256)
    { s with
      snaps := some ⟨(List.range 1056).map fun k => s.snapCore (uref k) (s.unit (uref k)), s.slices⟩
      snapctl := n ||| (s.snapctl &&& 0x00FE) }
  else s

/-- SNAP (R344). -/
def execSnap (h : Hd) (s : State) : Host.Outcome State Fault Refusal :=
  issue (opP h 8 []) (fun e => do
    let s ← e.release e.s .die
    return (s.latch .instr, e.w, .seq)) s

/-! ### IDLE (R345) -/

/-- The instruction at the strand's next pc has S = 1: it is a safe point (R105). -/
def Env.safeNext (e : Env) : Bool :=
  let pc := e.o.pc + BitVec.ofNat 64 e.len
  match e.s.fetchLine e.c e.o pc with
  | .ok (_, x) =>
    let f := Fields.unpack (BitVec.ofNat 64 (x.data.toNat / 2 ^ (8 * (pc.toNat % 64))))
    f.s && f.len != 3
  | .error _ => false

/-- IDLE ends with a status; the wake flag is clear. -/
def Env.idleEnds (e : Env) (d : Fin 32) (v : Word) : Res :=
  .ok (e.s.modUnit e.c.unit fun x => { x with wake := x.wake.filter (· != e.c.ctx) }, e.w.wrS d v, .seq)

/-- IDLE (R345): a wake wins over the limit. -/
def execIdle (h : Hd) (d : Fin 32) (b : SB) (s : State) : Host.Outcome State Fault Refusal :=
  issue (opP h 8 (SB.src b)) (fun e =>
    if (e.s.unit e.c.unit).wake.contains e.c.ctx then e.idleEnds d 0
    else
      match e.o.res with
      | some _ => e.idleEnds d 1
      | none =>
        if e.o.preempt && e.safeNext then e.idleEnds d 1
        else e.waitUntil e.s e.o (e.r.gSBu b).toNat (.idle (ukey e.c.unit) e.c.ctx e.safeNext)) s

/-! ### RESUME (R326, R346) -/

/-- Set the wake flag of a context (R345). -/
def State.wakeCtx (s : State) (u : UnitRef) (k : Nat) : State :=
  s.modUnit u fun x => if x.wake.contains k then x else { x with wake := x.wake ++ [k] }

/-- RESUME may answer this record: it is one of the issuer's partition, in a die buffer or a stage-2 fault of a VF queue. -/
def FaultRec.resumable (f : FaultRec) (p : Nat) : Bool := f.part == p && (f.vf == 0 || f.stage) && !f.host

/-- The context that a record of an engine names (R324): that of the command's issuer. -/
def State.issuerOf (s : State) (f : FaultRec) : Option CtxRef :=
  let w := f.words[4].toNat
  let k := w / 2 ^ 18 % 8
  let l := w % 2 ^ 18
  if w / 2 ^ 37 % 2 = 1 then some ⟨.kp (l % 32), k⟩
  else
    match s.coreAt f.part l with
    | none => none
    | some (_, p) => some (if w / 2 ^ 21 % 2 = 1 then ⟨.kp (utile (.core p)), 4 + k + 8 * (w / 2 ^ 22 % 2)⟩ else ⟨.core p, k⟩)

/-- The context that a record names (R324, R345). -/
def State.namedBy (s : State) (f : FaultRec) : Option CtxRef :=
  match f.who with
  | .strand sid => (s.findSid sid).map (·.1)
  | .chan .. | .retire _ => s.issuerOf f

/-- RESUME (R346): the reply of the issuer's partition to a fault; it also wakes the context that the record names (R345). -/
def execResume (h : Hd) (a : SSrc) (b : SB) (s : State) : Host.Outcome State Fault Refusal :=
  issue (opP h 8 (SSrc.src a ++ SB.src b)) (fun e => do
    let id := (e.r.gS a).toNat
    let st := (e.r.gSBu b).toNat
    let s ← e.release e.s .pkg
    match s.faultOf id with
    | none => return (s, e.w, .seq)
    | some f =>
      if !f.resumable e.o.part || 1 < st then return (s, e.w, .seq)
      else
        let s := match s.namedBy f with
          | some c => s.wakeCtx c.unit c.ctx
          | none => s
        return (s.reply f (st == 1), e.w, .seq)) s

end Sys2Proof.Machine
end

