-- ==== Sys2Proof/Machine/FrontEnd.lean ====
section
/-! DEFINITION. The front end (R44–R47, R54–R74): queue descriptors and slots, notify writes, the pending-notify table, service
turns and packet checks, dependences, placement, launch numbers, and the registers of cores and mapping tables. -/
namespace Sys2Proof.Machine

/-! ### Reads and writes of the front end (R54, R56) -/

/-- Set A and D where a walk asks for it (R218). -/
def State.setAD (s : State) (p : Nat) (aSet dSet : List Nat) : State :=
  dSet.foldl (fun s a => s.orPte p 5 a) (aSet.foldl (fun s a => s.orPte p 4 a) s)

/-- A and D that a walk of the front end asks for are set; where the host owns the half of an entry, once it has given it up (R285): the walk
stays for that. -/
def State.feAD (s : State) (p page : Nat) (write : Bool) (r : WalkRes) (log : WalkLog) : State :=
  if s.ptesReady log.aSet log.dSet then s.setAD p log.aSet log.dSet
  else
    let (id, s) := s.fresh
    { s with walks := NMap.set s.walks id ⟨0, p, page, write, r, log.aSet, log.dSet, []⟩ }

/-- The front end's translation of an address of a partition, on die 0: the leaf, or 0x09 for a page that is not present, 0x0B for one
whose entries are poisoned, and 0x0A for an address outside the device-paged region, with translation off, or whose physical address
is unbacked. -/
def State.feLeaf (s : State) (p : Nat) (va : Word) (write : Bool) : State × Except Nat Leaf :=
  if regionOf va != .paged then (s, .error 0x0A)
  else
    let back (s : State) (l : Leaf) : State × Except Nat Leaf := (s, if paBacked (leafAddr l va) then .ok l else .error 0x0A)
    match s.xlate 0 p va write [] with
    | .off => (s, .error 0x0A)
    | .absent _ => (s, .error 0x09)
    | .poisoned => (s, .error 0x0B)
    | .ok l => back s l
    | .miss =>
      let (s, r, log) := s.walkAll p (va.toNat / 65536 * 65536) write
      match r with
      | .fault f _ => (s, .error (if f.poison then 0x0B else 0x09))
      | .leaf l span ipas =>
        let s := s.feAD p (va.toNat / 65536) write r log
        back { s with tlb := ⟨0, p, va.toNat / 65536, span, ipas, l⟩ :: s.tlb.filter fun e => !(e.die == 0 && e.part == p && e.vpage == va.toNat / 65536) } l

/-- The same with the rights of domain 0 (R86): the page's R and W. -/
def State.fePlace (s : State) (p : Nat) (va : Word) (acc : Acc) : State × Except Nat Leaf :=
  match s.feLeaf p va acc.writes with
  | (s, .error e) => (s, .error e)
  | (s, .ok l) => (s, if permOk l acc then .ok l else .error 0x0A)

/-- Read n bytes within one page for the front end: 0x0B where they are poisoned. -/
def State.feReadPage (s : State) (p : Nat) (va : Word) (n : Nat) : State × Except Nat (List Byte) :=
  match s.fePlace p va .read with
  | (s, .error e) => (s, .error e)
  | (s, .ok l) =>
    let (s, bs, bad) := s.homeReadBytes (some p) (leafAddr l va) n (n / 128 + 2)
    (s, if bad then .error 0x0B else .ok bs)

/-- Read n bytes within two pages for the front end, each under its own translation. -/
def State.feRead (s : State) (p : Nat) (va : Word) (n : Nat) : State × Except Nat (List Byte) :=
  let k := min n (65536 - va.toNat % 65536)
  match s.feReadPage p va k with
  | (s, .error e) => (s, .error e)
  | (s, .ok bs) =>
    if k = n then (s, .ok bs)
    else
      match s.feReadPage p (va + BitVec.ofNat 64 k) (n - k) with
      | (s, .error e) => (s, .error e)
      | (s, .ok rest) => (s, .ok (bs ++ rest))

/-! ### Descriptors (R54, R55) -/

/-- The physical address of a queue's descriptor. -/
def State.descAt (s : State) (p q : Nat) : Nat := (s.part p).qtbase.toNat + 64 * q

/-- The 64 bytes of a descriptor, read without translation. -/
def State.desc (s : State) (p q : Nat) : List Byte := Memory.readBytes s.mem (s.descAt p q) 64

/-- A field of n bytes of a descriptor or packet. -/
def descField (bs : List Byte) (o n : Nat) : Nat := natOfBytes ((bs.drop o).take n)

/-- TAIL − HEAD. -/
def outstanding (tail head : Nat) : Nat := (tail + 2 ^ 64 - head) % 2 ^ 64

/-- A malformed descriptor (R55). -/
def descBad (bs : List Byte) : Bool :=
  let w := descField bs 8 8
  w / 2 ^ 12 % 16 == 0 || w / 2 ^ 5 % 8 != 0 || w / 2 ^ 11 % 2 != 0 || w / 2 ^ 17 != 0 || descField bs 0x28 24 != 0 ||
    16 < w % 32 || descField bs 0 8 % 128 != 0

/-- More packets are outstanding than the ring holds (R55). -/
def descOver (bs : List Byte) : Bool :=
  2 ^ (descField bs 8 8 % 32) < outstanding (descField bs 0x10 8) (descField bs 0x18 8)

/-- Write STATUS of a queue. -/
def State.writeStatus (s : State) (p q code : Nat) : State := s.homeWriteN none [] (s.descAt p q + 0x20) 8 code

/-- READ becomes IDLE where nothing is outstanding (R60). -/
def Slot.settled (x : Slot) : Slot := if x.st == .read && outstanding x.tail x.head == 0 then { x with st := .idle } else x

/-- The slot that holds a queue. -/
def State.slotOf (s : State) (p q : Nat) : Option Nat :=
  (List.range 64).find? fun i => let x := s.slot i; x.st != .free && x.part == p && x.qnum == q

/-- The lowest free slot. -/
def State.freeSlot (s : State) : Option Nat := (List.range 64).find? fun i => (s.slot i).st == .free

/-- A queue may be evicted (R63). -/
def Slot.evictable (x : Slot) : Bool := x.st == .idle && !x.noevict

/-- The slot to evict (R63): the lowest LEVEL, then the one served least recently. -/
def State.victim (s : State) : Option Nat :=
  (List.range 64).foldl (fun (b : Option Nat) i =>
    let x := s.slot i
    if !x.evictable then b
    else match b with
      | none => some i
      | some j => if x.level < (s.slot j).level || (x.level == (s.slot j).level && x.served < (s.slot j).served) then some i else b) none

/-- Where a queue that is not mapped can go: a free slot, or that of a queue to evict. -/
def State.room (s : State) : Option Nat :=
  match s.freeSlot with
  | some i => some i
  | none => s.victim

/-- Map a queue into a slot: it starts in READ. -/
def State.mapQueue (s : State) (i p q : Nat) (bs : List Byte) : State :=
  let w := descField bs 8 8
  let x : Slot :=
    { Slot.reset with
      st := .read, part := p, qnum := q, ring := BitVec.ofNat 64 (descField bs 0 8), log2n := w % 32, level := w / 2 ^ 8 % 8
      weight := w / 2 ^ 12 % 16, noevict := w / 2 ^ 16 % 2 == 1, head := descField bs 0x18 8, tail := descField bs 0x10 8, served := s.orderNo }
  { s.setSlot i x.settled with orderNo := s.orderNo + 1 }

/-- A notify of a queue that is mapped: TAIL is read again, and a slot in IDLE or HALT goes to READ (R58–R60). -/
def Slot.renotified (x : Slot) (tail : Nat) : Slot :=
  let x := { x with tail := tail }
  match x.st with
  | .idle => ({ x with st := .read } : Slot).settled
  | .halt => ({ x with st := .read, err := 0 } : Slot).settled
  | _ => x

/-- A notify for queue q of partition p, in its four outcomes (R59, R64). One that finds more packets outstanding than the ring
holds (as the slot knows it where the queue is mapped), or that would map a malformed descriptor, is left unserved (R55). -/
def State.notify (s : State) (p q : Nat) : State :=
  let bs := s.desc p q
  match s.slotOf p q with
  | some i =>
    let x := s.slot i
    let tail := descField bs 0x10 8
    if 2 ^ x.log2n < outstanding tail x.head then s.writeStatus p q 1 else s.setSlot i (x.renotified tail)
  | none =>
    if descOver bs then s.writeStatus p q 1
    else match s.room with
    | some i => if descBad bs then s.writeStatus p q 1 else s.mapQueue i p q bs
    | none =>
      if s.pend.contains (p, q) then s
      else if s.pend.length < 256 then ({ s with pend := s.pend ++ [(p, q)] } : State).emit .qmiss
      else { s with notifylost := min (s.notifylost + 1) (2 ^ 32 - 1), nlost := true }

/-- The oldest entry of the pending-notify table is handled as though its notify had just arrived (R64). -/
def State.mapPending (s : State) : State :=
  match s.pend with
  | [] => s
  | (p, q) :: rest => if s.room.isSome then ({ s with pend := rest } : State).notify p q else s

/-- While a slot is free or evictable, the oldest entries of the pending-notify table are mapped (R64); `fuel` bounds how many. -/
def State.mapAllPending (s : State) : Nat → State
  | 0 => s
  | n + 1 => if s.pend.isEmpty || s.room.isNone then s else State.mapAllPending s.mapPending n

/-- The partition of a function: a VF's binding (R357), and the PF's own. -/
def State.fnPart (s : State) (fn : Nat) : Option Nat := if fn < 64 then some (s.fn fn).bind else none

/-- NOTIFY_WRITE (R57–R59): entries of the pending-notify table that a slot has room for come first (R64). -/
def execNotifyWrite (src : NotifySrc) (v : Word) (s : State) : Host.Outcome State Fault Refusal :=
  let p := match src with
    | .host fn => s.fnPart fn
    | .door p => some p
  match p with
  | none => .next s
  | some p => .next (if s.ready && fits 8 v then (s.mapAllPending s.pend.length).notify p v.toNat else s)

/-- PENDING_NOTIFY_MAP (R64). -/
def execPendingNotifyMap (s : State) : Host.Outcome State Fault Refusal := .next s.mapPending

/-- SLOTUNMAP (R63): a write to a slot in any state but IDLE is ignored. -/
def execSlotunmap (v : Word) (s : State) : Host.Outcome State Fault Refusal :=
  let i := v.toNat % 64
  .next (if !s.ready then s.unsupported else if (s.slot i).st == .idle then s.setSlot i Slot.reset else s)

/-! ### Packets (R44, R47) -/

/-- The fields of a packet (R44). -/
def packetOf (bs : List Byte) : Packet :=
  let w (o : Nat) : Nat := descField bs o 8
  let v (o : Nat) : Word := BitVec.ofNat 64 (w o)
  let bit (n : Nat) : Bool := w 0 / 2 ^ n % 2 == 1
  { kind := w 0 % 256, det := bit 8, pinned := bit 9, preempt := bit 10, relSys := bit 11, prio := w 0 / 2 ^ 16 % 256
    entry := v 8, args := v 0x10, n := w 0x18
    weights := Vector.ofFn fun d => w 0x20 / 2 ^ (16 * d.val) % 2 ^ 16
    spc := w 0x28 % 16, acc := w 0x28 / 16 % 16, scratch := w 0x28 / 2 ^ 8 % 2 ^ 16, cores := w 0x28 / 2 ^ 24 % 2 ^ 16
    bars := BitVec.ofNat 6 (w 0x30), done := v 0x38, inc := v 0x40, dep1 := (v 0x48, v 0x50), dep2 := (v 0x58, v 0x60)
    pasid := w 0x68 % 2 ^ 20, vf := w 0x68 / 2 ^ 20 % 64 }

/-- A reserved field of a packet is not zero. -/
def packetReserved (bs : List Byte) : Bool :=
  let w (o : Nat) : Nat := descField bs o 8
  w 0 / 2 ^ 12 % 16 != 0 || w 0 / 2 ^ 24 != 0 || w 0x28 / 2 ^ 40 != 0 || w 0x30 / 2 ^ 6 != 0 || w 0x68 / 2 ^ 26 != 0 ||
    descField bs 0x70 16 != 0

/-! ### The cores of a launch (R69, R72, R73) -/

/-- Logical cores of a partition whose table entry has V set, in rising order: those with a byte listed in the table, or a cached
entry. -/
def State.mappedCores (s : State) (p : Nat) : List Nat :=
  let base := (s.part p).mapbase.toNat
  let listed := s.mem.filterMap fun c =>
    if base ≤ c.1 && c.1 < base + 4 * 0x3_FF00 && (c.1 - base) % 4 == 3 then some ((c.1 - base) / 4) else none
  let cached := (s.mapCache.filter fun e => e.1 == p).map fun e => e.2.1
  let all := NMap.vals ((listed ++ cached).foldl (fun (m : NMap Nat) l => NMap.set m l l) [])
  all.filter fun l => mapValid l (s.mapEntry p l)

/-- The cores that a launch chooses on a die (R72): its lowest-numbered ones, as (logical, physical); none where it has too few. -/
def State.dieCores (s : State) (p d n : Nat) (all : List Nat) : Option (List (Nat × Nat)) :=
  let here := all.filterMap fun l =>
    let e := s.mapEntry p l
    if mapPkg e == s.pkgNo && mapPcore e / 256 == d then some (l, mapPcore e) else none
  if here.isEmpty || here.length < n then none else some (if n = 0 then here else here.take n)

/-- The launch cores (R72), in increasing logical core number; none where a weighted die has too few, or one is not usable
(R69). -/
def State.launchCores (s : State) (p : Nat) (k : Packet) : Option (List (Nat × Nat)) :=
  let all := s.mappedCores p
  let per := (List.range 4).map fun d => if k.weights.toList.getD d 0 = 0 then some [] else s.dieCores p d k.cores all
  if per.any Option.isNone then none
  else
    let m := (per.flatMap fun o => o.getD []).foldl (fun (m : NMap Nat) e => NMap.set m e.1 e.2) []
    if m.all fun e => s.coreAt p e.1 == some (s.pkgNo, e.2) then some m else none

/-- Bytes of scratchpad that a launch may reserve on a core (R73). -/
def reservable (x : CoreUnit) (p : Nat) : Nat := spSize (.core p) x - 65536

/-- What a packet asks of a core does not exceed the core's total (R73). -/
def State.everFits (s : State) (k : Packet) (p : Nat) : Bool :=
  k.spc * k.acc ≤ 8 && k.scratch * 4096 ≤ reservable (s.unit (.core p)) p

/-- Accumulators of a core that are not reserved, the lowest first. -/
def freeAccs (x : CoreUnit) : List Nat := (List.range 8).filter fun a => !x.resvAcc.any fun e => e.2.contains a

/-- A launch fits a core now (R73). -/
def State.fitsNow (s : State) (k : Packet) (p : Nat) : Bool :=
  let x := s.unit (.core p)
  k.spc * k.acc ≤ (freeAccs x).length && (k.scratch = 0 || (x.resvSp.isNone && k.scratch * 4096 ≤ reservable x p))

/-- The VF of a packet is bound to the partition, and has the PASID enabled (R47); the PF counts as bound to every partition to which
no VF is bound (log 37). -/
def State.packetFn (s : State) (p : Nat) (k : Packet) : Bool :=
  (if k.vf = 0 then s.vfOf p = 0 else (s.fn k.vf).bind == p) && !(s.fn k.vf).pasidOff.contains k.pasid

/-- The first check of R47 that a packet fails, with the cores it chooses. -/
def State.packetCheck (s : State) (p : Nat) (bs : List Byte) (k : Packet) : Except Nat (List (Nat × Nat)) :=
  if (k.kind != 1 && k.kind != 2) || packetReserved bs then .error 1
  else if 7 < k.prio then .error 2
  else if k.weights.toList.all (· == 0) then .error 3
  else if k.spc = 0 || 8 < k.spc || !(([0, 1, 2, 4, 8] : List Nat).contains k.acc) || 8 < k.spc * k.acc then .error 4
  else if (if k.kind = 1 then k.entry.toNat % 4 != 0 else k.entry != 0) then .error 5
  else if k.done.toNat % 8 != 0 || k.dep1.1.toNat % 8 != 0 || k.dep2.1.toNat % 8 != 0 then .error 6
  else if !s.packetFn p k then .error 7
  else if 256 < k.cores then .error 8
  else
    match s.launchCores p k with
    | none => .error 8
    | some cs => if cs.all fun e => s.everFits k e.2 then .ok cs else .error 8

/-- The entry domain of a packet (R41): the tag of ENTRY's page, with no rights checked; 0 for a batch (log 15). -/
def State.packetDomain (s : State) (p : Nat) (k : Packet) : State × Except Nat Dom :=
  if k.kind = 2 then (s, .ok 0)
  else
    match s.feLeaf p k.entry false with
    | (s, .ok l) => (s, .ok l.tag)
    | (s, .error e) => (s, .error e)

/-! ### A service turn (R62) -/

/-- The VA of the packet at HEAD. -/
def Slot.packetVa (x : Slot) : Word := x.ring + BitVec.ofNat 64 (128 * (x.head % 2 ^ x.log2n))

/-- A slot halts with a code (R47, R56, R60). -/
def State.haltSlot (s : State) (i : Nat) (code : Nat) : State :=
  let x := s.slot i
  (s.setSlot i { x with st := .halt, err := BitVec.ofNat 8 code, packet := none }).writeStatus x.part x.qnum code

/-- The slot takes its head packet and checks it (R60): to DEPWAIT or to HALT. STATUS becomes 0 each time a packet passes (log 53). -/
def State.takePacket (s : State) (i : Nat) : State :=
  let x := s.slot i
  match s.feRead x.part x.packetVa 128 with
  | (s, .error e) => s.haltSlot i e
  | (s, .ok bs) =>
    let k := packetOf bs
    match s.packetCheck x.part bs k with
    | .error e => s.haltSlot i e
    | .ok cs =>
      match s.packetDomain x.part k with
      | (s, .error e) => s.haltSlot i e
      | (s, .ok d) =>
        let s := s.setSlot i { x with st := .depwait, packet := some k, edom := d, cores := cs, order := s.orderNo, err := 0 }
        ({ s with orderNo := s.orderNo + 1 } : State).writeStatus x.part x.qnum 0

/-- A slot's visit may go on: it has taken a packet, and fewer than WEIGHT (R62). -/
def Slot.visiting (x : Slot) : Bool := 0 < x.taken && x.taken < x.weight

/-- The slot that the next turn goes to (R62), and whether the turn goes on with the slot's visit: the visit goes on up to WEIGHT
packets, and then comes the next slot of the level after the one it served last; the first round starts at the lowest slot
(log 53). -/
def State.nextTurn (s : State) : Option (Nat × Bool) :=
  let ready := (List.range 64).filter fun i => (s.slot i).st == .read
  let top := ready.foldl (fun m i => max m (s.slot i).level) 0
  let at_ := ready.filter fun i => (s.slot i).level == top
  match NMap.find s.rrLast top with
  | none => at_.head?.map fun i => (i, false)
  | some r =>
    if at_.contains r && (s.slot r).visiting then some (r, true)
    else match at_.find? fun i => r < i with
      | some i => some (i, false)
      | none => at_.head?.map fun i => (i, false)

/-- QUEUE_SERVICE_TURN (R58, R60, R62): TAIL is read again, and the slot takes its head packet. -/
def execQueueServiceTurn (s : State) : Host.Outcome State Fault Refusal :=
  match s.nextTurn with
  | none => .next s
  | some (i, on) =>
    let x := s.slot i
    let x := { x with
      tail := descField (s.desc x.part x.qnum) 0x10 8, taken := if on then x.taken + 1 else 1, served := s.orderNo }
    let s := { s.setSlot i x.settled with rrLast := NMap.set s.rrLast x.level i, orderNo := s.orderNo + 1 }
    .next (if x.settled.st == .read then s.takePacket i else s)

/-! ### Dependences (R45, R61) -/

/-- A dependence is satisfied (R45). -/
def State.depMet (s : State) (p : Nat) (d : Word × Word) : State × Except Nat Bool :=
  if d.1 = 0 then (s, .ok true)
  else
    match s.feRead p d.1 8 with
    | (s, .error e) => (s, .error e)
    | (s, .ok bs) => (s, .ok (d.2.toNat ≤ natOfBytes bs))

/-- Both dependences of the packet that a slot holds in DEPWAIT are evaluated (R45, R56). -/
def State.evalDeps (s : State) (slot : Nat) : State :=
  let x := s.slot slot
  match if x.st == .depwait then x.packet else none with
  | none => s
  | some k =>
    match s.depMet x.part k.dep1 with
    | (s, .error e) => s.haltSlot slot e
    | (s, .ok a) =>
      match s.depMet x.part k.dep2 with
      | (s, .error e) => s.haltSlot slot e
      | (s, .ok b) => if a && b then s.setSlot slot { x with st := .placewait } else s

/-- DEPENDENCE_EVAL (R45, R56, R61). -/
def execDependenceEval (slot : Nat) (s : State) : Host.Outcome State Fault Refusal := .next (s.evalDeps slot)

/-- What the front end does at once after a step, `old` being the state before it: a write performed at a home makes it evaluate
the dependences that wait (R61), and a slot that has become free or evictable takes the oldest pending notify (R64). -/
def State.settleFront (old s : State) : State :=
  let wait := s.slots.filter fun e => e.2.st == .depwait
  let s := if wait.isEmpty || s.mem == old.mem then s else wait.foldl (fun s e => s.evalDeps e.1) s
  s.mapAllPending s.pend.length

/-! ### Placement (R66, R73, R97, R333) -/

/-- A slot stands before another in the placement order (R73). -/
def Slot.before (x y : Slot) : Bool := y.level < x.level || (x.level == y.level && x.order < y.order)

/-- A launch earlier in the placement order waits for room on a core that this one needs. -/
def State.heldBack (s : State) (i : Nat) : Bool :=
  let y := s.slot i
  (List.range 64).any fun j =>
    let x := s.slot j
    j != i && x.st == .placewait && x.before y && x.cores.any fun e => y.cores.any fun f => e.2 == f.2

/-- The launch number that a packet takes (R66). -/
def State.launchNo (s : State) (p : Nat) (va : Word) : Option Nat :=
  match s.resvs.find? fun r => r.part == p && r.va == va with
  | some r => some r.num
  | none =>
    match leastFree (s.launches.map Prod.fst ++ s.resvs.map Resv.num) 16384 1 with
    | some n => if n ≤ 16383 then some n else none
    | none => none

/-- Reserve a core for a launch (R73, R97): accumulators, scratchpad, and the tags of the sections that it touches. -/
def CoreUnit.reserve (x : CoreUnit) (n : Nat) (k : Packet) (edom : Dom) (lcore : Nat) : CoreUnit :=
  let bytes := k.scratch * 4096
  { x with
    lcore := lcore
    resvAcc := if k.acc = 0 then x.resvAcc else NMap.set x.resvAcc n ((freeAccs x).take (k.spc * k.acc))
    resvSp := if k.scratch = 0 then x.resvSp else some (n, bytes)
    sect := Vector.ofFn fun i => if 65536 * i.val < bytes then edom.setWidth 10 else x.sect[i] }

/-- Admit the launch of a slot (R60, R66, R73): its number is live, its cores are reserved, LSTAT is zero, HEAD advances. -/
def State.makeLive (s : State) (i : Nat) (k : Packet) (n : Nat) : State :=
  let x := s.slot i
  let p := x.part
  let l : Launch := ⟨n, p, x.qnum, k, x.cores, x.edom, [], 0, 0, false⟩
  let s := x.cores.foldl (fun (s : State) e => s.modUnit (.core e.2) fun u => u.reserve n k x.edom e.1) s
  let known := x.cores.filter fun e => !s.mapCache.any fun m => m.1 == p && m.2.1 == e.1
  let s := { s with
    launches := NMap.set s.launches n l
    lstat := NMap.set s.lstat n ⟨0, 0⟩
    resvs := s.resvs.filter fun r => !(r.part == p && r.va == x.packetVa)
    mapCache := s.mapCache ++ known.map fun (e : Nat × Nat) => (p, e.1, BitVec.ofNat 64 (s.mapEntry p e.1)) }
  let head := (x.head + 1) % 2 ^ 64
  let s := s.homeWriteN none [] (s.descAt p x.qnum + 0x18) 8 head
  s.setSlot i ({ x with st := .read, head := head, packet := none, cores := [] } : Slot).settled

/-- PLACEMENT_ADMIT (R73). -/
def execPlacementAdmit (slot : Nat) (s : State) : Host.Outcome State Fault Refusal :=
  let x := s.slot slot
  match if x.st == .placewait then x.packet else none with
  | none => .next s
  | some k =>
    if (s.part x.part).tstate != 0 || s.heldBack slot || !(x.cores.all fun e => s.fitsNow k e.2) then .next s
    else
      match s.launchNo x.part x.packetVa with
      | none => .next s
      | some n => .next (s.makeLive slot k n)

/-! ### Launch numbers (R67) -/

/-- LNRESV (R67): reserve the lowest number that is neither live nor reserved, and latch the result. -/
def execLnresv (fn : Nat) (va : Word) (s : State) : Host.Outcome State Fault Refusal :=
  if !s.ready then .next s.unsupported else
  match s.fnPart fn with
  | none => .next s
  | some p =>
    let taken := s.resvs.any fun r => r.part == p && r.va == va
    let num := leastFree (s.launches.map Prod.fst ++ s.resvs.map Resv.num) 16384 1
    match if va.toNat % 128 != 0 || taken then none else num with
    | none => .next (s.modFn fn fun x => { x with resvLatch := BitVec.ofNat 64 (2 ^ 62) })
    | some n =>
      if n ≤ 16383 then
        .next (({ s with resvs := s.resvs ++ [⟨p, va, n⟩] } : State).modFn fn fun x => { x with resvLatch := BitVec.ofNat 64 (2 ^ 63 + n) })
      else .next (s.modFn fn fun x => { x with resvLatch := BitVec.ofNat 64 (2 ^ 62) })

/-- LNFREE (R67): the reservation of a number of the function's partition ends. -/
def execLnfree (fn : Nat) (v : Word) (s : State) : Host.Outcome State Fault Refusal :=
  if !s.ready then .next s.unsupported else
  match s.fnPart fn with
  | none => .next s
  | some p => .next { s with resvs := s.resvs.filter fun r => !(r.part == p && r.num == v.toNat % 2 ^ 14) }

/-! ### Tags and tables (R70, R198) -/

/-- A core that holds nothing: its CORETAG may be written (R70). -/
def CoreUnit.idle (x : CoreUnit) : Bool :=
  x.strands.isEmpty && x.mort[0].isNone && x.mort[1].isNone && x.resvAcc.isEmpty && x.resvSp.isNone && x.inbox.isEmpty

/-- A unit with a new tag: a change of PART invalidates its caches (R198). -/
def CoreUnit.retag (x : CoreUnit) (v : Word) : CoreUnit :=
  let p := v.toNat % 64
  let x := if p = x.tag then x
    else { x with l1 := [], fills := x.fills.map (fun f => { f with live := false }), ic := [], acqTab := [] }
  { x with en := v.getLsbD 7, tag := p }

/-- A context of the unit is where a migrated strand comes back to. -/
def State.homesHere (s : State) (u : UnitRef) : Bool := s.allStrands.any fun e => e.2.home.isSome && (homeOf e.1 e.2).unit == u

/-- CORETAG write (R70): taken only while the core holds nothing. -/
def execCoretagWrite (pcore : Nat) (v : Word) (s : State) : Host.Outcome State Fault Refusal :=
  .next (if !s.ready then s.unsupported else if (s.unit (.core pcore)).idle && !s.homesHere (.core pcore) then s.modUnit (.core pcore) fun x => x.retag v else s)

/-- KPTAG write (R70): taken only while the kingpost's own contexts hold no strand. -/
def execKptagWrite (kp : Nat) (v : Word) (s : State) : Host.Outcome State Fault Refusal :=
  .next (if !s.ready then s.unsupported else if !(s.unit (.kp kp)).strands.any (fun e => decide (e.1 < 4)) then s.modUnit (.kp kp) fun x => x.retag v else s)

/-- MAPINV (R70): the cached mapping entries of a partition are dropped. -/
def execMapinv (v : Word) (s : State) : Host.Outcome State Fault Refusal :=
  .next (if !s.ready then s.unsupported else { s with mapCache := s.mapCache.filter fun e => e.1 != v.toNat % 64 })

end Sys2Proof.Machine
end

