-- ==== Sys2Proof/Machine/Start.lean ====
section
/-! DEFINITION. Starting work (R41, R42, R68, R74–R81, R297, R307, R315, R371): the strand a context takes, the feeding and refilling
of queues, service strands, pre-emption for priority, the forecast, the completion of a launch (R46, R351, R352), and the choice
of the context that issues (R117). -/
namespace Sys2Proof.Machine

/-! ### A strand as R42 sets it up -/

/-- A strand with every register freed, at a code pointer. -/
def Strand.blank (sid : Nat) (kind : StrandKind) (pc : Word) : Strand where
  sid := sid
  kind := kind
  pc := pc
  dom := 0
  permit := true
  g := .replicate 8 .freed
  o := .replicate 8 .freed
  wins := [.freed]
  spillPend := []
  v := .replicate 32 .freed
  k := .replicate 8 (.of 0)
  mail := .replicate 8 none
  staged := .replicate 4 none
  frames := []
  recs := []
  depth := 0
  store := 0
  nx := false
  fflags := 0
  strict := false
  vtime := 0
  caller := 0
  launch := 0
  reject := 0
  unack := 0
  cap := none
  capId := 0
  wsig := 0
  lates := []
  cmds := []
  reports := []
  rem := []
  fail := none
  hold := none
  res := none
  arrived := none
  acq := none
  replay := none
  faults := []
  denied := none
  wfaults := []
  trap := none
  handler := none
  home := none
  gslot := none
  returning := false
  start := some ⟨true, none, none, false⟩
  preempt := false
  saving := none
  slot := none
  mask := none
  pos := none
  barPos := false
  accs := []
  prio := 0
  ctl := 0
  lcore := 0
  part := 0
  startNo := 0
  born := sid
  mark := none
  limit := none
  seen := none
  fetched := none

/-- The first window with its i registers: the list gives i0, i1, …; none leaves a register freed. -/
def startWindow (is : List (Option Word)) : Window :=
  ⟨.replicate 8 .freed, Vector.ofFn fun n => match is.getD n.val none with
    | some v => .of v
    | none => .freed⟩

/-- Stores of a unit that are in use (R124). -/
def State.usedStores (s : State) (u : UnitRef) : List Nat :=
  ((s.allStrands.filter fun e => (homeOf e.1 e.2).unit == u).map fun e => e.2.store) ++ (s.unit u).kept.map Prod.fst

/-- The lowest free store of a unit. -/
def State.freeStore (s : State) (u : UnitRef) : Option Nat :=
  match leastFree (s.usedStores u) 33 0 with
  | some n => if n < 32 then some n else none
  | none => none

/-! ### Positions (R74, R78, R315, R329) -/

/-- Positions of a launch on a core that a strand holds, or keeps while it is saved. -/
def State.posHeld (s : State) (p n : Nat) : List Nat :=
  ((s.allStrands.filter fun e => (homeOf e.1 e.2).unit == .core p && e.2.launch == n).filterMap fun e => e.2.pos) ++
    (s.entriesOf n).filterMap fun e =>
      match e.saved with
      | some v => if s.coreAt e.part (ctlPlace e.ctl) == some (s.pkgNo, p) then v.pos else none
      | none => none

/-- The lowest free position of a launch on a core. -/
def State.freePos (s : State) (p : Nat) (l : Launch) : Option Nat :=
  match leastFree (s.posHeld p l.num) 9 0 with
  | some k => if k < l.pkt.spc then some k else none
  | none => none

/-- The accumulators of position j of a launch on a core. -/
def accsOf (x : CoreUnit) (l : Launch) (j : Nat) : List Nat :=
  ((NMap.getD x.resvAcc l.num []).drop (j * l.pkt.acc)).take l.pkt.acc

/-! ### What a context can take (R78) -/

/-- The work that a context takes: a message of the inbox, a landed capsule, a record of a queue, or a generated index; with the
position the strand will hold. -/
inductive Work where
  | message (m : Message)
  | capsule (i : Fin 2) (k : Mort) (pos : Nat)
  | entry (r : QueueRef) (e : QEntry) (pos : Option Nat)
  | index (l : Launch) (i : Nat) (pos : Nat)
  deriving DecidableEq, Repr

/-- Timestamped work of a launch may start: outside DET always, in a DET launch below HORIZON (R304). -/
def State.timeOk (s : State) (launch ts : Nat) : Bool :=
  match s.launch launch with
  | some l => !l.pkt.det || ts < l.horizon
  | none => true

/-- The order of R304. -/
def orderBefore (a b : Nat × Nat × Nat) : Bool :=
  a.1 < b.1 || (a.1 == b.1 && (a.2.1 < b.2.1 || (a.2.1 == b.2.1 && a.2.2 < b.2.2)))

/-- The timestamp, key and sequence of a message. -/
def Message.stamp (m : Message) : Nat × Nat × Nat := (m.ts, m.key, m.seq)

/-- The messages of an inbox. -/
def CoreUnit.messages (x : CoreUnit) : List Message :=
  x.inbox.filterMap fun e => match e with
    | .msg m => some m
    | .dep _ => none

/-- The message whose handler may start next: the first in arrival order, and in a DET launch the first in the order of R304. -/
def State.nextMessage (s : State) (x : CoreUnit) : Option Message :=
  x.messages.find? fun m =>
    if s.isDet m.launch then
      s.timeOk m.launch m.ts && !x.messages.any fun n => n.launch == m.launch && orderBefore n.stamp m.stamp
    else true

/-- A landed capsule whose stop strand may start (R304, R307, R315): the earlier one in the order of timestamps in DET. Otherwise the one
in the lower mortise: R78 gives landed capsules no order, and this is the model's choice (log 67), as is that a capsule whose launch is 0
or not live, which has no position to give, does not start. -/
def State.nextCapsule (s : State) (p : Nat) (x : CoreUnit) : Option Work :=
  let landed := ([0, 1] : List (Fin 2)).filterMap fun i => match x.mort[i] with
    | some k => if k.use == .landed && s.timeOk k.launch k.ts then some (i, k) else none
    | none => none
  let first := landed.filter fun a => !landed.any fun b => s.isDet a.2.launch && b.2.launch == a.2.launch && b.2.ts < a.2.ts
  first.findSome? fun a => match s.launch a.2.launch with
    | some l => match s.freePos p l with
      | some j => some (.capsule a.1 a.2 j)
      | none => none
    | none => none

/-- A core may take an entry (R78): its partition's, one that names this core, or of a launch on this core or with no core in the
tile, with a position free where the strand needs one; `some` gives the position. -/
def State.canTake (s : State) (p : Nat) (e : QEntry) : Option (Option Nat) :=
  if (s.unit (.core p)).tag != e.part then none
  else
    match s.launch e.launch with
    | none => some none
    | some l =>
      if l.part != e.part then some none
      else if ctlPlace e.ctl == anyCore && l.inTile (p / 32) && !l.cores.any (fun f => f.2 == p) then none
      else
        match e.saved with
        | some ⟨_, _, .handler, _, _⟩ => some none
        | some ⟨_, _, _, some k, _⟩ => some (some k)
        | _ => (s.freePos p l).map some

/-- The head of a queue as a candidate, with its priority. -/
def State.headWork (s : State) (p : Nat) (r : QueueRef) : Option (Nat × Work) :=
  match (s.queue r).q with
  | [] => none
  | e :: _ => match s.canTake p e with
    | some pos => some (min (ctlPrio e.ctl) 7, .entry r e pos)
    | none => none

/-- The generator of an open launch as a candidate of a core (R75). -/
def State.genWork (s : State) (p : Nat) (l : Launch) : Option (Nat × Work) :=
  if l.pkt.kind = 1 && !l.isPinned && l.cores.any fun f => f.2 == p then
    match l.nextIdx (p / 256), s.freePos p l with
    | some i, some j => some (l.pkt.prio, .index l i j)
    | _, _ => none
  else none

/-- The first candidate of the highest priority. -/
def bestWork (ws : List (Nat × Work)) : Option Work :=
  let top := ws.foldl (fun m w => max m w.1) 0
  (ws.find? fun w => w.1 == top).map Prod.snd

/-- What the lowest free context of a core takes (R78). -/
def State.chooseWork (s : State) (p : Nat) : Option Work :=
  let x := s.unit (.core p)
  match s.nextMessage x with
  | some m => some (.message m)
  | none =>
    match s.nextCapsule p x with
    | some w => some w
    | none =>
      bestWork (([s.headWork p (.core p)] ++ ((List.range 8).map fun i => s.headWork p (.tile (p / 32) (7 - i))) ++
        s.launches.map fun e => s.genWork p e.2).filterMap id)

/-! ### The strand that starts -/

/-- The first check of R41 that a record fails before the check of its page: cause, access and address. -/
def State.recordCheck (s : State) (part : Nat) (code ctl : Word) (service : Bool) : Option (Nat × Nat × Word) :=
  let n := ctlLaunch ctl
  let live := match s.launch n with
    | some l => l.part == part
    | none => false
  if ctlBad ctl || (n != 0 && (service || !live)) then some (cILLEGAL, 0, 0)
  else if ctlPlace ctl != anyCore && !(match s.coreAt part (ctlPlace ctl) with
      | some e => e.1 == s.pkgNo
      | none => false) then some (cTARGET, 0, 0)
  else if code.toNat % 4 != 0 then some (cFETCHALIGN, 4, code)
  else none

/-- Zero the accumulators of a strand (R42). -/
def zeroAccs (x : CoreUnit) (accs : List Nat) : CoreUnit := { x with acc := x.acc.filter fun e => !accs.contains e.1 }

/-- The logical core that a strand of a launch runs as on a core. -/
def State.lcoreOf (s : State) (p launch : Nat) : Nat :=
  match s.launch launch with
  | some l => match l.cores.find? fun e => e.2 == p with
    | some e => e.1
    | none => (s.unit (.core p)).lcore
  | none => (s.unit (.core p)).lcore

/-- The entry domain of a launch: its strands' CALLER (R42); 0 where the launch is not live (log 14). -/
def State.edomOf (s : State) (launch : Nat) : Dom :=
  match s.launch launch with
  | some l => l.edom
  | none => 0

/-- Put a new strand into a context, with the check it has failed; an acquire it starts with is sent for (R241). -/
def State.begin (s : State) (c : CtxRef) (t : Strand) (bad : Option (Nat × Nat × Word)) (acq : Option AcqInfo) : State :=
  let (s, t) := match acq with
    | some q => s.acquireSent c.unit t q
    | none => (s, t)
  let s := s.modUnit c.unit fun x => zeroAccs x t.accs
  s.setStrand c { t with start := t.start.map fun b => { b with bad := bad } }

/-- A strand of a kind with its number, its place in the order of starts, and its store. -/
def State.makeStrand (s : State) (u : UnitRef) (kind : StrandKind) (pc : Word) (part launch store : Nat) : State × Strand :=
  let (id, s) := s.fresh
  let lcore := match u with
    | .core p => s.lcoreOf p launch
    | .kp _ => 0
  (s, { Strand.blank id kind pc with startNo := id, part := part, launch := launch, store := store, lcore := lcore })

/-- A core is one of a launch's: its strands hold barrier positions there (R290, R292). -/
def State.launchCore (s : State) (n p : Nat) : Bool :=
  match s.launch n with
  | some l => l.cores.any fun f => f.2 == p
  | none => false

/-- A strand that is restored takes its number again, by which what it had on its way finds it, with UNACK and the failure it held (R282,
R283); its unit does not go back to replicas older than what it has seen (R266). -/
def State.again (s : State) (u : UnitRef) (t : Strand) (m : RestoreMark) : State × Strand :=
  let a := NMap.getD s.unacked m.sid ⟨0, 0, none⟩
  (({ s with unacked := NMap.del s.unacked m.sid } : State).keepOff u fun v => m.seen.contains v.line,
    { t with sid := m.sid, born := m.born, mark := some m, unack := a.unack, reject := a.reject, fail := a.fail })

/-- A record's strand (R42), restored afterwards where the entry is marked (R331); the deposits of its save area take the numbers that
follow the one it starts with, before any that arrives for it. -/
def State.startEntry (s : State) (c : CtxRef) (p : Nat) (e : QEntry) (pos : Option Nat) (store : Nat) : State :=
  let kind : StrandKind := match e.saved with
    | some ⟨_, _, .handler, _, _⟩ => .handler
    | some ⟨_, _, _, some _, _⟩ => .stop
    | _ => .record
  let (s, t) := s.makeStrand c.unit kind e.code e.part e.launch store
  let (s, t) := match e.mark with
    | some m => ({ s with nextId := s.nextId + 128 } : State).again c.unit t m
    | none => (s, t)
  let accs := match s.launch e.launch, pos with
    | some l, some j => accsOf (s.unit c.unit) l j
    | _, _ => []
  let place := ctlPlace e.ctl
  let t := { t with
    wins := [startWindow [some (BitVec.ofNat 64 e.index), none, none, none, none, none, some e.frame, some e.addr]]
    lcore := if s.coreAt e.part place == some (s.pkgNo, p) then place else t.lcore
    caller := s.edomOf e.launch, vtime := if s.isDet e.launch then e.vtime else 0
    pos := pos, barPos := pos.isSome && kind == .record && s.launchCore e.launch p, accs := accs, prio := ctlPrio e.ctl, ctl := e.ctl
    start := some ⟨true, none, if e.mark.isSome then some e.frame else none, e.saved.isSome⟩
    slot := e.saved.map fun v => (v.tile, v.slot) }
  s.begin c t (s.recordCheck e.part e.code e.ctl false) e.acq

/-- A generated index's strand (R42, R75). -/
def State.startIndex (s : State) (c : CtxRef) (l : Launch) (i : Nat) (pos store : Nat) : State :=
  let (s, t) := s.makeStrand c.unit .record l.pkt.entry l.part l.num store
  let t := { t with
    wins := [startWindow [some (BitVec.ofNat 64 i), none, none, none, none, none, some l.pkt.args, some 0]]
    caller := l.edom, pos := some pos, barPos := true, accs := accsOf (s.unit c.unit) l pos, prio := l.pkt.prio
    ctl := ctlOf l.num anyCore l.pkt.prio }
  s.begin c t none none

/-- PRIO of a launch. -/
def State.prioOf (s : State) (launch : Nat) : Nat :=
  match s.launch launch with
  | some l => l.pkt.prio
  | none => 0

/-- A cell that reads as poisoned (R363). -/
def poisonCell (v : Word) : RegCell 64 := { RegCell.of v with poison := true }

/-- A handler strand (R297); one of an incomplete collective has i0–i3 poisoned and v0 holding the contributors missing (R363). -/
def State.startHandler (s : State) (c : CtxRef) (m : Message) (store : Nat) : State :=
  let (s, t) := s.makeStrand c.unit .handler m.entry m.part m.launch store
  let w := startWindow [some m.words[0], some m.words[1], some m.words[2], some m.words[3], some m.i4, some 0, some 0, some 0]
  let w := match m.miss with
    | some _ => { w with i := Vector.ofFn fun n => if n.val < 4 then poisonCell (w.i[n].read) else w.i[n] }
    | none => w
  let t := { t with
    wins := [w], v := (match m.miss with | some x => t.v.set 0 (.of x) | none => t.v)
    lcore := m.target, nx := m.nx, caller := m.dom, vtime := if s.isDet m.launch then m.ts else 0, prio := s.prioOf m.launch }
  s.begin c t (if m.entry.toNat % 4 != 0 then some (cFETCHALIGN, 4, m.entry) else none) none

/-- A stop strand (R307, R315): it holds its capsule, a position and that position's accumulators. -/
def State.startStop (s : State) (c : CtxRef) (i : Fin 2) (k : Mort) (pos store : Nat) : State :=
  let x := s.unit c.unit
  let cap := mortCapsule c.unit x i k none
  let stop := cap.next
  let place := cap.place stop
  let (s, t) := s.makeStrand c.unit .stop (cap.entry stop) k.part k.launch store
  let accs := match s.launch k.launch with
    | some l => accsOf x l pos
    | none => []
  let t := { t with
    wins := [startWindow [some (BitVec.ofNat 64 (place / 2 ^ 48)), some (BitVec.ofNat 64 (aliasBase + mortOff c.unit x i.val)),
      some (BitVec.ofNat 64 (cap.get 0x1C 4)), some 0, some 0, some 0, some 0, some 0]]
    lcore := x.lcore, nx := cap.get 0x1A 1 % 2 == 1, caller := BitVec.ofNat 8 (cap.get 0x1B 1), pos := some pos, accs := accs
    vtime := if s.isDet k.launch then k.ts else 0, prio := s.prioOf k.launch
    cap := some ⟨i, stop⟩, capId := BitVec.ofNat 64 (cap.get 0 8) }
  let s := s.modUnit c.unit fun x => { x with mort := x.mort.set i (some { k with use := .running t.sid }) }
  s.begin c t (if t.pc.toNat % 4 != 0 then some (cFETCHALIGN, 4, t.pc) else none) none

/-- Remove the head of a queue. -/
def State.popQueue (s : State) (r : QueueRef) : State :=
  let q := s.queue r
  s.setQueue r { q with q := q.q.tail }

/-- The store that the strand of some work starts with: a kept one, or the lowest free one. -/
def State.workStore (s : State) (u : UnitRef) (w : Work) : Option Nat :=
  match w with
  | .entry _ ⟨_, _, _, _, _, _, _, _, _, some ⟨_, _, _, _, some (_, n)⟩, _, _, _⟩ _ => some n
  | _ => s.freeStore u

/-- The first inbox entry that is this message goes. -/
def dropMessage (m : Message) : List InboxEntry → List InboxEntry
  | [] => []
  | e :: es => if e == .msg m then es else e :: dropMessage m es

/-- A context takes its work. -/
def State.takeWork (s : State) (c : CtxRef) (p : Nat) (w : Work) (store : Nat) : State :=
  match w with
  | .message m => (s.modUnit c.unit fun x => { x with inbox := dropMessage m x.inbox }).startHandler c m store
  | .capsule i k pos => s.startStop c i k pos store
  | .entry r e pos => (s.popQueue r).startEntry c p e pos store
  | .index l i pos => (s.modLaunch l.num fun l => l.advance (p / 256)).startIndex c l i pos store

/-- CONTEXT_TAKES_WORK (R78, R82): the lowest free context of an enabled core takes its next work, unless its partition is being
stopped (R355) or no store is free (R124). -/
def execContextTakesWork (c : CtxRef) (s : State) : Host.Outcome State Fault Refusal :=
  match c.unit with
  | .kp _ => .next s
  | .core p =>
    let x := s.unit c.unit
    if !s.ready || !x.en || (s.part x.tag).tstate != 0 || s.freeCtx c.unit != some c.ctx then .next s
    else
      match s.chooseWork p with
      | none => .next s
      | some w => match s.workStore c.unit w with
        | none => .next s
        | some n => .next (s.takeWork c p w n)

/-! ### Service strands (R79) -/

/-- KPSTART (R79): a service strand starts from a record in one of a kingpost's own contexts, or the write is refused. -/
def execKpstart (kp : Nat) (v : Word) (s : State) : Host.Outcome State Fault Refusal :=
  let u := UnitRef.kp kp
  let c : CtxRef := ⟨u, v.toNat % 4⟩
  let x := s.unit u
  let refuse (s : State) (n : Nat) : Host.Outcome State Fault Refusal :=
    .next (s.modUnit u fun x => { x with refuse := BitVec.ofNat 8 n })
  if !s.ready then .next s.unsupported
  else if (s.strand c).isSome then refuse s 1
  else if !x.en then refuse s 2
  else
    let va := BitVec.ofNat 64 (v.toNat / 32 * 32)
    match s.feRead x.tag va 32 with
    | (s, .error _) => refuse s 3
    | (s, .ok bs) =>
      match s.freeStore u with
      | none => refuse s 1
      | some n =>
        let code := wordIn bs 8
        let ctl := wordIn bs 24
        let (s, t) := s.makeStrand u .service code x.tag 0 n
        let t := { t with
          wins := [startWindow [some 0, none, none, none, none, none, some (wordIn bs 16), some va]], prio := ctlPrio ctl, ctl := ctl }
        .next (s.begin c t (s.recordCheck x.tag code ctl true) none)

/-! ### Queues that fill again (R76, R77) -/

/-- PINNED_QUEUE_FEED (R76): a launch core's next index joins its pinned queue, which keeps at most 64. PLACE of its control word is
0x3_FFFF, as R75 has it for the open mode (log 56). -/
def execPinnedQueueFeed (launch : Nat) (pcore : Nat) (s : State) : Host.Outcome State Fault Refusal :=
  match s.launch launch with
  | none => .next s
  | some l =>
    match if l.pkt.kind = 1 && l.isPinned then l.coreIdx pcore else none with
    | none => .next s
    | some d =>
      let r := QueueRef.core pcore
      let q := s.queue r
      match if q.ring.isEmpty && !(s.tile (pcore / 32)).holds r && !s.waitsAtHome r && q.q.length < 64 then l.nextIdx d else none with
      | none => .next s
      | some i =>
        let e : QEntry :=
          ⟨0, 0, l.pkt.entry, l.pkt.args, ctlOf launch anyCore l.pkt.prio, launch, l.part, i, none, none, 0, none, none⟩
        .next ((s.setQueue r { q with q := q.q ++ [e] }).modLaunch launch fun l => l.advance d)

/-- A queue's oldest entry in an overflow area, with its place there. -/
def ovfEntry (r : QueueRef) (t : Tile) : Option (QEntry × Over) :=
  t.ovf.findSome? fun o => match o.item with
    | .entry q e => if q == r then some (e, o) else none
    | _ => none

/-- The oldest entry that a queue has in the overflow area goes into its ring, where the ring has room (R77). -/
def State.ovfToRing (s : State) (r : QueueRef) : State :=
  let x := s.queue r
  match if x.ring.length < ringCap r then ovfEntry r (s.tile (queueTile r)) else none with
  | some (e, o) =>
    ((s.ovfTake (queueTile r) o).spillWrite (s.ringAt r x.ring.length) e.image).setQueue r { x with ring := x.ring ++ [e] }
  | none => s

/-- SPILL_RING_RETURN (R76, R77): the oldest entry of the ring comes back into the queue, or the oldest of the overflow area into
the ring. -/
def execSpillRingReturn (q : QueueRef) (s : State) : Host.Outcome State Fault Refusal :=
  let x := s.queue q
  match x.ring with
  | e :: es =>
    if x.q.length < queueCap q then
      .next ((s.spillRead (s.ringAt q 0) 32).setQueue q ⟨x.q ++ [e], es, (x.pos + 1) % ringCap q⟩)
    else .next (s.ovfToRing q)
  | [] => .next (s.ovfToRing q)

/-- OVERFLOW_PUSH_RESUME (R77): the oldest push of its queue that waits at a home slice goes on when there is room. -/
def execOverflowPushResume (id : Nat) (s : State) : Host.Outcome State Fault Refusal :=
  match NMap.find s.pushWait id with
  | none => .next s
  | some (r, e) =>
    if s.pushWait.any fun w => w.1 < id && w.2.1 == r then .next s
    else
      match s.enqueueNow r e with
      | some s => .next { s with pushWait := NMap.del s.pushWait id }
      | none => .next s

/-! ### Pre-emption for priority (R80, R328) -/

/-- The cores whose contexts the head of a queue is eligible for. -/
def State.eligible (s : State) (r : QueueRef) (e : QEntry) : List Nat :=
  match r with
  | .core p => [p]
  | .tile t _ =>
    (List.range 32).map (32 * t + ·) |>.filter fun p =>
      let x := s.unit (.core p)
      x.en && x.tag == e.part && (match s.launch e.launch with
        | some l => !l.inTile t || l.cores.any fun f => f.2 == p
        | none => true)

/-- The strand that a record asks to pre-empt (R80): the most recently started one of a lower priority and a pre-emptible launch. -/
def State.preemptee (s : State) (cores : List Nat) (prio : Nat) : Option (CtxRef × Strand) :=
  let able := s.allStrands.filter fun e =>
    (match e.1.unit with | .core p => cores.contains p | .kp _ => false) && e.2.prio < prio && !e.2.preempt && e.2.kind != .service &&
      (match s.launch e.2.launch with | some l => l.pkt.preempt | none => false)
  able.foldl (fun (b : Option (CtxRef × Strand)) e => match b with
    | none => some e
    | some x => if x.2.startNo < e.2.startNo then some e else b) none

/-- A pre-emption request reaches a strand (R328); a service strand takes none (R79). -/
def Strand.asked (t : Strand) : Strand := if t.kind == .service then t else { t with preempt := true }

/-- The pre-emption that a record has asked for is open: its strand has not been saved and has not ended (R80). -/
def State.askOpen (s : State) (e : QEntry) : Bool :=
  match e.asked with
  | some sid => s.allStrands.any fun t => t.2.sid == sid && t.2.preempt
  | none => false

/-- A record that waits because no context of its eligible cores is free, with no request of its own open, and the strand that it
asks to pre-empt (R80). -/
def State.asks (s : State) (q : QueueRef) (e : QEntry) : Option (CtxRef × Strand) :=
  let cores := s.eligible q e
  if s.askOpen e || cores.any fun p => (s.freeCtx (.core p)).isSome then none
  else s.preemptee cores (min (ctlPrio e.ctl) 7)

/-- The first record of a queue that asks for a pre-emption: the strand, and the queue with the record's request noted. -/
def State.firstAsk (s : State) (q : QueueRef) : List QEntry → Option (CtxRef × Strand × List QEntry)
  | [] => none
  | e :: es =>
    match s.asks q e with
    | some (c, t) => some (c, t, { e with asked := some t.sid } :: es)
    | none => (State.firstAsk s q es).map fun r => (r.1, r.2.1, e :: r.2.2)

/-- PRIORITY_PREEMPT_REQUEST (R80): the first record of a queue that waits because no context of its eligible cores is free asks for
a pre-emption; each record has at most one request open. -/
def execPriorityPreemptRequest (q : QueueRef) (s : State) : Host.Outcome State Fault Refusal :=
  match s.firstAsk q (s.queue q).q with
  | none => .next s
  | some (c, t, es) => .next ((s.setQueue q { s.queue q with q := es }).setStrand c t.asked)

/-! ### The activity forecast (R81) -/

/-- A launch has accumulators (MX) or none (VX). -/
def State.usesAcc (s : State) (launch : Nat) : Bool :=
  match s.launch launch with
  | some l => 0 < l.pkt.acc
  | none => false

/-- Indices that a generator still has on a die, at most four. -/
def Launch.left4 (l : Launch) (d : Nat) : Nat :=
  match l.nextIdx d with
  | some i => min 4 ((l.bounds d).2 - i)
  | none => 0

/-- Strands running or queued for a quad's cores, of launches with accumulators or of those without. -/
def State.quadLoad (s : State) (q : Nat) (acc : Bool) : Nat :=
  let mine (n : Nat) : Bool := s.usesAcc n == acc
  let cores := (List.range 4).map (4 * q + ·)
  let run := cores.foldl (fun n p => n + ((s.unit (.core p)).strands.filter fun t => mine t.2.launch).length) 0
  let pin := cores.foldl (fun n p => n + ((s.unit (.core p)).pinned.q.filter fun e => mine e.launch).length) 0
  let til := (s.tile (q / 8)).ready.foldl (fun n r => n + (r.2.q.filter fun e => mine e.launch).length) 0
  let gen := s.launches.foldl (fun n l =>
    if mine l.1 && !l.2.isPinned && l.2.pkt.kind = 1 then
      n + (cores.filter fun p => l.2.cores.any fun f => f.2 == p).length * l.2.left4 (q / 64)
    else n) 0
  run + pin + (til + 3) / 4 + gen

/-- The forecast byte of a quad. -/
def State.quadByte (s : State) (q : Nat) : Nat :=
  let four (n : Nat) : Nat := min 15 ((n + 1) / 2)
  four (s.quadLoad q true) * 16 + four (s.quadLoad q false)

/-- ACTIVITY_FORECAST (R81): one byte for each island; a tile's word holds those of its eight quads. -/
def execActivityForecast (s : State) : Host.Outcome State Fault Refusal :=
  .next ((List.range 32).foldl (fun (s : State) t =>
    let w := (List.range 8).foldl (fun n i => n + s.quadByte (8 * t + i) * 2 ^ (8 * i)) 0
    if (s.tile t).actfc = BitVec.ofNat 64 w then s else s.modTile t fun x => { x with actfc := BitVec.ofNat 64 w }) s)

/-! ### The end of a launch (R46, R351, R352) -/

/-- Everything a launch wrote is performed: nothing of a strand that has ended is on its way, and no collapse is outstanding. -/
def State.settledFor (s : State) (p : Nat) : Bool :=
  !s.usesLeft p && s.invs.isEmpty && !s.flights.any fun e => match e.2 with
    | .access i _ _ _ _ _ _ _ => (s.findSid i).isNone
    | .hostStore i _ _ _ => (s.findSid i).isNone
    | _ => false

/-- The addition at DONE in device memory, as an atomic with release at its home (R46, R273): none where it cannot be read
(R56), or a state in which it still waits. -/
def State.addDone (s : State) (l : Launch) : State × Option Bool :=
  match s.fePlace l.part l.pkt.done .both with
  | (s, .error _) => (s, some false)
  | (s, .ok lf) =>
    let pa := leafAddr lf l.pkt.done
    if s.pushHeld (lineOf pa) then (s, none)
    else if s.hostHas (lineOf pa) (byteMask (pa % 128) 8) then (s.recall (lineOf pa) (byteMask (pa % 128) 8), none)
    else
      match s.homeRmw l.part [] pa 8 fun v => (v + l.pkt.inc.toNat) % 2 ^ 64 with
      | (s, none) => (s, some false)
      | (s, some _) => (s.atHome l.part (lineOf pa) (sigAdd l.csig (lineOf pa)) lf.sync, some true)

/-- The addition at DONE in the host window, under ownership of its line (R351). -/
def State.addDoneHost (s : State) (l : Launch) : State × Option Bool :=
  let ha := l.pkt.done.toNat % 2 ^ 53
  match s.atcFind 0 l.pkt.vf l.pkt.pasid ha with
  | none => ((s.startAts 0 l.pkt.vf l.pkt.pasid ha (.strand 0)).1, none)
  | some e =>
    if e.r && e.w then
      let a := e.hpa + ha % 2 ^ e.log2
      (s.writeHost a (bytesOf 8 ((Memory.readN s.hostMem a 8 + l.pkt.inc.toNat) % 2 ^ 64)), some true)
    else (s, some false)

/-- Release a core from a launch (R73, R97): its sections are zeroed and take tag 0 again. -/
def CoreUnit.release (x : CoreUnit) (n : Nat) : CoreUnit :=
  let x := { x with resvAcc := NMap.del x.resvAcc n }
  match x.resvSp with
  | some (m, bytes) =>
    if m = n then
      let x := zeroSect x 0 ((bytes + 65535) / 65536 * 65536)
      { x with resvSp := none, sect := Vector.ofFn fun i => if 65536 * i.val < bytes then 0 else x.sect[i] }
    else x
  | none => x

/-- A launch number is free again, and its cores are released. -/
def State.freeLaunch (s : State) (l : Launch) : State :=
  let s := l.cores.foldl (fun (s : State) e => s.modUnit (.core e.2) fun x => x.release l.num) s
  { s with launches := NMap.del s.launches l.num }

/-- COMPLETION_ADDITION (R46, R351, R352): once nothing of the launch is left and its writes are performed. With DONE = 0 there is no
addition to perform, and RELEASE_SYS still sends the message (log 53). Nothing is added while the partition is STOPPED (R355). -/
def execCompletionAddition (launch : Nat) (s : State) : Host.Outcome State Fault Refusal :=
  match s.launch launch with
  | none => .next s
  | some l =>
    if !l.exhausted || s.launchBusy launch || s.stands l.part false then .next s
    else
      let s := s.finishUses l.part false
      if !s.settledFor l.part then .next s
      else
        let (s, r) := if l.pkt.done = 0 then (s, some true)
          else if regionOf l.pkt.done == .host then s.addDoneHost l else s.addDone l
        match r with
        | none => .next s
        | some ok =>
          let s := if ok then s else s.modLstat launch fun x => { x with code := 4 }
          let s := if ok && l.pkt.relSys then s.emit (.msix l.pkt.vf (l.qnum % Config.msixVectors l.pkt.vf)) else s
          .next (s.freeLaunch l)

/-! ### The choice of issue (R117) -/

/-- ISSUE_SELECT (R117): the context that issues next on a unit, in the island's next cycle. -/
def execIssueSelect (u : UnitRef) (s : State) : Host.Outcome State Fault Refusal :=
  match s.pick u with
  | none => .next s
  | some k =>
    let c : CtxRef := ⟨u, k⟩
    let s := s.modIsland (uisland u) fun x => { x with cycle := (x.cycle + 1) % 2 ^ 64 }
    let s := s.modUnit u fun x => { x with last := k }
    match s.strand c with
    | none => .next s
    | some t => .next { s.setStrand c { t with hold := none } with issuing := true, cur := c, turn := ukey u }

end Sys2Proof.Machine
end

