-- ==== Sys2Proof/Machine/MemEvents.lean ====
section
/-! DEFINITION. The events of registers and memory (R119, R120, R200–R222, R238–R245, R270–R285): results written back, drains, fills,
replicas, evictions, epochs, contributions at the home, acquire replies, page walks, and the host's answers about translations and
ownership. -/
namespace Sys2Proof.Machine

/-! ### Registers -/

/-- LONG_RESULT_WRITEBACK (R119, R120, R194): what has still to be performed for the result is performed first (R267), and the result is
written once all of it is. -/
def execLongResultWriteback (c : CtxRef) (id : Nat) (s : State) : Host.Outcome State Fault Refusal :=
  match s.strand c with
  | none => .next s
  | some t =>
    if t.lates.any fun r => r.id == id then
      let (s, t) := s.performLate c t id
      .next (s.setStrand c (if t.lates.any fun r => r.id == id && !r.todo.isEmpty then t else t.writeback id))
    else .next s

/-! ### The store buffer and the L1 (R200, R273) -/

/-- Forget the partitions whose PF invalidation has completed (R341). -/
def State.tlbiDone (s : State) : State := { s with tlbiPend := s.tlbiPend.filter s.tlbiBusy }

/-- The entry at a position of a store buffer, where no older entry is for its line (R200). -/
def drainable (x : CoreUnit) (i : Nat) : Option SbEntry :=
  match x.sb[i]? with
  | none => none
  | some e => if (x.sb.take i).any fun f => f.line == e.line then none else some e

/-- STORE_DRAIN (R200, R206). -/
def execStoreDrain (u : UnitRef) (idx : Nat) (s : State) : Host.Outcome State Fault Refusal :=
  match drainable (s.unit u) idx with
  | none => .next s
  | some e => .next (if e.rel.isSome then s else (s.drainAt u idx).tlbiDone)

/-- RELEASE_AT_HOME (R228, R273): the store that carries a release is performed, and its signature joins the side store. -/
def execReleaseAtHome (u : UnitRef) (idx : Nat) (s : State) : Host.Outcome State Fault Refusal :=
  match drainable (s.unit u) idx with
  | none => .next s
  | some e => .next (if e.rel.isSome then (s.drainAt u idx).tlbiDone else s)

/-- L1_FILL (R200, R238, R274). -/
def execL1Fill (u : UnitRef) (idx : Nat) (s : State) : Host.Outcome State Fault Refusal := .next (s.fillArrives u idx)

/-- ACQUIRE_REPLY (R270, R273, R274): the core's L1 and acquire table, and the strand's write signature; the replies of one slice
arrive in order. -/
def execAcquireReply (u : UnitRef) (idx : Nat) (s : State) : Host.Outcome State Fault Refusal :=
  let x := s.unit u
  match x.replies[idx]? with
  | none => .next s
  | some r =>
    if (x.replies.take idx).any fun q => sliceNo q.info.line == sliceNo r.info.line then .next s else
    let old := match s.findSid r.sid with
      | some (_, t) => t.wsig
      | none => 0
    let (x', sg) := onAcquire { x with replies := x.replies.eraseIdx idx } old r.info
    .next ((s.setUnit u x').modSid r.sid fun t => { t with wsig := sg, acq := none })

/-! ### Replicas (R205–R207, R279) -/

/-- REPLICA_FILL (R206, R279). -/
def execReplicaFill (idx : Nat) (s : State) : Host.Outcome State Fault Refusal :=
  match s.repFills[idx]? with
  | none => .next s
  | some f => .next (s.installReplica f (s.repFills.take idx) (s.repFills.drop (idx + 1)))

/-- REPLICA_INVALIDATION (R206, R279): the die drops the replica that the invalidation chases, not one that a newer fill has brought, and
acknowledges; a fill sent earlier is not installed. -/
def execReplicaInvalidation (idx : Nat) (s : State) : Host.Outcome State Fault Refusal :=
  match s.invs[idx]? with
  | none => .next s
  | some v =>
    .next { s with
      invs := s.invs.eraseIdx idx
      reps := s.reps.filter fun r => !(r.die == v.die && r.line == v.line && r.chased)
      repFills := s.repFills.map fun f => if f.die == v.die && f.line == v.line && f.chased then { f with live := false } else f }

/-- HOME_EVICTION (R206, R221): the line's replicas collapse, and a dirty line is written back under its owner's slot. -/
def execHomeEviction (line : Nat) (s : State) : Host.Outcome State Fault Refusal :=
  .next (if (s.line line).owner.isSome then s.evict line else s)

/-- A region's degree code after an epoch (R207). -/
def State.epochDeg (s : State) (r : Region) : BitVec 2 :=
  if s.repldown.toNat < r.wcol && 0 < r.deg.toNat then r.deg - 1
  else if s.replup.toNat ≤ r.rmiss && r.wcol ≤ s.replwmax.toNat && r.deg.toNat < 2 then r.deg + 1
  else r.deg

/-- REPLICA_EPOCH (R207): the regions of a home die take their new degrees, and their counters restart; the regions that nothing has
touched go together. -/
def execReplicaEpoch (die : Nat) (s : State) : Host.Outcome State Fault Refusal :=
  let s' := s.regions.foldl (fun s e =>
    if e.1 / 2 ^ 19 % 4 = die then
      let d := s.epochDeg e.2
      let s := s.modRegion e.1 fun _ => ⟨d, 0, 0⟩
      if d.toNat < e.2.deg.toNat then s.collapseExcluded e.1 d.toNat else s
    else s) s
  .next (s'.modDie die fun d => { d with deg := s.epochDeg ⟨d.deg, 0, 0⟩ })

/-! ### Operations on their way to a home (R239, R243) -/

/-- ATOMIC_AT_HOME (R239, R243, R273): a contribution is performed, with the release it carries, after earlier ones of its strand
to the line, and of its core to the word. -/
def execAtomicAtHome (id : Nat) (s : State) : Host.Outcome State Fault Refusal :=
  match NMap.find s.homeReqs id with
  | none => .next s
  | some r =>
    let line := lineOf r.pa
    let mask := byteMask (r.pa % 128) (if r.f64 then 8 else 4)
    if s.homeReqs.any fun e => e.1 < id && ((e.2.sid == r.sid && lineOf e.2.pa == line) || (e.2.key == r.key && e.2.pa == r.pa)) then .next s
    else if s.hostHas line mask then .next (s.recall line mask)
    else if s.pushHeld line then .next s
    else
      let s := { s with homeReqs := NMap.del s.homeReqs id }
      let s := (s.contribute r.part [r.sid] r.pa r.f64 r.x r.key).atHomeSeen r.unit line
      let s := s.modUnit r.unit fun x => dropLine x line
      .next (match r.rel with
        | some q => s.atHome r.part line q.sig q.sync
        | none => s).tlbiDone

/-! ### Walks (R216–R220) -/

/-- A page that a walk or the host found absent reaches who waits for it. -/
def State.tellAbsent (s : State) (w : Waiter) (key : Nat) (f : WalkFault) : State :=
  match w with
  | .strand sid => s.modSid sid fun t => { t with wfaults := t.wfaults ++ [(key, f)] }
  | .chan u ch => s.modChan u ch fun c => { c with wf := c.wf ++ [(key, f)] }
  | .retire id => match NMap.find s.retires id with
    | some r => { s with retires := NMap.set s.retires id { r with wf := r.wf ++ [(key, f)] } }
    | none => s

/-- A walk serves a service strand. -/
def State.serviceWalk (s : State) (w : Walk) : Bool :=
  w.who.any fun x => match x with
    | .strand sid => (match s.findSid sid with
      | some (_, t) => t.kind == .service
      | none => false)
    | _ => false

/-- WALK (R216–R219): a walk that has a walker sets A and D and fills a translation, or reports its fault; the next that has waited for a
walker begins. R219 lets a cache hold stage-2 leaves and pointers too, and evict: the model keeps combined leaves alone, and only an
invalidation removes one (log 68). The A and D of an entry in a half that the host owns wait for the recall (R285); nothing is set while the
partition is STOPPED (R355). -/
def execWalk (id : Nat) (s : State) : Host.Outcome State Fault Refusal :=
  match NMap.find s.walks id with
  | none => .next s
  | some w =>
    let (aSet, dSet) := match w.res with
      | .leaf .. => (w.aSet, w.dSet)
      | .fault .. => ([], [])
    if !s.hasWalker id w.die || s.stands w.part (s.serviceWalk w) then .next s
    else if !s.ptesReady aSet dSet then .next (s.recallPtes aSet dSet)
    else
      let s := { s with walks := NMap.del s.walks id }
      let s := match w.res with
        | .leaf l n ipas =>
          let s := s.setAD w.part w.aSet w.dSet
          { s with tlb := ⟨w.die, w.part, w.vpage, n, ipas, l⟩ :: s.tlb.filter fun e =>
              !(e.die == w.die && e.part == w.part && e.vpage == w.vpage) }
        | .fault f _ => w.who.foldl (fun s x => s.tellAbsent x w.vpage f) s
      .next (match (s.walksOn w.die)[127]? with
        | some e => s.walkFrom e.1 e.2
        | none => s)

/-- WALK_RESTART (R220): the walk begins again from the root. -/
def execWalkRestart (id : Nat) (s : State) : Host.Outcome State Fault Refusal :=
  match NMap.find s.walks id with
  | none => .next s
  | some w => .next (s.walkFrom id w)

/-- ATS_TRANSLATION_COMPLETION (R212): the host's answer enters the die's cache, or the page is absent. A request of the front end
(R351) keeps an absent page as one without rights. -/
def execAtsTranslationCompletion (id : Nat) (r : AtsResult) (s : State) : Host.Outcome State Fault Refusal :=
  match NMap.find s.atsReqs id with
  | none => .next s
  | some q =>
    let s := { s with atsReqs := NMap.del s.atsReqs id }
    match r with
    | .ok hpa log2 rd wr =>
      let k := max 12 log2
      .next { s with atc := ⟨q.die, q.fn, q.pasid, q.page, k, hpa / 2 ^ k * 2 ^ k, rd, wr⟩ :: s.atc.filter fun e =>
        !(e.die == q.die && e.fn == q.fn && e.pasid == q.pasid && e.page == q.page) }
    | .absent =>
      match q.sid with
      | .strand 0 => .next { s with atc := ⟨q.die, q.fn, q.pasid, q.page, 12, 0, false, false⟩ :: s.atc }
      | w => .next (s.tellAbsent w (2 ^ 60 + q.page) ⟨none, false, 3, false, 0, false⟩)

/-! ### The host's halves (R285) -/

/-- BACK_INVALIDATE_RESPONSE (R285): the host gives up a half, with its bytes where it had changed them. -/
def execBackInvalidateResponse (line : Nat) (half : Bool) (data : Option (BitVec 512)) (s : State) :
    Host.Outcome State Fault Refusal :=
  if !s.snoops.contains ⟨line, half⟩ then .next s
  else
    let s := { s with
      snoops := s.snoops.filter fun x => x != ⟨line, half⟩
      hostOwn := s.hostOwn.filter fun x => x != (line, half) }
    .next (match data with
      | some d =>
        let o := if half then 64 else 0
        s.homeWrite none [] line (byteMask o 64) (linePut o 64 d.toNat)
      | none => s)

end Sys2Proof.Machine
end

