-- ==== Sys2Proof/Machine/Fabric.lean ====
section
/-! DEFINITION. The fabric of a package (R50, R129, R211, R281–R283, R292–R305, R312, R335, R345): capsules that park, enter, land and
retire; messages, deposits, acknowledgements and remote accesses; barrier phases, limits that pass, wake flags and HORIZON. -/
namespace Sys2Proof.Machine

/-! ### Capsules that park or enter (R50, R335) -/

/-- CAPSULE_PARK (R335): the capsule that has waited longest in its partition takes a slot that has become free; not while the partition is
STOPPED (R355). -/
def execCapsulePark (id : Nat) (s : State) : Host.Outcome State Fault Refusal :=
  match NMap.find s.parkWait id with
  | none => .next s
  | some w =>
    if s.stands w.cap.part false || s.parkWait.any fun e => e.1 < id && e.2.cap.part == w.cap.part then .next s
    else match s.freePark w.cap.part with
      | none => .next s
      | some k => .next (({ s with parkWait := NMap.del s.parkWait id } : State).parkInto k w)

/-- The image of a batch's capsule: the tag of the header's page, the prefix, and as much payload as it states. A header that cannot be read
counts as zeros, and a payload that cannot be read as none (log 16). -/
def State.batchImage (s : State) (p : Nat) (va : Word) : State × Dom × List Byte × List Byte :=
  let none_ := List.replicate 256 0
  match s.feLeaf p va false with
  | (s, .error _) => (s, 0, none_, [])
  | (s, .ok l) =>
    match s.feRead p va 256 with
    | (s, .error _) => (s, l.tag, none_, [])
    | (s, .ok pfx) =>
      match s.feRead p (va + 256) (min (natOfBytes ((pfx.drop 0x1C).take 4)) 16384) with
      | (s, .error _) => (s, l.tag, pfx, [])
      | (s, .ok payload) => (s, l.tag, pfx, payload)

/-- CAPSULE_INJECT (R50, R303): the front end makes the next capsule of a batch: it writes CREATOR and FLAGS[0], and then checks the prefix. A
capsule that has no readable entry in the batch, or a misaligned one, parks (log 16). A STOPPED partition's batch stands still (R355). -/
def execCapsuleInject (launch : Nat) (s : State) : Host.Outcome State Fault Refusal :=
  match s.launch launch with
  | none => .next s
  | some l =>
    if l.pkt.kind != 2 || l.exhausted || s.stands l.part false then .next s
    else
      let i := NMap.getD l.next 0 0
      let s := s.modLaunch launch fun l => { l with next := NMap.set l.next 0 (i + 1) }
      let ts := if l.pkt.det then 1 else 0
      match s.feRead l.part (l.pkt.args + BitVec.ofNat 64 (8 * i)) 8 with
      | (s, .error _) => .next (s.park ⟨.replicate 256 0, [], launch, l.part, ts, none⟩ cCAPSULE 0 false 0 0 none)
      | (s, .ok bs) =>
        let va := BitVec.ofNat 64 (natOfBytes bs)
        let (s, tag, pfx, payload) := s.batchImage l.part va
        let c : Capsule := ⟨pfx, payload, launch, l.part, ts, none⟩
        let c := (c.put 0x1B 1 tag.toNat).put 0x1A 1 (c.get 0x1A 1 / 2 * 2)
        .next (if va.toNat % 256 = 0 then s.enterFabric c else s.park c cCAPSULE 0 false 0 c.next none)

/-! ### Landing (R305) -/

/-- A capsule that waits to land: its core, its logical core, its stop, itself, and its place in the overflow area where it is there. -/
structure Arriving where
  pcore : Nat
  lcore : Nat
  stop  : Nat
  cap   : Capsule
  ovf   : Option Over

/-- The capsules of an overflow area, with their numbers. -/
def ovfCaps (t : Tile) : List (Nat × Arriving) :=
  t.ovf.filterMap fun o => match o.item with
    | .cap id core l stop c => some (id, ⟨core, l, stop, c, some o⟩)
    | _ => none

/-- The arriving capsule with a number. -/
def State.arriving (s : State) (id : Nat) : Option Arriving :=
  match NMap.find s.flights id with
  | some (.hop p l stop c) => some ⟨p, l, stop, c, none⟩
  | _ => s.tiles.findSome? fun e => (ovfCaps e.2).findSome? fun x => if x.1 = id then some x.2 else none

/-- The capsule is no longer on its way, or in an overflow area. -/
def State.arrived (s : State) (id : Nat) (a : Arriving) : State :=
  match a.ovf with
  | some o => s.ovfTake (a.pcore / 32) o
  | none => { s with flights := NMap.del s.flights id }

/-- An earlier capsule waits in the overflow area for the same core: in order of arrival, and in a DET launch of timestamps. -/
def State.capBehind (s : State) (id : Nat) (a : Arriving) : Bool :=
  let ws := (ovfCaps (s.tile (a.pcore / 32))).filter fun x => x.2.pcore == a.pcore && x.1 != id
  if s.isDet a.cap.launch then ws.any fun x => x.2.cap.launch == a.cap.launch && x.2.cap.ts < a.cap.ts
  else if a.ovf.isSome then
    match (ovfCaps (s.tile (a.pcore / 32))).find? fun x => x.2.pcore == a.pcore with
    | some x => x.1 != id
    | none => false
  else !ws.isEmpty

/-- A capsule occupies a mortise (R305): its prefix at offset 0 with NEXT its stop, its payload from offset 256. -/
def State.landIn (s : State) (a : Arriving) (m : Fin 2) : State :=
  let c := a.cap.put 0x19 1 a.stop
  s.modUnit (.core a.pcore) fun x =>
    let x := spWrite x (mortOff (.core a.pcore) x m.val) (c.pfx ++ c.payload)
    { x with mort := x.mort.set m (some ⟨c.launch, c.part, c.ts, 0, .landed⟩), lcore := a.lcore }

/-- CAPSULE_LAND (R305, R335): a capsule on its way, or one of an overflow area, takes a free mortise of its core, or waits; where
the core is no longer the logical core it was sent to, it parks, and waits where it is while no park slot is free. -/
def execCapsuleLand (id : Nat) (s : State) : Host.Outcome State Fault Refusal :=
  match s.arriving id with
  | none => .next s
  | some a =>
    if (s.part a.cap.part).tstate != 0 then .next s
    else if s.coreAt a.cap.part a.lcore != some (s.pkgNo, a.pcore) then
      .next (if (s.freePark a.cap.part).isNone then s
        else (s.arrived id a).park { a.cap with by_ := none } cCAPSULE (a.cap.entry a.stop) false 0 a.stop none)
    else
      let m := freeMort (s.unit (.core a.pcore))
      match if s.capBehind id a then none else m with
      | some m => .next ((s.arrived id a).landIn a m)
      | none =>
        let item : OverItem := .cap id a.pcore a.lcore a.stop a.cap
        if a.ovf.isNone && (s.tile (a.pcore / 32)).room item then
          .next ((s.arrived id a).ovfPut (a.pcore / 32) item)
        else .next s

/-! ### Retirement (R312) -/

/-- The rights that a retirement captured. -/
def Retire.who (r : Retire) : Who := ⟨udie r.unit, r.unit, r.unit, r.cap.part, r.lcore, r.cap.launch, r.dom, r.frames, r.wf⟩

/-- EXIT of a capsule. -/
def Capsule.exit (c : Capsule) : Word := BitVec.ofNat 64 (c.get 8 8)
/-- DONE of a capsule. -/
def Capsule.done (c : Capsule) : Word := BitVec.ofNat 64 (c.get 0x10 8)

/-- Change a retirement. -/
def State.modRetire (s : State) (id : Nat) (f : Retire → Retire) : State :=
  match NMap.find s.retires id with
  | some r => { s with retires := NMap.set s.retires id (f r) }
  | none => s

/-- What a failed check of a retirement does (R312): the capsule parks, the page is asked for, or its fault is raised. -/
def State.retireStop (s : State) (r : Retire) (va : Word) (acc : Acc) : AStop → State
  | .trap _ => s.retireFail r cRIGHTS va 0
  | .miss =>
    let s := s.modRetire r.id fun r => { r with at_ := [] }
    if regionOf va == .host then
      match s.fnPasid r.cap.launch with
      | some (fn, pasid) => (s.startAts (udie r.unit) fn pasid (va.toNat % 2 ^ 53) (.retire r.id)).1
      | none => s.retireFail r cRIGHTS va 0
    else (s.startWalk (udie r.unit) r.cap.part va acc.writes (.retire r.id)).1
  | .absent f host =>
    let vf := s.vfOf r.cap.part
    let a := f.acc.getD acc.faultCode
    let (s, id) := s.raiseFault
      { id := 0, fid := none, die := udie r.unit, vf := vf, part := r.cap.part, stage := f.stage, host := host, who := .retire r.id
        launch := r.cap.launch, lanes := 0, acc := acc.faultCode
        words := #v[va, f.ipa, 0, faultWord3 a f.stage f.level f.mal host true 0 true r.cap.part vf, r.issuer, 0] }
    s.modRetire r.id fun r => { r with faults := [id], wf := [], at_ := [] }

/-- A line enters the signature of the strand that issued the retirement, or of its launch once the strand has ended. -/
def State.signFor (s : State) (r : Retire) (line : Nat) : State :=
  match s.findSid r.sid with
  | some (c, t) => s.setStrand c { t with wsig := sigAdd t.wsig line }
  | none => s.modLaunch r.cap.launch fun l => { l with csig := sigAdd l.csig line }

/-- Write bytes of the payload at a place; none where the home has to wait (R77, R285). -/
def State.retireWrite (s : State) (r : Retire) (p : Place) (bs : List Byte) : Except State State :=
  match p with
  | .own off => .ok (s.modUnit r.unit fun x => spWrite x off bs)
  | .far _ pcore _ off => .ok (s.modUnit (.core pcore) fun x => spWrite x off bs)
  | .host hpa _ => .ok (s.writeHost hpa bs)
  | .mem _ pa =>
    let line := lineOf pa
    let mask := byteMask (pa % 128) bs.length
    if s.pushHeld line then .error s
    else if s.hostHas line mask then .error (s.recall line mask)
    else
      let s := s.homeWrite (some r.cap.part) [r.sid, r.id] line mask (linePut (pa % 128) bs.length (natOfBytes bs))
      let s := (s.atHomeSeen r.unit line).modUnit r.unit fun x => dropLine x line
      .ok (match paKind pa with
        | .mem => (s.signFor r line).modRetire r.id fun r => { r with sig := sigAdd r.sig line }
        | _ => s)

/-- The ADEC at DONE with release at PKG (R240, R241, R312), on the retirement's own signature. -/
def State.retireDec (s : State) (r : Retire) (l : Leaf) (pa : Nat) : State :=
  let line := lineOf pa
  let part := r.cap.part
  let va := r.cap.done
  let (s, d, hit) := s.homeRead (some part) line
  if hit != .ok then s.retireFail r cPOISON va 0
  else
    let c := BitVec.ofNat 64 (lineGet d (pa % 128) 8) - 1
    let s := s.homeWriteN (some part) [] pa 8 c.toNat
    let s := (s.atHomeSeen r.unit line).modUnit r.unit fun u => dropLine u line
    let s := s.atHome part line (sigAdd r.sig line) l.sync
    let w := bytesOf 32 (lineGet d (pa % 128) 32)
    let vtime := match s.findSid r.sid with
      | some (_, t) => t.vtime
      | none => r.cap.ts
    let s := if c = 0 then
        s.pushRecord part r.tile r.cap.launch vtime pa va (wordIn w 8) (wordIn w 16) (wordIn w 24) none (some (s.acqInfo line l.sync))
      else if c.msb then s.modSlice (sliceNo line) fun x => { x with underflow := min (x.underflow + 1) (2 ^ 32 - 1) }
      else s
    s.retireGone r.id r.sid

/-- The last step of a retirement: DONE, once the payload writes and their collapses are performed. -/
def State.retireDone (s : State) (r : Retire) : State :=
  let va := r.cap.done
  if va = 0 then s.retireGone r.id r.sid
  else if s.invs.any fun v => v.sids.contains r.id then s
  else
    match s.check r.who va 32 32 .both .adec with
    | .error e => s.retireStop r va .both e
    | .ok (.mem l pa) =>
      if s.pushHeld (lineOf pa) then s
      else if s.hostHas (lineOf pa) (byteMask (pa % 128) 8) then s.recall (lineOf pa) (byteMask (pa % 128) 8)
      else s.retireDec r l pa
    | .ok _ => s.retireFail r cRIGHTS va 0

/-- CAPSULE_RETIREMENT (R312): the next bytes of the payload, up to the end of a line of EXIT, or the last step. A page or section is checked
with the translation and the tags that it had when the retirement reached it (R92). -/
def execCapsuleRetirement (id : Nat) (s : State) : Host.Outcome State Fault Refusal :=
  match NMap.find s.retires id with
  | none => .next s
  | some r =>
    if !r.faults.isEmpty || s.stands r.cap.part false then .next s
    else if r.cap.payload.length ≤ r.pos then .next (s.retireDone r)
    else
      let va := r.cap.exit + BitVec.ofNat 64 r.pos
      let n := min (128 - va.toNat % 128) (r.cap.payload.length - r.pos)
      match (s.asReached r.at_).engPlace r.who va n .write with
      | .error e => .next (s.retireStop r va .write e)
      | .ok p =>
        match s.retireWrite r p ((r.cap.payload.drop r.pos).take n) with
        | .error s => .next s
        | .ok s' => .next (s'.modRetire id fun x => { x with pos := r.pos + n, at_ := s.reachOf r.unit r.cap.part r.at_ va p })

/-! ### Messages and deposits (R129, R282, R296, R298, R300) -/

/-- The messages of an overflow area: number, core, message, and its place there. -/
def ovfMsgs (t : Tile) : List (Nat × Nat × Message × Over) :=
  t.ovf.filterMap fun o => match o.item with
    | .msg id p m => some (id, p, m, o)
    | _ => none

/-- A message enters the inbox of a core, whose contexts wake (R345). -/
def State.inboxPut (s : State) (pcore : Nat) (e : InboxEntry) : State :=
  (s.modUnit (.core pcore) fun x => { x with inbox := x.inbox ++ [e] }).wakeUnit (.core pcore)

/-- A flight has been accepted or refused: its acknowledgement is on its way (R282). -/
def State.ackFlight (s : State) (id sid reject : Nat) (fail : Option (Nat × Word × Nat)) : State :=
  { s with flights := NMap.set s.flights id (.ack sid reject fail) }

/-- The oldest message that an overflow area holds for a core. -/
def ovfFirst (t : Tile) (pcore : Nat) : Option (Nat × Nat × Message × Over) := (ovfMsgs t).find? fun e => e.2.1 == pcore

/-- The message with a number that waits in an overflow area: its core, itself, and its place there. -/
def State.ovfMsg (s : State) (id : Nat) : Option (Nat × Message × Over) :=
  s.tiles.findSome? fun e => ((ovfMsgs e.2).find? fun x => x.1 == id).map fun x => x.2

/-- An earlier message of the same strand to the core is still on its way (R43, R296). -/
def State.msgEarlier (s : State) (id pkg p born : Nat) : Bool :=
  s.flights.any fun e => e.1 < id && (match e.2 with
    | .message _ pk q m => pk == pkg && q == p && m.born == born
    | _ => false)

/-- An earlier deposit of the same strand to the core is still on its way (R300). -/
def State.depEarlier (s : State) (id pkg p born : Nat) : Bool :=
  s.flights.any fun e => e.1 < id && (match e.2 with
    | .deposit _ pk q d => pk == pkg && q == p && d.born == born
    | _ => false)

/-- MESSAGE_DELIVERY (R296, R298): a message enters its target's inbox or, when that is full, the tile's overflow area, from where
it enters the inbox in order of arrival. -/
def execMessageDelivery (id : Nat) (s : State) : Host.Outcome State Fault Refusal :=
  match NMap.find s.flights id with
  | some (.message sid pkg p m) =>
    if pkg != s.pkgNo || s.msgEarlier id pkg p m.born then .next s
    else
      let t := s.tile (p / 32)
      if (s.unit (.core p)).inbox.length < 64 && (ovfFirst t p).isNone then .next ((s.inboxPut p (.msg m)).ackFlight id sid 0 none)
      else if t.room (.msg id p m) then
        .next ((s.ovfPut (p / 32) (.msg id p m)).ackFlight id sid 0 none)
      else .next s
  | _ =>
    match s.ovfMsg id with
    | none => .next s
    | some (p, m, o) =>
      if (s.unit (.core p)).inbox.length < 64 && ((ovfFirst (s.tile (p / 32)) p).map Prod.fst) == some id then
        .next ((s.ovfTake (p / 32) o).inboxPut p (.msg m))
      else .next s

/-- The order of a deposit in a DET launch (R304). -/
def Deposit.stamp (d : Deposit) : Nat × Nat × Nat := (d.ts, d.key, d.seq)

/-- The strand runs where it is (R129): not migrated, saved, parked, or about to be restored, nor in a YIELD that has saved it (R147). -/
def Strand.receives (t : Strand) : Bool :=
  t.home.isNone && t.trap.isNone && t.saving.isNone && !t.returning && t.faults.isEmpty && t.start.isNone && t.res.isNone

/-- A deposit may land (R129, R304): its register is empty, its strand runs, its time has come, and no waiting deposit for the
register goes before it. -/
def State.mayLand (s : State) (x : CoreUnit) (t : Strand) (d : Deposit) : Bool :=
  let rivals := (waiting x t.sid).filter fun e => e.mreg == d.mreg && e.id != d.id
  let before (e : Deposit) : Bool := if s.isDet d.launch then orderBefore e.stamp d.stamp else e.id < d.id
  t.receives && t.mail[d.mreg].isNone && s.timeOk d.launch d.ts && !rivals.any before

/-- A deposit lands in its register. -/
def Strand.deposit (t : Strand) (d : Deposit) : Strand := { t with mail := t.mail.set d.mreg (some ⟨d.word, d.nx, d.ts⟩) }

/-- DEPOSIT_ARRIVAL (R129, R290, R300): a deposit binds to the strand in its context and lands, waits in the inbox, or is refused; a
waiting one lands when it can. Its number is that of its arrival (R129). -/
def execDepositArrival (id : Nat) (s : State) : Host.Outcome State Fault Refusal :=
  match NMap.find s.flights id with
  | some (.deposit sid pkg p d) =>
    if pkg != s.pkgNo || s.depEarlier id pkg p d.born then .next s
    else
      let c : CtxRef := ⟨.core p, d.ctx⟩
      match s.strand c with
      | none => .next (s.ackFlight id sid 4 none)
      | some t =>
        let (n, s1) := s.fresh
        let d := { d with id := n, sid := some t.sid }
        if s.mayLand (s.unit c.unit) t d then .next ((s1.setStrand c (t.deposit d)).ackFlight id sid 0 none)
        else if (s.unit c.unit).inbox.length < 64 then .next ((s1.inboxPut p (.dep d)).ackFlight id sid 0 none)
        else .next s
  | _ =>
    let found := s.units.findSome? fun e => e.2.inbox.findSome? fun i => match i with
      | .dep d => if d.id = id then some (uref e.1, d) else none
      | .msg _ => none
    match found with
    | none => .next s
    | some (u, d) =>
      match s.allStrands.find? fun e => some e.2.sid == d.sid && e.1.unit == u with
      | none => .next s
      | some (c, t) =>
        if s.mayLand (s.unit u) t d then
          .next ((s.setStrand c (t.deposit d)).modUnit u fun x => { x with inbox := x.inbox.filter fun i => match i with
            | .dep e => e.id != id
            | .msg _ => true })
        else .next s

/-! ### Acknowledgements and remote accesses (R211, R281–R283) -/

/-- The first failure is held, and later ones counted (R283). -/
def holdFail (fail : Option (Nat × Word × Nat)) (held : Option HeldFail) : Option HeldFail :=
  match fail, held with
  | none, f => f
  | some (cause, va, acc), none => some ⟨cause, va, acc, 1⟩
  | some _, some f => some { f with count := f.count + 1 }

/-- A refusal sets REJECT (R290). -/
def rejectOr (reject : Nat) (old : BitVec 8) : BitVec 8 := if reject = 0 then old else BitVec.ofNat 8 reject

/-- An acknowledgement reaches its strand: UNACK falls, a refusal sets REJECT (R290), and the first failure is held (R283). -/
def Strand.acked (t : Strand) (reject : Nat) (fail : Option (Nat × Word × Nat)) : Strand :=
  { t with
    unack := t.unack - 1
    reject := rejectOr reject t.reject
    fail := holdFail fail t.fail }

/-- An acknowledgement arrives for a strand that is saved (R282, R283, R290). -/
def State.ackSaved (s : State) (sid reject : Nat) (fail : Option (Nat × Word × Nat)) : State :=
  match NMap.find s.unacked sid with
  | some a => { s with unacked := NMap.set s.unacked sid ⟨a.unack - 1, rejectOr reject a.reject, holdFail fail a.fail⟩ }
  | none => s

/-- REQUEST_ACK (R282, R290): an acknowledgement arrives; a store to the host is performed there first, after earlier ones of its strand to
the same bytes (R266, R286), and what goes to another package is accepted there. -/
def execRequestAck (id : Nat) (s : State) : Host.Outcome State Fault Refusal :=
  match NMap.find s.flights id with
  | some (.ack sid reject fail) =>
    .next ((({ s with flights := NMap.del s.flights id } : State).modSid sid fun t => t.acked reject fail).ackSaved sid reject fail)
  | some (.hostStore sid hpa _ bs) =>
    let earlier := s.flights.any fun e => e.1 < id && (match e.2 with
      | .hostStore i a _ b => i == sid && a < hpa + bs.length && hpa < a + b.length
      | _ => false)
    .next (if earlier then s else s.hostStoreDone id)
  | some (.message sid pkg _ _) => .next (if pkg = s.pkgNo then s else s.ackFlight id sid 0 none)
  | some (.deposit sid pkg _ _) => .next (if pkg = s.pkgNo then s else s.ackFlight id sid 0 none)
  | _ => .next s

/-- The kind of access of a request. -/
def RemOp.acc : RemOp → Acc
  | .load _ | .ldf _ => .read
  | .store .. | .sete _ => .write
  | .atomic .. | .probe _ => .both

/-- A request that only an acknowledgement follows. -/
def RemOp.told : RemOp → Bool
  | .store .. | .sete _ => true
  | _ => false

/-- A request performed at its bank (R197, R231): its reply, or none while an LDF waits for its full bit. -/
def bankDo (x : CoreUnit) (o : RemOp) (off : Nat) : CoreUnit × Option RemoteReply :=
  let n := o.bytes
  let v := spRead x off n
  let bad := spPoisoned x off n
  let got : RemoteReply := if bad then .poison else .ok (BitVec.ofNat 64 v)
  match o with
  | .load _ | .probe _ => (x, some got)
  | .ldf _ => (x, if fullBit x (off / 8) then some got else none)
  | .store _ w full => (spStore x (if full then .full else .plain) off n w.toNat, some (.ok 0))
  | .sete _ => (spStore x .empty off n 0, some (.ok 0))
  | .atomic f _ b cmp =>
    if bad then (x, some .poison)
    else (spWrite x off (bytesOf n (atomNew f (8 * n) v b.toNat cmp.toNat)), some (.ok (BitVec.ofNat 64 v)))

/-- The reply to a request goes back: an acknowledgement, with its failure, or the result of the waiting instruction; to another package
where the request came from there (a strand number of 0). -/
def State.replied (s : State) (id sid : Nat) (va : Word) (o : RemOp) (r : RemoteReply) : State :=
  if sid = 0 then ({ s with flights := NMap.del s.flights id } : State).emit (.reply r)
  else if o.told then
    s.ackFlight id sid 0 (match r with
      | .rights => some (cRIGHTS, va, 2)
      | .target => some (cTARGET, va, 2)
      | _ => none)
  else s.answer id sid r

/-- A request that sets the full bit of its word. -/
def RemOp.fills : RemOp → Bool
  | .store _ _ full => full
  | _ => false

/-- REMOTE_ACCESS_AT_TARGET (R211, R231, R281, R283): the access is checked and performed at its core's bank, after earlier ones of
its strand to the same bytes; one from another package (a strand number of 0) also for its logical core, in the partition of the core's
tag (log 58). `ext` is what another package answers, for an access, message or deposit that goes there. -/
def execRemoteAccessAtTarget (id : Nat) (ext : RemoteReply) (s : State) : Host.Outcome State Fault Refusal :=
  match NMap.find s.flights id with
  | some (.access sid lane pkg pcore lcore va dom o) =>
    if s.farEarlier id sid lane pkg pcore va o then .next s
    else if pkg != s.pkgNo then .next (s.replied id sid va o ext)
    else
      let u := UnitRef.core pcore
      let x := s.unit u
      let off := va.toNat % 2 ^ 22
      if sid = 0 && s.coreAt x.tag lcore != some (s.pkgNo, pcore) then .next (s.replied id sid va o .target)
      else if !checkSect u x off o.bytes o.acc dom then .next (s.replied id sid va o .rights)
      else
        match bankDo x o off with
        | (_, none) => .next s
        | (x, some r) =>
          let s := (s.setUnit u x).replied id sid va o r
          .next (if o.fills then s.serveFull u (off / 8) else s)
  | some (.message sid pkg _ _) => .next (if pkg = s.pkgNo then s else s.ackFlight id sid 0 none)
  | some (.deposit sid pkg _ _) =>
    .next (if pkg = s.pkgNo then s else s.ackFlight id sid (match ext with | .ok _ => 0 | _ => 4) none)
  | _ => .next s

/-! ### Barriers (R292–R294) -/

/-- The group of a core at a level (R19). -/
def groupOf (lvl : Scope) (p : Nat) : Nat :=
  match lvl with
  | .core => p
  | .quad => p / 4
  | .tile => p / 32
  | .die => p / 256
  | .pkg | .sys => 0

/-- An index of the launch remains to be run on a core: to be generated for it, or generated and queued for it. -/
def State.indexLeft (s : State) (l : Launch) (p : Nat) : Bool :=
  let d := if l.isPinned then l.coreIdx p else some (p / 256)
  (match d with | some d => (l.nextIdx d).isSome | none => false) ||
    (s.unit (.core p)).pinned.q.any fun e => e.launch == l.num && e.line == 0 && e.saved.isNone

/-- The strand that holds a barrier position. -/
def State.posStrand (s : State) (n p j : Nat) : Option (CtxRef × Strand) :=
  s.allStrands.find? fun e => (homeOf e.1 e.2).unit == .core p && e.2.launch == n && e.2.barPos && e.2.pos == some j

/-- The limit of a wait has passed (R294). -/
def State.expired (s : State) (c : CtxRef) (t : Strand) : Bool :=
  match t.limit with
  | some n => n < (s.island (uisland (homeOf c t).unit)).cycle
  | none => false

/-- The phase of a barrier is complete (R292): each position is arrived, within its limit, or absent. -/
def State.phaseDone (s : State) (l : Launch) (lvl : Scope) (cores : List Nat) : Bool :=
  cores.all fun p => (List.range l.pkt.spc).all fun j =>
    match s.posStrand l.num p j with
    | some (c, t) => t.arrived == some lvl && !s.expired c t
    | none => !s.indexLeft l p

/-- BARRIER_PHASE_COMPLETE (R292, R304): every strand that waits goes on; in a DET launch with the largest VTIME among them. -/
def execBarrierPhaseComplete (launch : Nat) (lvl : Scope) (group : Nat) (s : State) : Host.Outcome State Fault Refusal :=
  match s.launch launch with
  | none => .next s
  | some l =>
    let cores := (l.cores.map Prod.snd).filter fun p => groupOf lvl p == group
    let here := s.allStrands.filter fun e =>
      e.2.launch == launch && e.2.barPos && e.2.arrived == some lvl && (match (homeOf e.1 e.2).unit with
        | .core p => cores.contains p
        | .kp _ => false)
    if here.isEmpty || !s.phaseDone l lvl cores then .next s
    else
      let v := here.foldl (fun v e => max v e.2.vtime) 0
      .next (here.foldl (fun s e => s.setStrand e.1 { e.2 with
        res := some 0, arrived := none, vtime := if l.pkt.det then v else e.2.vtime }) s)

/-! ### Limits that pass (R294, R295, R345) -/

/-- The island's clock reaches a cycle. -/
def State.clockTo (s : State) (u : UnitRef) (n : Nat) : State := s.modIsland (uisland u) fun x => { x with cycle := max x.cycle n }

/-- The phase that a strand has arrived at is complete. -/
def State.itsPhaseDone (s : State) (c : CtxRef) (t : Strand) : Bool :=
  match s.launch t.launch, t.arrived, (homeOf c t).unit with
  | some l, some lvl, .core p => s.phaseDone l lvl ((l.cores.map Prod.snd).filter fun q => groupOf lvl q == groupOf lvl p)
  | _, _, _ => false

/-- BARW_TIMEOUT (R294): the limit passes first, and the position is withdrawn; completion wins. -/
def execBarwTimeout (c : CtxRef) (s : State) : Host.Outcome State Fault Refusal :=
  match s.strand c with
  | none => .next s
  | some t =>
    match t.hold, t.limit, t.res with
    | some .barrier, some n, none => if s.itsPhaseDone c t then .next s else .next ((s.clockTo (homeOf c t).unit n).setStrand c { t with res := some 1, arrived := none })
    | _, _, _ => .next s

/-- WAITF_TIMEOUT (R295): the limit passes with the bit still clear; a request to another package is given up. -/
def execWaitfTimeout (c : CtxRef) (s : State) : Host.Outcome State Fault Refusal :=
  match s.strand c with
  | none => .next s
  | some t =>
    match t.hold, t.limit, t.res with
    | some (.timed w), some n, none =>
      if s.stillHeld c t then
        let s := { s with flights := s.flights.filter fun e => !t.rem.any fun r => r.id == e.1 }
        .next ((s.clockTo (homeOf c t).unit n).setStrand c { t with res := some 1, rem := if w.isNone then [] else t.rem })
      else .next s
    | _, _, _ => .next s

/-- IDLE_TIMEOUT (R345): the limit passes with the wake flag still clear. -/
def execIdleTimeout (c : CtxRef) (s : State) : Host.Outcome State Fault Refusal :=
  match s.strand c with
  | none => .next s
  | some t =>
    match t.hold, t.limit, t.res with
    | some (.idle ..), some n, none =>
      if s.stillHeld c t then .next ((s.clockTo (homeOf c t).unit n).setStrand c { t with res := some 1 }) else .next s
    | _, _, _ => .next s

/-- A PF write that wakes a kingpost's context (R345): [4:0] the context, [14:5] die and tile as in PCORE. -/
def execWakeWrite (v : Word) (s : State) : Host.Outcome State Fault Refusal :=
  let k := v.toNat % 32
  let x := v.toNat / 32 % 1024
  .next (if !s.ready then s.unsupported else if k < 20 then s.wakeCtx (.kp (8 * (x / 256) + x / 32 % 8)) k else s)

/-! ### HORIZON (R303) -/

/-- A running strand's VTIME counts in the floor: not while it waits on an empty mail register or has arrived at a barrier. -/
def Strand.inFloor (t : Strand) : Bool :=
  t.arrived.isNone && (match t.hold with
    | some (.mail r) => t.mail[r].isSome
    | _ => true)

/-- The timestamps of what a launch has on its way or waiting that is not yet consumed, beside flights, overflow areas and inboxes
(R303): contributions at the switch, capsules that are parked or wait to be, and the words in full mail registers and the deposits stored with saved strands. -/
def State.keptTimes (s : State) (n : Nat) : List Nat :=
  (s.groups.flatMap fun e => (e.2.got.filter fun c => c.m.launch == n && s.ours e.2 c).map fun c => c.m.ts) ++
    (s.parts.flatMap fun e => (e.2.parks.filter fun k => k.launch == n).map (·.ts)) ++
    ((s.parkWait.filter fun e => e.2.cap.launch == n).map fun e => e.2.cap.ts) ++
    ((s.entriesOf n).flatMap fun e => e.mark.toList.flatMap (·.times)) ++
    ((s.marks.filter fun e => s.markLaunch e.1 == n).flatMap fun e => e.2.times) ++
    ((s.allStrands.filter fun e => e.2.launch == n).flatMap fun e => e.2.mark.toList.flatMap (·.times))

/-- The times of a launch whose minimum is the floor (R303). -/
def State.floorOf (s : State) (l : Launch) : List Nat :=
  let n := l.num
  let strands := s.allStrands.filter fun e => e.2.launch == n
  let flights := s.flights.filterMap fun e => match e.2 with
    | .message _ _ _ m | .hostMsg _ _ _ m | .collective _ _ _ _ m => if m.launch = n then some m.ts else none
    | .deposit _ _ _ d => if d.launch = n then some d.ts else none
    | .hop _ _ _ c => if c.launch = n then some c.ts else none
    | _ => none
  let over_ := s.tiles.flatMap fun e => e.2.items.filterMap fun i => match i with
    | .msg _ _ m => if m.launch = n then some m.ts else none
    | .cap _ _ _ _ c => if c.launch = n then some c.ts else none
    | .entry _ _ => none
  let inbox := s.units.flatMap fun e =>
    (e.2.inbox.filterMap fun i => match i with
      | .msg m => if m.launch = n then some m.ts else none
      | .dep d => if d.launch = n then some d.ts else none) ++
    (e.2.mort.toList.filterMap fun m => match m with
      | some k => if k.launch = n && k.use == .landed then some k.ts else none
      | none => none)
  ((strands.filter fun e => e.2.inFloor).map fun e => e.2.vtime) ++
    (strands.flatMap fun e => e.2.mail.toList.filterMap fun m => match m with
      | some x => if 1 ≤ x.ts then some x.ts else none
      | none => none) ++
    flights ++ over_ ++ inbox ++ s.keptTimes n ++ ((s.entriesOf n).map fun e => e.vtime) ++ (if l.exhausted then [] else [0])

/-- HORIZON_PUBLISH (R303): HORIZON is the floor and one, and never decreases. -/
def execHorizonPublish (launch : Nat) (s : State) : Host.Outcome State Fault Refusal :=
  match s.launch launch with
  | none => .next s
  | some l =>
    if !l.pkt.det then .next s
    else
      match s.floorOf l with
      | [] => .next s
      | x :: xs =>
        let f := xs.foldl min x
        .next (if l.horizon < f + 1 then s.modLaunch launch fun l => { l with horizon := f + 1 } else s)

end Sys2Proof.Machine
end

