-- ==== Sys2Proof/Machine/Outside.lean ====
section
/-! DEFINITION. What comes from outside the package, and layouts that the implementation chooses, where the spec gives the effect and
leaves open the form: constants without a body. -/
namespace Sys2Proof.Machine

/-- What a complete packet from another package asks of this one, or answers (R281, R282, R296, R300, R360); `from_` is a number that tells
the strand of an access from others there. -/
inductive GwIn where
  | access (from_ pcore lcore : Nat) (va : Word) (dom : Dom) (o : RemOp)
  | message (pcore : Nat) (m : Message)
  | deposit (pcore : Nat) (d : Deposit)
  | reply (id : Nat) (r : RemoteReply)
  | ack (id : Nat) (reject : Nat)
  deriving DecidableEq, Repr

/-- The channel of its traffic (R360). -/
def GwIn.chan : GwIn → Nat
  | .access .. => 1
  | .message .. | .deposit .. => 2
  | .reply .. | .ack .. => 4

/-- A contribution that reaches the switch from another package (R362): its group, its OP, and the contributor's index, destination
and message. -/
structure FarContrib where
  group : Nat
  op    : Nat
  c     : Contrib
  deriving DecidableEq, Repr

/-- A word of the debug read path (R368), by what it shows. -/
inductive DbgItem where
  | pc (c : CtxRef) | sreg (c : CtxRef) (r : Fin 32) | vreg (c : CtxRef) (r : Fin 32) (w : Fin 8) | kreg (c : CtxRef) (r : Fin 8)
  | mreg (c : CtxRef) (r : Fin 8) | wreg (c : CtxRef) (i : Nat) (r : Fin 16) | recWord (c : CtxRef) (i : Nat) (w : Fin 17)
  | graftWord (c : CtxRef) (h : Fin 4) (w : Fin 2) | marks (c : CtxRef) | winMarks (c : CtxRef) (i : Nat) | spillMarks (c : CtxRef) (i : Nat)
  | frame (c : CtxRef) (i : Nat) | strand (c : CtxRef) | inboxTag (u : UnitRef) (i : Nat)
  | inboxWord (u : UnitRef) (i : Nat) (w : Fin 4) | ctl (c : CtxRef) (n : Nat) | acc (u : UnitRef) (a : Fin 8) (w : Nat)
  | sp (u : UnitRef) (w : Nat) | spFull (u : UnitRef) (w : Nat) | spPoison (u : UnitRef) (w : Nat) | section_ (u : UnitRef) (n : Fin 32)
  | mortise (u : UnitRef) (i : Fin 2)
  | l1Tag (u : UnitRef) (i : Nat) | l1Data (u : UnitRef) (i : Nat) (w : Fin 16)
  | sbTag (u : UnitRef) (i : Nat) | sbData (u : UnitRef) (i : Nat) (w : Fin 16) | icTag (u : UnitRef) (i : Nat)
  | icData (u : UnitRef) (i : Nat) (w : Fin 8)
  | repTag (i : Nat) | repData (i : Nat) (w : Fin 16)
  | l2Tag (line : Nat) | l2Data (line : Nat) (w : Fin 16) | l2Dir (line : Nat)
  | side (line : Nat)
  | acq (u : UnitRef) (i : Nat)
  | tlb (i : Nat) | walker (i : Nat)
  | atc (i : Nat)
  | queueLen (q : QueueRef) | queueWord (q : QueueRef) (i : Nat) (w : Fin 4) | queueIndex (q : QueueRef) (i : Nat)
  | queueTag (q : QueueRef) (i : Nat)
  | engineLen (u : UnitRef) | matrixCmd (u : UnitRef) (i : Nat) | copyCmd (u : UnitRef) (i : Nat) | channel (u : UnitRef) (ch : Fin 4)
  | slot (i : Nat) | slotPacket (i : Nat)
  | snapCycle (core : Nat) | snapPc (core i : Nat) | snapState (core i : Nat) | snapSb (core : Nat) | snapQ (core : Nat)
  | snapSlice (n : Nat)
  deriving DecidableEq, Repr

/-- The block that an item is read through (R368). -/
def DbgItem.block : DbgItem → Nat
  | .pc _ | .sreg .. | .vreg .. | .kreg .. | .mreg .. | .wreg .. | .recWord .. | .graftWord .. | .marks _ | .winMarks .. | .spillMarks ..
  | .frame .. | .strand _ | .inboxTag .. | .inboxWord .. | .ctl .. | .acc .. => 0x01
  | .sp .. | .spFull .. | .spPoison .. | .section_ .. | .mortise .. => 0x02
  | .l1Tag .. | .l1Data .. | .sbTag .. | .sbData .. | .icTag .. | .icData .. => 0x03
  | .l2Tag _ | .l2Data .. | .l2Dir _ | .repTag _ | .repData .. => 0x04
  | .side _ => 0x05
  | .acq .. => 0x06
  | .tlb _ | .walker _ | .atc _ => 0x07
  | .queueLen _ | .queueWord .. | .queueIndex .. | .queueTag .. | .engineLen _ | .matrixCmd .. | .copyCmd .. | .channel .. => 0x08
  | .slot _ | .slotPacket _ => 0x09
  | .snapCycle _ | .snapPc .. | .snapState .. | .snapSb _ | .snapQ _ | .snapSlice _ => 0x0A

end Sys2Proof.Machine

namespace Sys2Proof

/-- What a packet on a channel says: R360 gives the traffic of each channel and no format of a header. -/
opaque Config.gwDecode : Nat → List Byte → Option Machine.GwIn

/-- A write of the PF to the switch's table, if one comes (R362): a group and its contributors. -/
opaque Config.tableWrite : Nat → Option (Nat × List (Nat × Nat))

/-- A contribution from another package, if one comes to the switch (R362). -/
opaque Config.farContribution : Nat → Option Machine.FarContrib

/-- What the word of an index within a block shows: R368 names the blocks and leaves their layout open. -/
opaque Config.dbgLayout : Nat → Nat → Option Machine.DbgItem

/-- The words of tags, directories and states that the debug read path shows, which R368 gives no format: of an item, with what it
shows as plain numbers. -/
opaque Config.dbgCode : Machine.DbgItem → List Nat → Word

end Sys2Proof
end

