-- ==== Sys2Proof/Machine/Registers.lean ====
section
/-! DEFINITION. The BAR0 registers of the PF and the VFs (R6, R65, R67, R70, R77, R79, R81, R209, R215, R242, R325–R327, R333, R336,
R341, R353–R358, R365–R369): reads with their read-to-clear effects, and writes of registers that have no event of their own. -/
namespace Sys2Proof.Machine

/-- A register of the map (R6): by what it holds, with its index. -/
inductive Reg0 where
  | qtbase (p : Nat) | slotstat (i : Nat) | pnstat | notifylost
  | fbbase (d : Nat) | savebase (d : Nat) | tlbistat | parkbase (p : Nat) | prqbase (v : Nat)
  | tenstat (p : Nat) | dpbase (p : Nat) | vfbind (v : Nat)
  | devstat | gwdown | gwdown2 | dbgsel
  | islctl (n : Nat) | actfc (t : Nat) | plimit | pwr | therm
  | coretag (p : Nat) | kptag (t : Nat) | mapbase (p : Nat) | mapinv | spillbase (d : Nat) | kpstat (t : Nat)
  | lstat (n : Nat) | xlctl (p : Nat) | s1root (p : Nat) | s2root (p : Nat) | slice (n : Nat) | region (n : Nat)
  | prqovf (v : Nat) | lnresv (fn : Nat) | hsqctl (fn q : Nat) | hsqring (fn q : Nat) | hsqhead (fn q : Nat)
  | none
  deriving DecidableEq, Repr

/-- An array of n registers of 8 bytes at a base: the index of an offset. -/
def idx8 (off base n : Nat) : Option Nat :=
  if base ≤ off && off < base + 8 * n && (off - base) % 8 = 0 then some ((off - base) / 8) else none

/-- The first array that an offset lies in. -/
def inArrays (off : Nat) : List (Nat × Nat × (Nat → Reg0)) → Reg0
  | [] => .none
  | (base, n, f) :: rs => match idx8 off base n with
    | some i => f i
    | none => inArrays off rs

/-- The registers that every function has (R67, R358). -/
def fnReg (fn off : Nat) : Reg0 :=
  inArrays off [(0x1040, 1, fun _ => .lnresv fn),
    (0x2000, 512, fun i => if i % 2 = 0 then .hsqctl fn (i / 2) else .hsqring fn (i / 2)), (0x3000, 256, fun q => .hsqhead fn q)]

/-- The PF's registers. -/
def pfReg (off : Nat) : Reg0 :=
  inArrays off [(0x10_0000, 64, .qtbase), (0x10_0400, 64, .slotstat), (0x10_0600, 1, fun _ => .pnstat), (0x10_0608, 1, fun _ => .notifylost),
    (0x10_1000, 4, .fbbase), (0x10_1020, 4, .savebase), (0x10_1050, 1, fun _ => .tlbistat), (0x10_1100, 64, .parkbase),
    (0x10_1400, 64, .prqbase), (0x10_2200, 64, .tenstat), (0x10_2400, 64, .dpbase), (0x10_2800, 64, .vfbind),
    (0x10_3000, 1, fun _ => .devstat), (0x10_3008, 1, fun _ => .gwdown), (0x10_3028, 1, fun _ => .gwdown2),
    (0x10_3100, 1, fun _ => .dbgsel), (0x10_4000, 256, .islctl), (0x10_4800, 32, .actfc), (0x10_4900, 1, fun _ => .plimit),
    (0x10_4908, 1, fun _ => .pwr), (0x10_4910, 1, fun _ => .therm), (0x10_6000, 1024, .coretag), (0x10_8000, 32, .kptag),
    (0x10_8100, 64, .mapbase), (0x10_8300, 1, fun _ => .mapinv), (0x10_8400, 4, .spillbase), (0x10_8900, 32, .kpstat),
    (0x12_0000, 16384, .lstat),
    (0x18_0000, 256, fun i => if i % 4 = 0 then .xlctl (i / 4) else if i % 4 = 1 then .s1root (i / 4) else if i % 4 = 2 then .s2root (i / 4) else .none),
    (0x0F_0000, 256, .slice), (0x100_0000, 2097152, .region)]

/-- The register at an offset of a function's BAR0. -/
def State.reg0 (s : State) (fn off : Nat) : Reg0 :=
  match fnReg fn off with
  | .none =>
    if fn = 0 then pfReg off
    else if off = 0x1000 then (match s.fnPart fn with | some p => .s1root p | none => .none)
    else if off = 0x1028 then .prqovf fn
    else .none
  | r => r

/-! ### Reads -/

/-- The code of a slot state (R60). -/
def SlotState.code : SlotState → Nat
  | .free => 0 | .read => 1 | .depwait => 2 | .placewait => 3 | .idle => 4 | .halt => 5

/-- SLOTSTAT (R65). -/
def slotstatOf (x : Slot) : Nat :=
  x.st.code + x.noevict.toNat * 2 ^ 3 + x.level * 2 ^ 4 + x.part * 2 ^ 10 + x.qnum * 2 ^ 16 + x.err.toNat * 2 ^ 24 + x.head % 2 ^ 32 * 2 ^ 32

/-- Down ports of two dies, 24 bits apart (R365). -/
def gwdownOf (w : BitVec 72) (d : Nat) : Nat := w.toNat / 2 ^ (18 * d) % 2 ^ 18 + w.toNat / 2 ^ (18 * (d + 1)) % 2 ^ 18 * 2 ^ 24

/-- CORETAG and KPTAG (R70). -/
def tagOf (x : CoreUnit) : Nat := x.tag + x.en.toNat * 2 ^ 7

/-- The value of a register (R6). The spec lists no register at the other offsets of BAR0 and says nothing of them: that they read 0 and
that a write there is dropped is the model's choice (log 60). -/
def State.read0 (s : State) (r : Reg0) : Nat :=
  match r with
  | .qtbase p => (s.part p).qtbase.toNat
  | .slotstat i => slotstatOf (s.slot i)
  | .pnstat => s.pend.length + s.nlost.toNat * 2 ^ 16
  | .notifylost => s.notifylost
  | .fbbase d => (s.die d).fbbase.toNat
  | .savebase d => (s.die d).savebase.toNat
  | .tlbistat => if s.tlbiPend.any s.tlbiBusy then 1 else 0
  | .parkbase p => (s.part p).parkbase.toNat
  | .prqbase v => (s.fn v).prqbase.toNat
  | .tenstat p => (s.part p).tstate.toNat + (s.part p).parked * 2 ^ 32
  | .dpbase p => (s.part p).dpbase.toNat
  | .vfbind v => (s.fn v).bind
  | .devstat => s.ready.toNat + s.phase.toNat * 2 ^ 8 + s.failDie.toNat * 2 ^ 12 + s.failCode.toNat * 2 ^ 16
  | .gwdown => gwdownOf s.gwdown 0
  | .gwdown2 => gwdownOf s.gwdown 2
  | .dbgsel => s.dbgsel.toNat
  | .islctl n => (s.island n).req + (s.island n).cur * 2 ^ 16
  | .actfc t => (s.tile t).actfc.toNat
  | .plimit => s.plimit.toNat
  | .pwr => s.pwr.toNat
  | .therm => (List.range 4).foldl (fun m d => max m (s.die d).tj) 0 % 256 + (s.die 0).cap * 2 ^ 8 + (s.die 1).cap * 2 ^ 13 +
      (s.die 2).cap * 2 ^ 18 + (s.die 3).cap * 2 ^ 23 + s.trip.toNat * 2 ^ 32
  | .coretag p => tagOf (s.unit (.core p))
  | .kptag t => tagOf (s.unit (.kp t))
  | .mapbase p => (s.part p).mapbase.toNat
  | .mapinv => 0
  | .spillbase d => (s.die d).spillbase.toNat
  | .kpstat t =>
    let x := s.unit (.kp t)
    ((List.range 4).foldl (fun n c => n + (NMap.find x.strands c).isSome.toNat * 2 ^ c) 0) + x.refuse.toNat * 2 ^ 8
  | .lstat n => (fun l : Lstat => l.code + l.ended * 2 ^ 8) (NMap.getD s.lstat n ⟨0, 0⟩)
  | .xlctl p => (s.part p).mode.toNat
  | .s1root p => (s.part p).s1root.toNat
  | .s2root p => (s.part p).s2root.toNat
  | .slice n => (fun c : SliceCnt => c.underflow + c.rfold * 2 ^ 32) (NMap.getD s.slices n ⟨0, 0⟩)
  | .region n =>
    if paKind (n * 2 ^ 20) == .tags then 0
    else (s.region n).rmiss + (s.region n).wcol * 2 ^ 16 + (s.region n).deg.toNat * 2 ^ 32
  | .prqovf v => (s.fn v).prqovf + (s.fn v).prqflag.toNat * 2 ^ 32
  | .lnresv fn => (s.fn fn).resvLatch.toNat
  | .hsqctl fn q => (fun h : HostQ => h.log2n + h.en.toNat * 2 ^ 5 + h.st.toNat * 2 ^ 8 + h.tail.toNat * 2 ^ 32) (NMap.getD (s.fn fn).hsq q HostQ.reset)
  | .hsqring fn q => (NMap.getD (s.fn fn).hsq q HostQ.reset).ring.toNat
  | .hsqhead fn q => (NMap.getD (s.fn fn).hsq q HostQ.reset).head.toNat
  | .none => 0

/-- What a read does beside: an RC field clears (R6). -/
def State.clear0 (s : State) (r : Reg0) : State :=
  match r with
  | .notifylost => { s with notifylost := 0 }
  | .kpstat t => s.modUnit (.kp t) fun x => { x with refuse := 0 }
  | .slice n => { s with slices := NMap.del s.slices n }
  | .prqovf v => s.modFn v fun x => { x with prqovf := 0, prqflag := false }
  | _ => s

/-- RC_REGISTER_READ (R6): a read of a BAR0 register returns its value, and an RC one clears. Until READY only DEVSTAT answers
(R364). -/
def execRcRegisterRead (fn : Nat) (off : Nat) (s : State) : Host.Outcome State Fault Refusal :=
  let r := s.reg0 fn off
  .next (if !s.ready && r != .devstat then s.unsupported
    else (s.clear0 r).emit (.value (BitVec.ofNat 64 (s.read0 r))))

/-! ### Writes -/

/-- A physical address aligned to 2^n bytes: the reserved bits stay zero (R7). -/
def paField (n : Nat) (v : Word) : Word := BitVec.ofNat 64 (v.toNat % 2 ^ 52 / 2 ^ n * 2 ^ n)

/-- The TDI of a VF that is bound to a partition is in RUN: the PF's writes to some of its registers are ignored (R215, R356), and its data
does not show (R368). -/
def State.tdiRun (s : State) (p : Nat) : Bool := ((List.range 64).drop 1).any fun v => (s.fn v).bind == p && (s.fn v).tdi == .run

/-- Change a host service queue. -/
def State.modHsq (s : State) (fn q : Nat) (f : HostQ → HostQ) : State :=
  s.modFn fn fun x => { x with hsq := NMap.set x.hsq q (f (NMap.getD x.hsq q HostQ.reset)) }

/-- A write to a register, under the access codes of its fields (R6). -/
def State.write0 (s : State) (fn : Nat) (r : Reg0) (v : Word) : State :=
  match r with
  | .qtbase p => s.modPart p fun x => { x with qtbase := paField 14 v }
  | .pnstat => { s with nlost := s.nlost && !v.getLsbD 16 }
  | .fbbase d => s.modDie d fun x => { x with fbbase := paField 18 v }
  | .savebase d => s.modDie d fun x => { x with savebase := paField 16 v }
  | .parkbase p => s.modPart p fun x => { x with parkbase := paField 8 v }
  | .prqbase n => s.modFn n fun x => { x with prqbase := paField 12 v }
  | .dpbase p => s.modPart p fun x => { x with dpbase := paField 0 v }
  | .vfbind n => if n = 0 then s else s.modFn n fun x => { x with bind := v.toNat % 64 }
  | .dbgsel => { s with dbgsel := v }
  | .plimit => { s with plimit := v.setWidth 16 }
  | .therm => { s with trip := s.trip && !v.getLsbD 32 }
  | .mapbase p => s.modPart p fun x => { x with mapbase := paField 20 v }
  | .spillbase d => if s.launches.isEmpty then s.modDie d fun x => { x with spillbase := paField 27 v } else s
  | .xlctl p => if s.tdiRun p || v.toNat % 4 = 3 then s else s.modPart p fun x => { x with mode := v.setWidth 2 }
  | .s1root p => if fn = 0 && s.tdiRun p then s else s.modPart p fun x => { x with s1root := paField 16 v }
  | .s2root p => s.modPart p fun x => { x with s2root := paField 16 v }
  | .hsqctl f q => s.modHsq f q fun h => { h with log2n := v.toNat % 32, en := v.getLsbD 5, st := BitVec.ofNat 2 (v.toNat / 2 ^ 8) }
  | .hsqring f q => s.modHsq f q fun h => { h with ring := BitVec.ofNat 64 (v.toNat / 64 * 64) }
  | .hsqhead f q => s.modHsq f q fun h => { h with head := v }
  | _ => s

/-- REGISTER_WRITE (R6): a register with no event of its own is written; RO and RC fields ignore it. -/
def execRegisterWrite (fn : Nat) (off : Nat) (v : Word) (s : State) : Host.Outcome State Fault Refusal :=
  .next (if !s.ready then (if s.reg0 fn off == .devstat then s else s.unsupported) else s.write0 fn (s.reg0 fn off) v)

end Sys2Proof.Machine
end

