-- ==== Sys2Proof/Machine/Tenant.lean ====
section
/-! DEFINITION. Tenants (R353–R359): time slices, STOP and RUN, key slots, the reset of one VF and TDISP (R357); bring-up
(R364, R365). -/
namespace Sys2Proof.Machine

/-! ### TENCTL (R353, R355) -/

/-- A pre-emption request reaches every strand of a partition (R353). -/
def State.askAll (s : State) (p : Nat) : State :=
  (s.allStrands.filter fun e => e.2.part == p).foldl (fun s e => s.setStrand e.1 e.2.asked) s

/-- TENCTL SLICE (R353): ignored while the tenant is STOPPING. -/
def execTenctlSlice (part : Nat) (s : State) : Host.Outcome State Fault Refusal :=
  .next (if !s.ready then s.unsupported else if (s.part part).tstate = 1 then s else s.askAll part)

/-- A channel runs a command of a partition; one paused on a fault stays paused (R258). -/
def CoreUnit.copies (x : CoreUnit) (p : Nat) : Bool :=
  x.cq.any (fun k => k.part == p) || x.chan.toList.any fun c => match c.cmd with
    | some k => k.part == p && c.faults.isEmpty
    | none => false

/-- A strand of a partition still runs: service strands are not stopped (R79), and parked ones stay parked (R355). -/
def State.stillRuns (s : State) (p : Nat) : Bool :=
  s.allStrands.any fun e => e.2.part == p && e.2.kind != .service && e.2.faults.isEmpty

/-- Strands of a partition parked on faults. -/
def State.parkedIn (s : State) (p : Nat) : Nat := (s.allStrands.filter fun e => e.2.part == p && !e.2.faults.isEmpty).length

/-- A write of a partition is still to be performed (R355, steps 3 and 4): a walk that has A or D to set and an addition at DONE among them. -/
def State.writesLeft (s : State) (p : Nat) : Bool :=
  s.usesLeft p || s.walks.any (fun e => e.2.part == p && !s.serviceWalk e.2) ||
    s.launches.any (fun e => e.2.part == p && e.2.exhausted && !s.launchBusy e.1) || !s.invs.isEmpty || s.units.any (fun e => e.2.copies p) ||
    s.retires.any (fun e => e.2.cap.part == p && e.2.faults.isEmpty) ||
    s.flights.any fun e => match e.2 with
      | .access .. | .hostStore .. => true
      | _ => false

/-- TENCTL STOP (R355): the first command makes the tenant STOPPING; the tenant is STOPPED once nothing of it runs and its writes
are performed. -/
def execTenctlStop (part : Nat) (s : State) : Host.Outcome State Fault Refusal :=
  if !s.ready then .next s.unsupported
  else if (s.part part).tstate != 1 then .next ((s.modPart part fun x => { x with tstate := 1 }).askAll part)
  else
    let s := s.finishUses part true
    if s.stillRuns part || s.writesLeft part then .next s
    else .next (s.modPart part fun x => { x with tstate := 2, parked := s.parkedIn part })

/-- TENCTL RUN (R355): ignored while the tenant is STOPPING. -/
def execTenctlRun (part : Nat) (s : State) : Host.Outcome State Fault Refusal :=
  .next (if !s.ready then s.unsupported else if (s.part part).tstate = 1 then s else s.modPart part fun x => { x with tstate := 0 })

/-! ### Key slots (R222, R273, R356) -/

/-- KEYCTL [0] (R356): a new key in a slot; ignored while the slot's VF is in TDISP RUN. -/
def execKeyGenerate (slot : Nat) (s : State) : Host.Outcome State Fault Refusal :=
  .next (if !s.ready then s.unsupported else if s.tdiRun slot then s
    else { s with keys := NMap.set s.keys slot (true, s.keyGen slot + 1) })

/-- A line dropped without write-back (R356): what LPDDR6 holds stays, another slot's copy among it, and a clear line is zeros. -/
def State.dropL2 (s : State) (line : Nat) : State :=
  let m := s.line line
  let s := s.setLine line ⟨none, false, false, m.dram, none⟩
  if m.dirty && m.dram == .clear then { s with mem := Memory.clear s.mem (128 * line) 128 }
  else match m.old with
    | some d => { s with mem := Memory.writeMasked s.mem (128 * line) fullMask d 128 }
    | none => s

/-- Retire a key slot (R356): its L2 lines are dropped without write-back, its side-store entries freed, its keys destroyed. -/
def State.retireKey (s : State) (slot : Nat) : State :=
  let ls := (s.lines.filter fun e => e.2.owner == some slot).map Prod.fst
  let s := ls.foldl State.dropL2 s
  { s with
    reps := s.reps.filter fun r => !ls.contains r.line
    repFills := s.repFills.map fun f => if ls.contains f.line then { f with live := false } else f
    dir := s.dir.filter fun e => !ls.contains e.1
    reds := s.reds.filter fun r => !ls.contains (lineOf r.addr)
    side := s.side.filter fun e => e.2.part != slot
    keys := NMap.set s.keys slot (false, s.keyGen slot + 1) }

/-- KEYCTL [1] (R356). -/
def execKeyRetire (slot : Nat) (s : State) : Host.Outcome State Fault Refusal :=
  .next (if !s.ready then s.unsupported else if s.tdiRun slot then s else s.retireKey slot)

/-! ### The reset of a VF (R359) -/

/-- A unit with nothing of a partition: its strands, queued entries, inbox, capsules and commands are gone. -/
def CoreUnit.withoutPart (x : CoreUnit) (p : Nat) : CoreUnit :=
  let keep (q : Queue) : Queue := { q with q := q.q.filter fun e => e.part != p, ring := q.ring.filter fun e => e.part != p }
  let here := x.tag == p
  { x with
    pinned := keep x.pinned
    inbox := if here then [] else x.inbox
    mort := x.mort.map fun m => match m with
      | some k => if k.part == p then none else some k
      | none => none
    cq := x.cq.filter fun k => k.part != p
    mq := if here then [] else x.mq
    mrun := if here then none else x.mrun
    chan := x.chan.map fun c => match c.cmd with
      | some k => if k.part == p then { c with cmd := none, faults := [], wf := [], ready := false, old := [], at_ := [] } else c
      | none => c
    kept := if here then [] else x.kept }

/-- What travels belongs to a partition (R359). -/
def Flight.inPart (f : Flight) (p : Nat) : Bool :=
  match f with
  | .message _ _ _ m | .hostMsg _ _ _ m | .collective _ _ _ _ m => m.part == p
  | .hop _ _ _ c => c.part == p
  | _ => false

/-- An overflow item belongs to a partition. -/
def OverItem.inPart (i : OverItem) (p : Nat) : Bool :=
  match i with
  | .msg _ _ m => m.part == p
  | .cap _ _ _ _ c => c.part == p
  | .entry _ e => e.part == p

/-- Every strand, handler, capsule, message, contribution and queued entry of a partition is gone, and what is on its way to its cores
(R359, step 2). -/
def State.dropPart (s : State) (p : Nat) : State :=
  let s := (s.launches.filter fun e => e.2.part == p).foldl (fun s e => s.endLaunch e.1 2) s
  let s := (s.allStrands.filter fun e => e.2.part == p).foldl (fun s e => s.endStrand e.1 e.2) s
  { s with
    units := NMap.mapV (fun _ x => x.withoutPart p) s.units
    tiles := NMap.mapV (fun _ t => { t with
      ready := NMap.mapV (fun _ q => { q with q := q.q.filter fun e => e.part != p, ring := q.ring.filter fun e => e.part != p }) t.ready
      ovf := t.ovf.filter fun o => !o.item.inPart p }) s.tiles
    pushWait := s.pushWait.filter fun e => e.2.2.part != p
    flights := s.flights.filter fun (e : Nat × Flight) => !e.2.inPart p && !(match e.2 with
      | .deposit _ pkg pcore _ | .access _ _ pkg pcore _ _ _ _ => pkg == s.pkgNo && (s.unit (.core pcore)).tag == p
      | _ => false)
    retires := s.retires.filter fun e => e.2.cap.part != p
    parkWait := s.parkWait.filter fun e => e.2.cap.part != p
    groups := NMap.mapV (fun _ g => { g with got := g.got.filter fun c => !(c.m.part == p && s.ours g c) }) s.groups
    faults := s.faults.filter fun f => f.part != p }

/-- Every slot of a partition is unmapped, and its pending notifies and reserved numbers go (R63, R67, R359). -/
def State.unmapPart (s : State) (p : Nat) : State :=
  let s := (List.range 64).foldl (fun (s : State) i => if (s.slot i).st != .free && (s.slot i).part == p then s.setSlot i Slot.reset else s) s
  { s with pend := s.pend.filter fun e => e.1 != p, resvs := s.resvs.filter fun r => r.part != p }

/-- A host service queue after a reset of its function (R359, step 4). -/
def HostQ.afterReset (h : HostQ) : HostQ :=
  if h.en then { h with en := false, st := if (h.tail.toNat + 2 ^ 64 - h.head.toNat) % 2 ^ 32 != 0 then 2 else h.st } else h

/-- A Function Level Reset of a VF (R359). The partition's page-request records are gone from another VF's queue too. -/
def State.resetVf (s : State) (v : Nat) : State :=
  let p := (s.fn v).bind
  let s := (s.faults.filter fun f => f.part == p && f.vf != v).foldl State.freePrq s
  let s := (s.unmapPart p).dropPart p
  let ls := (NMap.vals s.launches).filter fun l : Launch => l.part == p
  let s := ls.foldl State.freeLaunch s
  let s := s.modPart p fun x => { x with parks := [] }
  let s := s.retireKey p
  s.modFn v fun x => { x with
    tdi := .unlocked, prqUsed := [], prqSeq := 0, priOff := false, hsq := NMap.mapV (fun _ h => h.afterReset) x.hsq }

/-- VFRESET, or a Function Level Reset (R359). -/
def execVfReset (vf : Nat) (s : State) : Host.Outcome State Fault Refusal :=
  .next (if !s.ready then s.unsupported else if vf = 0 || 63 < vf then s else s.resetVf vf)

/-! ### TDISP (R357) -/

/-- How a request moves a TDI (R357; the transitions are TDISP's own, log 18). -/
def Tdi.after (t : Tdi) (r : TdispReq) : Tdi :=
  match r, t with
  | .lock, .unlocked => .locked
  | .start, .locked => .run
  | .stop, _ => .unlocked
  | .error, .locked => .error
  | .error, .run => .error
  | _, t => t

/-- TDISP_REQUEST (R357). -/
def execTdispRequest (vf : Nat) (req : TdispReq) (s : State) : Host.Outcome State Fault Refusal :=
  .next (if s.ready && 0 < vf && vf < 64 then s.modFn vf fun x => { x with tdi := x.tdi.after req } else s)

/-! ### Bring-up (R364, R365) -/

/-- The package as bring-up starts: everything at its reset value. What is outside the package stays: host memory, what has been
sent outward, the package's number and the switch's table. -/
def State.atPower (s : State) : State :=
  { State.reset with
    turn := s.turn, freeCtr := s.freeCtr, nextId := s.nextId, outs := s.outs, hostMem := s.hostMem, pkgNo := s.pkgNo
    groups := s.groups, ctimeout := s.ctimeout, agenda := s.agenda, cur := s.cur }

/-- A failed phase (R364, R365). -/
def State.bringUpFails (s : State) (code : Nat) (die : BitVec 4) : State :=
  { s.atPower with phase := 0xF, failCode := BitVec.ofNat 8 code, failDie := die }

/-- One phase of bring-up (R364): it does its work, with what it finds, and the next one begins; or it fails. -/
def State.bringUpPhase (s : State) (r : BringUp) : State :=
  match s.phase.toNat, r with
  | 1, .boundary d => s.bringUpFails 1 d
  | 1, .lpddrTraining d => s.bringUpFails 2 d
  | 1, .ok down => { s.atPower with phase := 2, gwdown := down }
  | 1, _ => { s.atPower with phase := 2 }
  | 2, .sram d => s.bringUpFails 3 d
  | 2, _ => { s with phase := 3 }
  | 3, .lpddrCal d => s.bringUpFails 4 d
  | 3, _ => { s with phase := 4 }
  | 4, .zeroing d => s.bringUpFails 5 d
  | 4, _ => { s.atPower with phase := 5, gwdown := s.gwdown }
  | 5, _ => { s with ready := true }
  | _, _ => s.atPower

/-- POWER_ON (R364): bring-up goes one phase on, and READY is set at the end; after bring-up, or a failure of it, power that is applied
again starts it from phase 1. -/
def execPowerOn (r : BringUp) (s : State) : Host.Outcome State Fault Refusal :=
  .next (if s.ready then s.atPower else s.bringUpPhase r)

/-- A write of DEVSTAT (R365): RST restarts bring-up from phase 1, and every launch, tenant and key slot is lost. -/
def execDevstatRst (v : Word) (s : State) : Host.Outcome State Fault Refusal :=
  .next (if v.getLsbD 1 then s.atPower else s)

end Sys2Proof.Machine
end

