-- ==== Sys2Proof/Machine/HostIo.lean ====
section
/-! DEFINITION. The host (R284–R286, R299, R358): CXL.mem reads and writes, snoops of the host's own writes, host service queues and
the answers to their requests; and the Gweik links and the switch (R360–R363). -/
namespace Sys2Proof.Machine

/-! ### CXL.mem (R202, R284, R285) -/

/-- Visible memory, in bytes (R202, R357). -/
def visibleSize : Nat := 4 * 0x78_0000_0000

/-- A range of visible memory within one die. -/
def visibleOk (off n : Nat) : Bool := 0 < n && off + n ≤ visibleSize && off / 0x78_0000_0000 == (off + n - 1) / 0x78_0000_0000

/-- CXL_MEM_READ (R244, R284): a read at the home, folding. One of a whole aligned half makes the half the host's (log 19). -/
def execCxlMemRead (off : Nat) (size : Nat) (s : State) : Host.Outcome State Fault Refusal :=
  if !s.ready || !visibleOk off size then .next s.unsupported
  else
    let pa := paOfVisible off
    if (linesOf pa size).any s.pushHeld then .next s
    else
      let (s, bs, bad) := s.homeReadBytes none pa size (size / 128 + 2)
      let half := (lineOf pa, pa % 128 == 64)
      let s := if size = 64 && pa % 64 = 0 && !s.hostOwn.contains half then { s with hostOwn := s.hostOwn ++ [half] } else s
      .next (s.emit (.bytes bs bad))

/-- CXL_MEM_WRITE (R206, R284): a write at the home as a write of no strand. One of a whole aligned half gives the half back
(log 19). -/
def execCxlMemWrite (off : Nat) (bytes : List Byte) (s : State) : Host.Outcome State Fault Refusal :=
  if !s.ready || !visibleOk off bytes.length then .next s.unsupported
  else
    let pa := paOfVisible off
    if (linesOf pa bytes.length).any s.pushHeld then .next s
    else
      let half := (lineOf pa, pa % 128 == 64)
      let s := if bytes.length = 64 && pa % 64 = 0 then
          { s with hostOwn := s.hostOwn.filter (· != half), snoops := s.snoops.filter (· != ⟨half.1, half.2⟩) } else s
      .next (s.homeWriteBytes none [] pa bytes (bytes.length / 128 + 2))

/-- HOST_SNOOP (R284): the host writes its own memory, and every cached copy in the device goes first. -/
def execHostSnoop (addr : Nat) (bytes : List Byte) (s : State) : Host.Outcome State Fault Refusal := .next (s.writeHost addr bytes)

/-! ### Host service queues (R299, R358) -/

/-- The 64 bytes of an entry (R299). -/
def hostEntry (q : Nat) (m : Message) : List Byte :=
  m.words.toList.flatMap (fun w => bytesOf 8 w.toNat) ++ bytesOf 8 m.entry.toNat ++
    bytesOf 8 (m.key % 2 ^ 19 + m.launch % 2 ^ 14 * 2 ^ 19 + m.dom.toNat * 2 ^ 33 + m.nx.toNat * 2 ^ 41) ++ bytesOf 8 m.ts ++ bytesOf 8 (q % 256)

/-- HOST_QUEUE_ENTRY (R290, R299, R358): a message to the host is written to its queue, waits while the queue is full, or is refused
where the queue is not enabled. -/
def execHostQueueEntry (id : Nat) (s : State) : Host.Outcome State Fault Refusal :=
  match NMap.find s.flights id with
  | some (.hostMsg sid fn q m) =>
    let earlier := s.flights.any fun e => e.1 < id && (match e.2 with
      | .hostMsg i f r _ => i == sid && f == fn && r == q
      | _ => false)
    let h := NMap.getD (s.fn fn).hsq q HostQ.reset
    if earlier then .next s
    else if !h.en then .next (s.ackFlight id sid 3 none)
    else if (h.tail.toNat + 2 ^ 64 - h.head.toNat) % 2 ^ 32 = 2 ^ h.log2n then .next s
    else
      let s := s.writeHost (h.ring.toNat + 64 * (h.tail.toNat % 2 ^ h.log2n)) (hostEntry q m)
      .next ((s.modHsq fn q fun h => { h with tail := h.tail + 1 }).ackFlight id sid 0 none)
  | _ => .next s

/-- HSREPLY (R358): the host deposits a word as a POST would, with NX 0. -/
def execHsreply (fn : Nat) (v : Word) (s : State) : Host.Outcome State Fault Refusal :=
  if !s.ready then .next s.unsupported
  else
    let x := v.toNat
    match s.fnPart fn with
    | none => .next s
    | some p =>
      match s.coreAt p (x % 2 ^ 18) with
      | none => .next s
      | some (pkg, pcore) =>
        let d : Deposit :=
          ⟨0, ⟨x / 2 ^ 21 % 8, Nat.mod_lt _ (by decide)⟩, x / 2 ^ 18 % 8, BitVec.ofNat 64 (x / 2 ^ 32), false, 0, 0, 0, 0, 0, none⟩
        .next (s.send (.deposit 0 pkg pcore d))

/-! ### Gweik links (R360, R361, R369) -/

/-- The port of a die is down (R365). -/
def State.portDown (s : State) (die port : Nat) : Bool := s.gwdown.getLsbD (18 * die + port)

/-- The open packets of a port. -/
def State.openOn (s : State) (die port : Nat) : List GwPacket := s.gw.filter fun g => g.die == die && g.port == port

/-- A flit may come next on its port (R361): no packet of a higher channel is open, and it starts a packet where its channel has
none open or continues the one that it has. -/
def State.flitOk (s : State) (die port chan : Nat) (sop : Bool) : Bool :=
  let o := s.openOn die port
  !(o.any fun g => chan < g.chan) && (if sop then !(o.any fun g => g.chan == chan) else o.any fun g => g.chan == chan)

/-- The 32 bytes of a flit. -/
def flitBytes (f : BitVec 256) : List Byte := bytesOf 32 f.toNat

/-- What a packet from another package does here (R211, R281, R296, R300): its access, message or deposit is on its way to this
package's core, where it is checked and performed as one from inside is; an answer reaches the request of this package that waits for
it. A packet on another channel than that of its traffic does nothing. -/
def State.gwIn (s : State) (chan : Nat) : Option GwIn → State
  | none => s
  | some g =>
    if g.chan != chan then s
    else
      match g with
      | .access from_ pcore lcore va dom o => if pcore < 1024 then s.send (.access 0 from_ s.pkgNo pcore lcore va dom o) else s
      | .message pcore m => if pcore < 1024 then s.send (.message 0 s.pkgNo pcore { m with born := 0 }) else s
      | .deposit pcore d => if pcore < 1024 then s.send (.deposit 0 s.pkgNo pcore { d with born := 0 }) else s
      | .reply id r => (match NMap.find s.flights id with
        | some (.access sid _ pkg _ _ va _ o) => if pkg != s.pkgNo then s.replied id sid va o r else s
        | _ => s)
      | .ack id reject => (match NMap.find s.flights id with
        | some (.message sid pkg _ _) | some (.deposit sid pkg _ _) => if pkg != s.pkgNo then s.ackFlight id sid reject none else s
        | _ => s)

/-- GWEIK_FLIT (R360, R361): a flit joins its channel's packet, and a complete packet is delivered; on channel 6 it is a fabric
trigger (R369), and otherwise does what it says (log 58). A flit that R361 forbids is discarded, and the port is noted. -/
def execGweikFlit (die : Nat) (port : Nat) (flit : BitVec 256) (s : State) : Host.Outcome State Fault Refusal :=
  let chan := flit.toNat % 8
  let sop := flit.getLsbD 3
  let eop := flit.getLsbD 4
  if !s.ready || 4 ≤ die || 18 ≤ port || s.portDown die port then .next s
  else if !s.flitOk die port chan sop then
    .next (if s.gwErr.contains (die, port) then s else { s with gwErr := s.gwErr ++ [(die, port)] })
  else
    let old := match s.gw.find? fun g => g.die == die && g.port == port && g.chan == chan with
      | some g => g.flits
      | none => []
    let rest := s.gw.filter fun g => !(g.die == die && g.port == port && g.chan == chan)
    let all := old ++ [flit]
    if eop then
      let s := ({ s with gw := rest } : State).emit (.flit die port chan (all.flatMap flitBytes))
      .next (if chan = 6 then s.latch .fabric else s.gwIn chan (Config.gwDecode chan (all.flatMap flitBytes)))
    else .next { s with gw := rest ++ [⟨die, port, chan, all⟩] }

/-! ### The switch (R362, R363) -/

/-- The words of two contributions added elementwise (R362). -/
def combine (op : Nat) (a b : Word) : Word :=
  match op with
  | 0 => BitVec.ofNat 64 ((Fmt.f32.add .rne (a.toNat % 2 ^ 32) (b.toNat % 2 ^ 32)).bits +
      (Fmt.f32.add .rne (a.toNat / 2 ^ 32) (b.toNat / 2 ^ 32)).bits * 2 ^ 32)
  | 1 => BitVec.ofNat 64 (Fmt.f64.add .rne a.toNat b.toNat).bits
  | 2 => a + b
  | _ => if a.toInt < b.toInt then b else a

/-- Contributions in increasing index. -/
def Group.ordered (g : Group) : List Contrib :=
  NMap.vals (g.got.foldl (fun (m : NMap Contrib) c => NMap.set m c.idx c) [])

/-- The result's words. -/
def Group.words (g : Group) : Vector Word 4 :=
  match g.ordered with
  | [] => .replicate 4 0
  | c :: cs => cs.foldl (fun w d => Vector.ofFn fun i => combine g.op w[i] d.m.words[i]) c.m.words

/-- The contributors that have not arrived (R363). -/
def Group.missing (g : Group) : List Nat := (List.range g.members.length).filter fun k => !g.got.any fun c => c.idx == k

/-- The result goes to a contributor's destination as a message (R362); one in another package is sent outward. -/
def State.sendResult (s : State) (pkg : Nat) (c : Contrib) (words : Vector Word 4) (i4 : Word) (ts : Nat) (miss : Option Vec) : State :=
  let m := { c.m with words := words, i4 := i4, ts := ts, target := c.dst, miss := miss, born := 0, key := 0, seq := s.nextId }
  if pkg != s.pkgNo then s.emit (.result pkg m)
  else match s.coreAt m.part c.dst with
    | some (q, pcore) => s.send (.message 0 q pcore m)
    | none => s

/-- Every contributor that has arrived is answered, and the round closes. Each of the others has one contribution more to come that belongs
to a round that is over (R363). -/
def State.closeRound (s : State) (n : Nat) (g : Group) (complete : Bool) : State :=
  let ts := g.got.foldl (fun m c => max m c.m.ts) 0
  let miss : Option Vec := if complete then none else some (BitVec.ofNat 512 (g.missing.foldl (fun v k => v + 2 ^ k) 0 % 2 ^ 256))
  let w := g.words
  let s := { s with groups := NMap.set s.groups n { g with got := [], op := 0, late := if complete then g.late else g.late ++ g.missing } }
  g.ordered.foldl (fun s c => s.sendResult (g.members.getD c.idx (0, 0)).1 c w (if complete then 0 else 1) ts miss) s

/-- A contribution enters the open round of its group; with the last one the results go out (R362). -/
def State.addContrib (s : State) (group op : Nat) (g : Group) (c : Contrib) : State :=
  let g := { g with got := g.got ++ [c], op := if g.got.isEmpty then op else g.op }
  let s := { s with groups := NMap.set s.groups group g }
  if g.missing.isEmpty then s.closeRound group g true else s

/-- COLLECTIVE_CONTRIBUTION (R290, R362, R363): the switch refuses a contribution, discards a late one, or adds it; with the last one
it sends the results. -/
def execCollectiveContribution (id : Nat) (s : State) : Host.Outcome State Fault Refusal :=
  match NMap.find s.flights id with
  | some (.collective sid group op dst m) =>
    match NMap.find s.groups group with
    | none => .next (s.ackFlight id sid 5 none)
    | some g =>
      match if 3 < op then none else (List.range g.members.length).find? fun k => g.members.getD k (0, 0) == (s.pkgNo, m.key) with
      | none => .next (s.ackFlight id sid 5 none)
      | some k =>
        if g.late.contains k then
          .next (({ s with groups := NMap.set s.groups group { g with late := g.late.erase k } } : State).ackFlight id sid 0 none)
        else if g.got.any fun c => c.idx == k then .next s
        else
          .next ((s.ackFlight id sid 0 none).addContrib group op g ⟨k, dst, m⟩)
  | _ => .next s

/-- A contribution comes to the switch from a contributor in another package (R362, log 59); a late one is discarded (R363). -/
def State.farArrives (s : State) (f : FarContrib) : State :=
  match NMap.find s.groups f.group with
  | none => s
  | some g =>
    if 3 < f.op || g.members.length ≤ f.c.idx || s.ours g f.c || g.got.any fun c => c.idx == f.c.idx then s
    else if g.late.contains f.c.idx then { s with groups := NMap.set s.groups f.group { g with late := g.late.erase f.c.idx } }
    else s.addContrib f.group f.op g f.c

/-- The PF writes a group of the switch's table (R362, log 59), while none of its contributions is held. -/
def State.writeGroup (s : State) (n : Nat) (members : List (Nat × Nat)) : State :=
  if n < 2 ^ 16 && members.length ≤ 256 && (NMap.getD s.groups n ⟨[], 0, [], []⟩).got.isEmpty then
    { s with groups := NMap.set s.groups n ⟨members, 0, [], []⟩ }
  else s

/-- CTIMEOUT (R363): the open round of a group ends without every contributor. -/
def execCtimeout (group : Nat) (s : State) : Host.Outcome State Fault Refusal :=
  match NMap.find s.groups group with
  | none => .next s
  | some g => .next (if g.got.isEmpty then s else s.closeRound group g false)

end Sys2Proof.Machine
end

