-- ==== Sys2Proof/Machine/Power.lean ====
section
/-! DEFINITION. Islands and power (R366, R367) and state read-back (R368, R369). -/
namespace Sys2Proof.Machine

/-- A write of ISLCTL (R366): REQ, from 6 to 27; a write outside that range is ignored. -/
def execIslctlWrite (n : Nat) (v : Word) (s : State) : Host.Outcome State Fault Refusal :=
  let r := v.toNat % 32
  .next (if !s.ready then s.unsupported else if n < 256 && 6 ≤ r && r ≤ 27 then s.modIsland n fun x => { x with req := r } else s)

/-- ISLAND_FREQUENCY_CHANGE (R366): the island reaches min(REQ, CAP). -/
def execIslandFrequencyChange (n : Nat) (s : State) : Host.Outcome State Fault Refusal :=
  .next (if n < 256 && (s.island n).cur != min (s.island n).req (s.die (n / 64)).cap then
      s.modIsland n fun x => { x with cur := min x.req (s.die (n / 64)).cap }
    else s)

/-- A die's CAP after a period (R367). -/
def capAfter (cap limit power junction : Nat) : Nat :=
  if 115 ≤ junction then 6
  else if limit < power || 105 ≤ junction then max 6 (cap - 1)
  else if power * 100 ≤ limit * 95 && junction < 100 then min 27 (cap + 1)
  else cap

/-- CAP_ADJUST (R367): every 10 µs, from the package's average power and the die's hottest junction. -/
def execCapAdjust (die : Nat) (power : Nat) (junction : Nat) (s : State) : Host.Outcome State Fault Refusal :=
  if !s.ready || 4 ≤ die then .next s
  else
    let s := { s with pwr := BitVec.ofNat 16 power }
    let s := s.modDie die fun d => { d with cap := capAfter d.cap s.plimit.toNat power junction, tj := junction }
    .next (if 115 ≤ junction then ({ s with trip := true } : State).emit (.thermtrip die) else s)

/-! ### State read-back (R368) -/

/-- A DBGSEL with its index advanced by 1 (R368). -/
def dbgNext (v : Word) : Word := BitVec.ofNat 64 (v.toNat / 2 ^ 56 * 2 ^ 56 + (v.toNat + 1) % 2 ^ 56)

/-- The copy commands of a unit: those that run, by channel, and those queued. -/
def CoreUnit.copyCmds (x : CoreUnit) : List CCmd := x.chan.toList.filterMap (·.cmd) ++ x.cq

/-- The entries of a queue: those in it, then those of its spill ring. -/
def Queue.entries (q : Queue) : List QEntry := q.q ++ q.ring

/-- The partition whose data a word of the debug read path is, if it is a data word; tags, states and counters belong to none (log 60). -/
def State.dbgOwner (s : State) : DbgItem → Option Nat
  | .sreg c _ | .vreg c _ _ | .kreg c _ | .mreg c _ | .wreg c _ _ | .recWord c _ _ | .graftWord c _ _ => (s.strand c).map (·.part)
  | .acc u _ _ | .sp u _ | .inboxWord u _ _ => some (s.unit u).tag
  | .l1Data u i _ => ((s.unit u).l1[i]?).map (·.part)
  | .sbData u i _ => ((s.unit u).sb[i]?).map (·.part)
  | .icData u i _ => ((s.unit u).ic[i]?).map (·.part)
  | .repData i _ => (s.reps[i]?).map (·.owner)
  | .l2Data line _ => (s.line line).owner
  | .queueWord q i _ => ((s.queue q).entries[i]?).map (·.part)
  | .matrixCmd u _ => some (s.unit u).tag
  | .copyCmd u i => ((s.unit u).copyCmds[i]?).map (·.part)
  | .slotPacket i => some (s.slot i).part
  | _ => none

/-- The registers of a context (R368): one with no strand shows those of its unit, and 0 elsewhere. -/
def State.dbgCtx (s : State) (c : CtxRef) : Strand :=
  (s.strand c).getD { Strand.blank 0 .record 0 with part := (s.unit c.unit).tag, lcore := (s.unit c.unit).lcore }

/-- A field of a core in the last snapshot (R369). -/
def State.dbgSnap (s : State) (core : Nat) (f : CoreSnap → Word) : Word :=
  match s.snaps with
  | some x => ((x.cores.find? fun k => k.core == core).map f).getD 0
  | none => 0

/-- A walk in flight, as plain numbers. -/
def Walk.code (w : Walk) : List Nat := [w.die, w.part, w.vpage, w.write.toNat]

/-- A cached translation, as plain numbers. -/
def TlbEntry.code (x : TlbEntry) : List Nat :=
  [x.die, x.part, x.vpage, x.span, x.leaf.pa, x.leaf.tag.toNat, x.leaf.x.toNat, x.leaf.w.toNat, x.leaf.r.toNat] ++
    x.ipas.flatMap fun p => [p.1, p.2]

/-- A host translation, as plain numbers. -/
def AtcEntry.code (x : AtcEntry) : List Nat := [x.die, x.fn, x.pasid, x.page, x.log2, x.hpa, x.r.toNat, x.w.toNat]

/-- A matrix command, as plain numbers. -/
def MCmd.code (k : MCmd) : List Nat :=
  [k.id, k.sid] ++ match k.op with
    | .mma t sat nx d a sa b sb => [0, t.code, sat.toNat, nx.toNat, d, a, sa, b, sb]
    | .bx4 d a sa b sb e0 e1 => [1, d, a, sa, b, sb, e0, e1]
    | .zero d => [2, d]
    | .lda d a sa => [3, d, a, sa]
    | .sta t sat nx d a sa c => [4, t.code, sat.toNat, nx.toNat, d, a, sa, c]
    | .mova d r v => [5, d, r, v.val]

/-- A copy command, as plain numbers. -/
def CCmd.code (k : CCmd) : List Nat :=
  [k.id, k.sid, k.ch.val, k.dom.toNat, k.nx.toNat, k.part, k.launch, k.lcore] ++ match k.op with
    | .cpy d a n => [0, d.toNat, a.toNat, n]
    | .fill d v n => [1, d.toNat, v.toNat, n]
    | .cpy2 d a r x y n => [2, d.toNat, a.toNat, r, x.toNat, y.toNat, n]
    | .cpyg d a i r x n => [3, d.toNat, a.toNat, i.toNat, r, x.toNat, n]

/-- A channel, as plain numbers. -/
def Channel.code (c : Channel) : List Nat := [c.cmd.isSome.toNat, c.pos, c.ready.toNat, c.wptr.toNat, c.err] ++ c.faults

/-- A packet, as plain numbers. -/
def Packet.code (p : Packet) : List Nat :=
  [p.kind, p.det.toNat, p.pinned.toNat, p.preempt.toNat, p.relSys.toNat, p.prio, p.entry.toNat, p.args.toNat, p.n] ++ p.weights.toList ++
    [p.spc, p.acc, p.scratch, p.cores, p.bars.toNat, p.done.toNat, p.inc.toNat, p.dep1.1.toNat, p.dep1.2.toNat, p.dep2.1.toNat,
      p.dep2.2.toNat, p.pasid, p.vf]

/-- A front-end slot, as plain numbers (R60–R65). -/
def Slot.code (x : Slot) : List Nat :=
  [x.st.code, x.part, x.qnum, x.ring.toNat, x.log2n, x.level, x.weight, x.noevict.toNat, x.head, x.tail, x.err.toNat, x.packet.isSome.toNat,
    x.edom.toNat, x.order, x.taken, x.served] ++ x.cores.flatMap fun e => [e.1, e.2]

/-- What a context waits for, as plain numbers. -/
def Hold.code : Hold → List Nat
  | .lates => [0]
  | .mail r => [1, r.val]
  | .barrier => [2]
  | .fullBit u w => [3, u, w]
  | .timed none => [4]
  | .timed (some w) => [5, w.1, w.2]
  | .idle u k safe => [6, u, k, safe.toNat]
  | .command .matrix => [7]
  | .command .all => [8]
  | .command (.mova v) => [9, v.val]
  | .command (.copy ch none) => [27, ch.val]
  | .command (.copy ch (some n)) => [10, ch.val, n.toNat]
  | .command (.cites n) => [11, n]
  | .command (.bytes o n) => [12, o, n]
  | .command (.section_ u n) => [13, u, n]
  | .queue .matrix => [14]
  | .queue .copy => [15]
  | .parked => [16]
  | .walk id => [17, id]
  | .remote => [18]
  | .acquire => [19]
  | .sbFull => [20]
  | .release sc => [21, sc.code]
  | .trap => [22]
  | .guest => [23]
  | .inbox n => [24, n]
  | .host a n => [25, a, n]
  | .home l => [26, l]
  | .port => [28]

/-- The state of a context, as plain numbers; no strand is the empty list. -/
def CtxState.code : CtxState → List Nat
  | .runs => [0]
  | .held h => 1 :: h.code
  | .trapped => [2]
  | .saving => [3]
  | .returning => [4]
  | .stopped => [5]

/-- The marks of a bank of registers as plain numbers: which are live, in the pending set, and poisoned (R120, R128, R334). -/
def cellMarks {n : Nat} (l : List (RegCell n)) : List Nat :=
  let bits (f : RegCell n → Bool) : Nat := l.foldr (fun x n => (f x).toNat + 2 * n) 0
  [bits (·.val.isSome), bits (·.pend), bits (·.poison)]

/-- The marks of a strand's registers, and for each mail register its presence, NX and timestamp (R129, R301, R304). -/
def Strand.marks (t : Strand) : List Nat :=
  cellMarks (t.g.toList ++ t.o.toList ++ t.win.cells) ++ cellMarks t.v.toList ++ cellMarks t.k.toList ++
    t.mail.toList.flatMap fun m => match m with
      | some x => [1, x.nx.toNat, x.ts]
      | none => [0, 0, 0]

/-- An active graft set as plain numbers. -/
def Frame.code (f : Frame) : List Nat :=
  [f.grantor.toNat, f.base] ++ f.grafts.toList.flatMap fun g => match g with
    | some g => [1, g.base.toNat, g.len, g.rights.toNat]
    | none => [0, 0, 0, 0]

/-- The rest of a strand's state as plain numbers: its place, what it has issued, and how far traps, saves and parks have come. -/
def Strand.code (t : Strand) : List Nat :=
  [t.sid, t.dom.toNat, t.depth, t.store, t.wins.length, t.recs.length, t.crossings, t.launch, t.lcore, t.part, t.unack, t.lates.length,
    t.cmds.length, t.reports.length, t.rem.length, t.wsig.toNat, t.fail.isSome.toNat, t.trap.isSome.toNat, t.handler.isSome.toNat,
    t.returning.toNat, t.preempt.toNat, t.saving.isSome.toNat, t.pos.getD 8, t.barPos.toNat, t.prio, t.ctl.toNat] ++ t.accs ++ t.faults

/-- What waits in an inbox, as plain numbers but for its words. -/
def InboxEntry.code : InboxEntry → List Nat
  | .msg m => [0, m.entry.toNat, m.key, m.launch, m.nx.toNat, m.dom.toNat, m.ts, m.seq, m.target]
  | .dep d => [1, d.id, d.mreg.val, d.ctx, d.nx.toNat, d.ts, d.key, d.seq, d.launch]

/-- The words of what waits in an inbox. -/
def InboxEntry.words : InboxEntry → List Word
  | .msg m => m.words.toList
  | .dep d => [d.word]

/-- An entry of a queue beside its record, as plain numbers. -/
def QEntry.tags (e : QEntry) : List Nat := [e.line, e.launch, e.part, e.vtime, e.mark.isSome.toNat, e.saved.isSome.toNat]

/-- A mortise, as plain numbers (R305). -/
def Mort.code (m : Mort) : List Nat :=
  [m.launch, m.part, m.ts, m.tag.toNat] ++ match m.use with
    | .landed => [0]
    | .running sid => [1, sid]
    | .saved => [2]

/-- The word that an item of the debug read path shows (R368), before data words of a running TDI are hidden. -/
def State.dbgShow (s : State) (i : DbgItem) : Word :=
  let code (l : List Nat) : Word := Config.dbgCode i l
  match i with
  | .pc c => (s.dbgCtx c).pc
  | .sreg c r => (s.dbgCtx c).rdS r
  | .vreg c r w => ((s.dbgCtx c).rdV r).extractLsb' (64 * w.val) 64
  | .kreg c r => (s.dbgCtx c).rdK r
  | .mreg c r => (s.dbgCtx c).rdM r
  | .wreg c i r => (match (s.dbgCtx c).wins[i]? with | some w => (w.cells.getD r.val .freed).read | none => 0)
  | .recWord c i w => (match (s.dbgCtx c).recs[i]? with | some r => BitVec.ofNat 64 (natOfBytes ((r.bytes.drop (8 * w.val)).take 8)) | none => 0)
  | .graftWord c h w => (if w = 0 then (graftWords (s.dbgCtx c).staged[h]).1 else (graftWords (s.dbgCtx c).staged[h]).2)
  | .marks c => code (s.dbgCtx c).marks
  | .winMarks c i => (match (s.dbgCtx c).wins[i]? with | some w => code (cellMarks w.cells) | none => 0)
  | .spillMarks c i => (match (s.dbgCtx c).spillPend[i]? with | some e => code [e.1, e.2.toNat] | none => 0)
  | .frame c i => (match (s.dbgCtx c).frames[i]? with | some f => code f.code | none => 0)
  | .strand c => (match s.strand c with | some t => code t.code | none => 0)
  | .inboxTag u i => (match (s.unit u).inbox[i]? with | some e => code e.code | none => 0)
  | .inboxWord u i w => (match (s.unit u).inbox[i]? with | some e => e.words.getD w.val 0 | none => 0)
  | .ctl c n => let t := s.dbgCtx c
    Env.ctlReg ⟨s, c, t, t, t, 0, false⟩ n
  | .acc u a w => (NMap.getD (s.unit u).acc a.val 0).extractLsb' (64 * w) 64
  | .sp u w => BitVec.ofNat 64 (Memory.readN (s.unit u).sp (8 * w) 8)
  | .spFull u w => BitVec.ofNat 64 (fullBit (s.unit u) w).toNat
  | .spPoison u w => BitVec.ofNat 64 (spPoisoned (s.unit u) (8 * w) 8).toNat
  | .section_ u n => code [(s.unit u).sect[n].toNat]
  | .mortise u i => (match (s.unit u).mort[i] with | some m => code m.code | none => 0)
  | .sbTag u i => (match (s.unit u).sb[i]? with | some e => code [e.line, e.part, e.mask.toNat, e.closed.toNat, e.rel.isSome.toNat] | none => 0)
  | .sbData u i w => (match (s.unit u).sb[i]? with | some e => e.data.extractLsb' (64 * w.val) 64 | none => 0)
  | .icTag u i => (match (s.unit u).ic[i]? with | some x => code [x.part, x.vline, x.tag.toNat, x.x.toNat] | none => 0)
  | .icData u i w => (match (s.unit u).ic[i]? with | some x => x.data.extractLsb' (64 * w.val) 64 | none => 0)
  | .repTag i => (match s.reps[i]? with | some r => code [r.die, r.line, r.owner] | none => 0)
  | .repData i w => (match s.reps[i]? with | some r => r.data.extractLsb' (64 * w.val) 64 | none => 0)
  | .l1Tag u i => (match (s.unit u).l1[i]? with | some x => code [x.line, x.host.toNat, x.ro.toNat] | none => 0)
  | .l1Data u i w => (match (s.unit u).l1[i]? with | some x => x.data.extractLsb' (64 * w.val) 64 | none => 0)
  | .l2Tag n => (match (s.line n).owner with | some p => code [p, (s.line n).dirty.toNat, (s.line n).poison.toNat] | none => 0)
  | .l2Data n w => if (s.line n).owner.isSome then (s.lineData n).extractLsb' (64 * w.val) 64 else 0
  | .l2Dir n => code (NMap.getD s.dir n [])
  | .side n => (match NMap.find s.side n with | some x => code [x.gen, x.cum.toNat, x.part] | none => 0)
  | .acq u i => (match (s.unit u).acqTab[i]? with | some x => code [x.1, x.2] | none => 0)
  | .tlb i => (match s.tlb[i]? with | some x => code x.code | none => 0)
  | .walker i => (match s.walks[i]? with | some x => code x.2.code | none => 0)
  | .atc i => (match s.atc[i]? with | some x => code x.code | none => 0)
  | .queueLen q => BitVec.ofNat 64 ((s.queue q).q.length + (s.queue q).ring.length)
  | .queueWord q i w => (match (s.queue q).entries[i]? with | some e => (#v[e.addr, e.code, e.frame, e.ctl])[w] | none => 0)
  | .queueIndex q i => (match (s.queue q).entries[i]? with | some e => BitVec.ofNat 64 e.index | none => 0)
  | .queueTag q i => (match (s.queue q).entries[i]? with | some e => code e.tags | none => 0)
  | .engineLen u => BitVec.ofNat 64 ((s.unit u).mq.length + (s.unit u).cq.length)
  | .matrixCmd u i => (match ((s.unit u).mrun.toList ++ (s.unit u).mq)[i]? with | some k => code k.code | none => 0)
  | .copyCmd u i => (match (s.unit u).copyCmds[i]? with | some k => code k.code | none => 0)
  | .channel u ch => code (s.unit u).chan[ch].code
  | .slot i => code (s.slot i).code
  | .slotPacket i => (match (s.slot i).packet with | some p => code p.code | none => 0)
  | .snapCycle n => s.dbgSnap n fun k => BitVec.ofNat 64 k.cycle
  | .snapPc n x => s.dbgSnap n fun k => ((k.ctxs.find? fun y => y.ctx == x).map (·.pc)).getD 0
  | .snapState n x => s.dbgSnap n fun k => code (match k.ctxs.find? fun y => y.ctx == x with | some y => y.state.code | none => [])
  | .snapSb n => s.dbgSnap n fun k => BitVec.ofNat 64 k.sbOcc
  | .snapQ n => s.dbgSnap n fun k => BitVec.ofNat 64 k.qOcc
  | .snapSlice n => (match s.snaps with | some x => code [(NMap.getD x.cnts n ⟨0, 0⟩).rfold, (NMap.getD x.cnts n ⟨0, 0⟩).underflow] | none => 0)

/-- The word that DBGDATA returns (R368): the state that the selected index shows, a data word of a partition whose VF's TDI is in RUN
as zero, and zero from a block outside the table. Which word of a block an index shows is the implementation's (log 60). -/
def State.dbgWord (s : State) (sel : Nat) : Word :=
  match (Config.dbgLayout (sel / 2 ^ 56) (sel % 2 ^ 56)).filter fun i => i.block == sel / 2 ^ 56 with
  | some i => if (s.dbgOwner i).any s.tdiRun then 0 else s.dbgShow i
  | none => 0

/-- DBGDATA (R368): the selected word, and the index advances by 1. What the request itself carries is not looked at. -/
def execDbgdataRead (_carried : Word) (s : State) : Host.Outcome State Fault Refusal :=
  .next (if !s.ready then s.unsupported
    else ({ s with dbgsel := dbgNext s.dbgsel } : State).emit (.value (s.dbgWord s.dbgsel.toNat)))

/-! ### Snapshots (R369) -/

/-- A write of 1 to SNAPTRIG (R369). -/
def execSnaptrig (v : Word) (s : State) : Host.Outcome State Fault Refusal :=
  .next (if !s.ready then s.unsupported else if v.getLsbD 0 then s.latch .host else s)

/-- SNAPSHOT_LATCH (R369): the common trigger from a source. -/
def execSnapshotLatch (src : SnapSrc) (s : State) : Host.Outcome State Fault Refusal := .next (s.latch src)

end Sys2Proof.Machine
end

