-- ==== Sys2Proof/Machine/Dispatch.lean ====
section
/-! DEFINITION. The one dispatch: every constructor of `Instr` to its meaning. -/
namespace Sys2Proof.Machine

/-- What an instruction or event does to the machine. -/
def exec (i : Instr) (s : State) : Host.Outcome State Fault Refusal :=
  match i with
  | .nop h => Sys2Proof.Machine.execNop h s
  | .liveMaskWord bits => Sys2Proof.Machine.execLiveMaskWord bits s
  | .br h c a b off => Sys2Proof.Machine.execBr h c a b off s
  | .bri h c a imm off => Sys2Proof.Machine.execBri h c a imm off s
  | .bk h t a b off => Sys2Proof.Machine.execBk h t a b off s
  | .jmp h off => Sys2Proof.Machine.execJmp h off s
  | .jmpr h a off => Sys2Proof.Machine.execJmpr h a off s
  | .call h off => Sys2Proof.Machine.execCall h off s
  | .callr h a off => Sys2Proof.Machine.execCallr h a off s
  | .ret h => Sys2Proof.Machine.execRet h s
  | .xcall h off => Sys2Proof.Machine.execXcall h off s
  | .xcallr h a off => Sys2Proof.Machine.execXcallr h a off s
  | .xret h => Sys2Proof.Machine.execXret h s
  | .gate h => Sys2Proof.Machine.execGate h s
  | .ends h => Sys2Proof.Machine.execEnds h s
  | .yield h a b => Sys2Proof.Machine.execYield h a b s
  | .trap h imm => Sys2Proof.Machine.execTrap h imm s
  | .svc h imm => Sys2Proof.Machine.execSvc h imm s
  | .bkpt h imm => Sys2Proof.Machine.execBkpt h imm s
  | .graft h d a b rights => Sys2Proof.Machine.execGraft h d a b rights s
  | .add h w32 d a b => Sys2Proof.Machine.execAdd h w32 d a b s
  | .sub h w32 d a b => Sys2Proof.Machine.execSub h w32 d a b s
  | .mul h w32 d a b => Sys2Proof.Machine.execMul h w32 d a b s
  | .mulh h w32 d a b => Sys2Proof.Machine.execMulh h w32 d a b s
  | .mulhu h w32 d a b => Sys2Proof.Machine.execMulhu h w32 d a b s
  | .div h w32 d a b => Sys2Proof.Machine.execDiv h w32 d a b s
  | .divu h w32 d a b => Sys2Proof.Machine.execDivu h w32 d a b s
  | .rem h w32 d a b => Sys2Proof.Machine.execRem h w32 d a b s
  | .remu h w32 d a b => Sys2Proof.Machine.execRemu h w32 d a b s
  | .and h w32 d a b => Sys2Proof.Machine.execAnd h w32 d a b s
  | .or h w32 d a b => Sys2Proof.Machine.execOr h w32 d a b s
  | .xor h w32 d a b => Sys2Proof.Machine.execXor h w32 d a b s
  | .andn h w32 d a b => Sys2Proof.Machine.execAndn h w32 d a b s
  | .shl h w32 d a b => Sys2Proof.Machine.execShl h w32 d a b s
  | .shr h w32 d a b => Sys2Proof.Machine.execShr h w32 d a b s
  | .sar h w32 d a b => Sys2Proof.Machine.execSar h w32 d a b s
  | .rol h w32 d a b => Sys2Proof.Machine.execRol h w32 d a b s
  | .min h w32 d a b => Sys2Proof.Machine.execMin h w32 d a b s
  | .max h w32 d a b => Sys2Proof.Machine.execMax h w32 d a b s
  | .minu h w32 d a b => Sys2Proof.Machine.execMinu h w32 d a b s
  | .maxu h w32 d a b => Sys2Proof.Machine.execMaxu h w32 d a b s
  | .set h c w32 d a b => Sys2Proof.Machine.execSet h c w32 d a b s
  | .sel h w32 d a b c => Sys2Proof.Machine.execSel h w32 d a b c s
  | .clz h w32 d a => Sys2Proof.Machine.execClz h w32 d a s
  | .ctz h w32 d a => Sys2Proof.Machine.execCtz h w32 d a s
  | .popc h w32 d a => Sys2Proof.Machine.execPopc h w32 d a s
  | .ext h w32 d a b => Sys2Proof.Machine.execExt h w32 d a b s
  | .extu h w32 d a b => Sys2Proof.Machine.execExtu h w32 d a b s
  | .ins h w32 d a b c => Sys2Proof.Machine.execIns h w32 d a b c s
  | .lea h d a b sh => Sys2Proof.Machine.execLea h d a b sh s
  | .li h d imm => Sys2Proof.Machine.execLi h d imm s
  | .liX h d imm => Sys2Proof.Machine.execLiX h d imm s
  | .bswap h w32 d a => Sys2Proof.Machine.execBswap h w32 d a s
  | .fadd h f m d a b => Sys2Proof.Machine.execFadd h f m d a b s
  | .fsub h f m d a b => Sys2Proof.Machine.execFsub h f m d a b s
  | .fmul h f m d a b => Sys2Proof.Machine.execFmul h f m d a b s
  | .fma h f m d a b c => Sys2Proof.Machine.execFma h f m d a b c s
  | .fnms h f m d a b c => Sys2Proof.Machine.execFnms h f m d a b c s
  | .fdiv h f m d a b => Sys2Proof.Machine.execFdiv h f m d a b s
  | .fsqrt h f m d a => Sys2Proof.Machine.execFsqrt h f m d a s
  | .fmin h f d a b => Sys2Proof.Machine.execFmin h f d a b s
  | .fmax h f d a b => Sys2Proof.Machine.execFmax h f d a b s
  | .fabs h f d a => Sys2Proof.Machine.execFabs h f d a s
  | .fneg h f d a => Sys2Proof.Machine.execFneg h f d a s
  | .fset h f c d a b => Sys2Proof.Machine.execFset h f c d a b s
  | .fclass h f d a => Sys2Proof.Machine.execFclass h f d a s
  | .fcvt h df m sf d a => Sys2Proof.Machine.execFcvt h df m sf d a s
  | .ftoi h sf m iw d a => Sys2Proof.Machine.execFtoi h sf m iw d a s
  | .itof h df m uns d a => Sys2Proof.Machine.execItof h df m uns d a s
  | .ld h sz sx acq sc d ad => Sys2Proof.Machine.execLd h sz sx acq sc d ad s
  | .st h sz rel sc d ad => Sys2Proof.Machine.execSt h sz rel sc d ad s
  | .ldf h sz sx acq sc d ad => Sys2Proof.Machine.execLdf h sz sx acq sc d ad s
  | .stf h sz rel sc d ad => Sys2Proof.Machine.execStf h sz rel sc d ad s
  | .sete h sz rel sc ad => Sys2Proof.Machine.execSete h sz rel sc ad s
  | .pref h l2 ad => Sys2Proof.Machine.execPref h l2 ad s
  | .fence h o sc => Sys2Proof.Machine.execFence h o sc s
  | .ifence h sc => Sys2Proof.Machine.execIfence h sc s
  | .cinv h ad => Sys2Proof.Machine.execCinv h ad s
  | .repl h g ad => Sys2Proof.Machine.execRepl h g ad s
  | .aadd h dw o sc d a b => Sys2Proof.Machine.execAadd h dw o sc d a b s
  | .aand h dw o sc d a b => Sys2Proof.Machine.execAand h dw o sc d a b s
  | .aor h dw o sc d a b => Sys2Proof.Machine.execAor h dw o sc d a b s
  | .axor h dw o sc d a b => Sys2Proof.Machine.execAxor h dw o sc d a b s
  | .amin h dw o sc d a b => Sys2Proof.Machine.execAmin h dw o sc d a b s
  | .amax h dw o sc d a b => Sys2Proof.Machine.execAmax h dw o sc d a b s
  | .aminu h dw o sc d a b => Sys2Proof.Machine.execAminu h dw o sc d a b s
  | .amaxu h dw o sc d a b => Sys2Proof.Machine.execAmaxu h dw o sc d a b s
  | .aswp h dw o sc d a b => Sys2Proof.Machine.execAswp h dw o sc d a b s
  | .acas h dw o sc d a b => Sys2Proof.Machine.execAcas h dw o sc d a b s
  | .adec h o sc d a => Sys2Proof.Machine.execAdec h o sc d a s
  | .radd h dw rel sc a b => Sys2Proof.Machine.execRadd h dw rel sc a b s
  | .vld h t k d ad => Sys2Proof.Machine.execVld h t k d ad s
  | .vst h t k ad c => Sys2Proof.Machine.execVst h t k ad c s
  | .vlds h t k d ad => Sys2Proof.Machine.execVlds h t k d ad s
  | .vsts h t k ad c => Sys2Proof.Machine.execVsts h t k ad c s
  | .vgath h t k d a b sh => Sys2Proof.Machine.execVgath h t k d a b sh s
  | .vscat h t k a b c sh => Sys2Proof.Machine.execVscat h t k a b c sh s
  | .vadd h t k d a b => Sys2Proof.Machine.execVadd h t k d a b s
  | .vsub h t k d a b => Sys2Proof.Machine.execVsub h t k d a b s
  | .vmul h t k d a b => Sys2Proof.Machine.execVmul h t k d a b s
  | .vfma h t k d a b c => Sys2Proof.Machine.execVfma h t k d a b c s
  | .vdiv h t k d a b => Sys2Proof.Machine.execVdiv h t k d a b s
  | .vsqrt h t k d a => Sys2Proof.Machine.execVsqrt h t k d a s
  | .vmin h t k u d a b => Sys2Proof.Machine.execVmin h t k u d a b s
  | .vmax h t k u d a b => Sys2Proof.Machine.execVmax h t k u d a b s
  | .vabs h t k d a => Sys2Proof.Machine.execVabs h t k d a s
  | .vneg h t k d a => Sys2Proof.Machine.execVneg h t k d a s
  | .vand h t k d a b => Sys2Proof.Machine.execVand h t k d a b s
  | .vor h t k d a b => Sys2Proof.Machine.execVor h t k d a b s
  | .vxor h t k d a b => Sys2Proof.Machine.execVxor h t k d a b s
  | .vshl h t k d a b => Sys2Proof.Machine.execVshl h t k d a b s
  | .vshr h t k d a b => Sys2Proof.Machine.execVshr h t k d a b s
  | .vsar h t k d a b => Sys2Proof.Machine.execVsar h t k d a b s
  | .vcmp h t k c d a b => Sys2Proof.Machine.execVcmp h t k c d a b s
  | .vsel h t k d a b c => Sys2Proof.Machine.execVsel h t k d a b c s
  | .vbcast h t k d a => Sys2Proof.Machine.execVbcast h t k d a s
  | .vext h t d a b => Sys2Proof.Machine.execVext h t d a b s
  | .vins h t d a b => Sys2Proof.Machine.execVins h t d a b s
  | .vperm h t k d a b => Sys2Proof.Machine.execVperm h t k d a b s
  | .vred h t k op d a => Sys2Proof.Machine.execVred h t k op d a s
  | .vcvt h t k src m sat part d a => Sys2Proof.Machine.execVcvt h t k src m sat part d a s
  | .vqntScaled h t k m sat part d a c => Sys2Proof.Machine.execVqntScaled h t k m sat part d a c s
  | .vqntBlock h sel part d a b => Sys2Proof.Machine.execVqntBlock h sel part d a b s
  | .kop h op d a b => Sys2Proof.Machine.execKop h op d a b s
  | .kmov h d a => Sys2Proof.Machine.execKmov h d a s
  | .kpop h t d a => Sys2Proof.Machine.execKpop h t d a s
  | .viota h t k d => Sys2Proof.Machine.execViota h t k d s
  | .mma h t sat d a b sa sb => Sys2Proof.Machine.execMma h t sat d a b sa sb s
  | .mmaBx4 h d a b e0 e1 x0 x1 => Sys2Proof.Machine.execMmaBx4 h d a b e0 e1 x0 x1 s
  | .mzero h d => Sys2Proof.Machine.execMzero h d s
  | .mlda h d a b => Sys2Proof.Machine.execMlda h d a b s
  | .msta h t sat d a c stride => Sys2Proof.Machine.execMsta h t sat d a c stride s
  | .mova h d a b => Sys2Proof.Machine.execMova h d a b s
  | .cpy h ch d a b imm => Sys2Proof.Machine.execCpy h ch d a b imm s
  | .cpy2 h ch d a b e0 e1 x0 => Sys2Proof.Machine.execCpy2 h ch d a b e0 e1 x0 s
  | .cpyg h ch d a b e0 e1 x0 => Sys2Proof.Machine.execCpyg h ch d a b e0 e1 x0 s
  | .cpwait h ch a => Sys2Proof.Machine.execCpwait h ch a s
  | .cpstat h ch d => Sys2Proof.Machine.execCpstat h ch d s
  | .cpfill h ch d a b imm => Sys2Proof.Machine.execCpfill h ch d a b imm s
  | .spawn h a => Sys2Proof.Machine.execSpawn h a s
  | .bar h lvl => Sys2Proof.Machine.execBar h lvl s
  | .barw h lvl d b => Sys2Proof.Machine.execBarw h lvl d b s
  | .waitf h d a b => Sys2Proof.Machine.execWaitf h d a b s
  | .send h a c off => Sys2Proof.Machine.execSend h a c off s
  | .post h a b => Sys2Proof.Machine.execPost h a b s
  | .vtadv h b => Sys2Proof.Machine.execVtadv h b s
  | .cnew h a len => Sys2Proof.Machine.execCnew h a len s
  | .cins h a b off => Sys2Proof.Machine.execCins h a b off s
  | .cdel h a => Sys2Proof.Machine.execCdel h a s
  | .cset h a b off => Sys2Proof.Machine.execCset h a b off s
  | .cget h d b => Sys2Proof.Machine.execCget h d b s
  | .cship h => Sys2Proof.Machine.execCship h s
  | .cdone h => Sys2Proof.Machine.execCdone h s
  | .mfc h d reg => Sys2Proof.Machine.execMfc h d reg s
  | .mtc h a reg => Sys2Proof.Machine.execMtc h a reg s
  | .eret h next => Sys2Proof.Machine.execEret h next s
  | .tlbiAll h => Sys2Proof.Machine.execTlbiAll h s
  | .tlbiVa h a => Sys2Proof.Machine.execTlbiVa h a s
  | .tlbiIpa h a => Sys2Proof.Machine.execTlbiIpa h a s
  | .sectTag h a b => Sys2Proof.Machine.execSectTag h a b s
  | .sectZero h a => Sys2Proof.Machine.execSectZero h a s
  | .sectClrp h a => Sys2Proof.Machine.execSectClrp h a s
  | .creinj h a => Sys2Proof.Machine.execCreinj h a s
  | .snap h => Sys2Proof.Machine.execSnap h s
  | .idle h d b => Sys2Proof.Machine.execIdle h d b s
  | .resume h a b => Sys2Proof.Machine.execResume h a b s
  | .longResultWriteback c id => Sys2Proof.Machine.execLongResultWriteback c id s
  | .issueSelect u => Sys2Proof.Machine.execIssueSelect u s
  | .notifyWrite src v => Sys2Proof.Machine.execNotifyWrite src v s
  | .pendingNotifyMap => Sys2Proof.Machine.execPendingNotifyMap s
  | .queueServiceTurn => Sys2Proof.Machine.execQueueServiceTurn s
  | .dependenceEval slot => Sys2Proof.Machine.execDependenceEval slot s
  | .placementAdmit slot => Sys2Proof.Machine.execPlacementAdmit slot s
  | .contextTakesWork c => Sys2Proof.Machine.execContextTakesWork c s
  | .pinnedQueueFeed launch pcore => Sys2Proof.Machine.execPinnedQueueFeed launch pcore s
  | .spillRingReturn q => Sys2Proof.Machine.execSpillRingReturn q s
  | .overflowPushResume id => Sys2Proof.Machine.execOverflowPushResume id s
  | .priorityPreemptRequest q => Sys2Proof.Machine.execPriorityPreemptRequest q s
  | .activityForecast => Sys2Proof.Machine.execActivityForecast s
  | .completionAddition launch => Sys2Proof.Machine.execCompletionAddition launch s
  | .slotunmap v => Sys2Proof.Machine.execSlotunmap v s
  | .lnresv fn va => Sys2Proof.Machine.execLnresv fn va s
  | .lnfree fn v => Sys2Proof.Machine.execLnfree fn v s
  | .coretagWrite pcore v => Sys2Proof.Machine.execCoretagWrite pcore v s
  | .kptagWrite kp v => Sys2Proof.Machine.execKptagWrite kp v s
  | .mapinv v => Sys2Proof.Machine.execMapinv v s
  | .kpstart kp v => Sys2Proof.Machine.execKpstart kp v s
  | .rcRegisterRead fn off => Sys2Proof.Machine.execRcRegisterRead fn off s
  | .powerOn r => Sys2Proof.Machine.execPowerOn r s
  | .registerWrite fn off v => Sys2Proof.Machine.execRegisterWrite fn off v s
  | .storeDrain u idx => Sys2Proof.Machine.execStoreDrain u idx s
  | .l1Fill u idx => Sys2Proof.Machine.execL1Fill u idx s
  | .replicaFill idx => Sys2Proof.Machine.execReplicaFill idx s
  | .replicaInvalidation idx => Sys2Proof.Machine.execReplicaInvalidation idx s
  | .homeEviction line => Sys2Proof.Machine.execHomeEviction line s
  | .replicaEpoch die => Sys2Proof.Machine.execReplicaEpoch die s
  | .atomicAtHome id => Sys2Proof.Machine.execAtomicAtHome id s
  | .releaseAtHome u idx => Sys2Proof.Machine.execReleaseAtHome u idx s
  | .acquireReply u idx => Sys2Proof.Machine.execAcquireReply u idx s
  | .walk id => Sys2Proof.Machine.execWalk id s
  | .walkRestart id => Sys2Proof.Machine.execWalkRestart id s
  | .heldFaultRetry id => Sys2Proof.Machine.execHeldFaultRetry id s
  | .resumew fn v => Sys2Proof.Machine.execResumew fn v s
  | .prgResponse fid code => Sys2Proof.Machine.execPrgResponse fid code s
  | .atsInvalidation fn pasid page log2 => Sys2Proof.Machine.execAtsInvalidation fn pasid page log2 s
  | .tlbiw v => Sys2Proof.Machine.execTlbiw v s
  | .trapMigration c => Sys2Proof.Machine.execTrapMigration c s
  | .doubleTrap c => Sys2Proof.Machine.execDoubleTrap c s
  | .eretReturn c => Sys2Proof.Machine.execEretReturn c s
  | .safePointSave c => Sys2Proof.Machine.execSafePointSave c s
  | .pgraceExpiry launch => Sys2Proof.Machine.execPgraceExpiry launch s
  | .poisonEvent t => Sys2Proof.Machine.execPoisonEvent t s
  | .capsulePark id => Sys2Proof.Machine.execCapsulePark id s
  | .capsuleInject launch => Sys2Proof.Machine.execCapsuleInject launch s
  | .capsuleLand id => Sys2Proof.Machine.execCapsuleLand id s
  | .capsuleRetirement id => Sys2Proof.Machine.execCapsuleRetirement id s
  | .messageDelivery id => Sys2Proof.Machine.execMessageDelivery id s
  | .depositArrival id => Sys2Proof.Machine.execDepositArrival id s
  | .requestAck id => Sys2Proof.Machine.execRequestAck id s
  | .remoteAccessAtTarget id ext => Sys2Proof.Machine.execRemoteAccessAtTarget id ext s
  | .barrierPhaseComplete launch lvl group => Sys2Proof.Machine.execBarrierPhaseComplete launch lvl group s
  | .barwTimeout c => Sys2Proof.Machine.execBarwTimeout c s
  | .waitfTimeout c => Sys2Proof.Machine.execWaitfTimeout c s
  | .idleTimeout c => Sys2Proof.Machine.execIdleTimeout c s
  | .wakeWrite v => Sys2Proof.Machine.execWakeWrite v s
  | .horizonPublish launch => Sys2Proof.Machine.execHorizonPublish launch s
  | .engineCommandStart u e => Sys2Proof.Machine.execEngineCommandStart u e s
  | .matrixCommandComplete u => Sys2Proof.Machine.execMatrixCommandComplete u s
  | .copyPageReach u ch => Sys2Proof.Machine.execCopyPageReach u ch s
  | .copyDelivery u ch => Sys2Proof.Machine.execCopyDelivery u ch s
  | .copyComplete u ch => Sys2Proof.Machine.execCopyComplete u ch s
  | .tenctlSlice part => Sys2Proof.Machine.execTenctlSlice part s
  | .tenctlStop part => Sys2Proof.Machine.execTenctlStop part s
  | .tenctlRun part => Sys2Proof.Machine.execTenctlRun part s
  | .keyGenerate slot => Sys2Proof.Machine.execKeyGenerate slot s
  | .keyRetire slot => Sys2Proof.Machine.execKeyRetire slot s
  | .vfReset vf => Sys2Proof.Machine.execVfReset vf s
  | .cxlMemRead off size => Sys2Proof.Machine.execCxlMemRead off size s
  | .cxlMemWrite off bytes => Sys2Proof.Machine.execCxlMemWrite off bytes s
  | .hostSnoop addr bytes => Sys2Proof.Machine.execHostSnoop addr bytes s
  | .hostQueueEntry id => Sys2Proof.Machine.execHostQueueEntry id s
  | .hsreply fn v => Sys2Proof.Machine.execHsreply fn v s
  | .gweikFlit die port flit => Sys2Proof.Machine.execGweikFlit die port flit s
  | .collectiveContribution id => Sys2Proof.Machine.execCollectiveContribution id s
  | .ctimeout group => Sys2Proof.Machine.execCtimeout group s
  | .devstatRst v => Sys2Proof.Machine.execDevstatRst v s
  | .islctlWrite n v => Sys2Proof.Machine.execIslctlWrite n v s
  | .islandFrequencyChange n => Sys2Proof.Machine.execIslandFrequencyChange n s
  | .capAdjust die power junction => Sys2Proof.Machine.execCapAdjust die power junction s
  | .dbgdataRead carried => Sys2Proof.Machine.execDbgdataRead carried s
  | .snaptrig v => Sys2Proof.Machine.execSnaptrig v s
  | .snapshotLatch src => Sys2Proof.Machine.execSnapshotLatch src s
  | .tdispRequest vf req => Sys2Proof.Machine.execTdispRequest vf req s
  | .atsTranslationCompletion id r => Sys2Proof.Machine.execAtsTranslationCompletion id r s
  | .backInvalidateResponse line half data => Sys2Proof.Machine.execBackInvalidateResponse line half data s

end Sys2Proof.Machine
end

