-- ==== Sys2Proof/Machine/Auto.lean ====
section
/-! DEFINITION. What happens next when nothing is on the agenda: the internal events that may take place, the choice among them and
the issue of instructions, which is free where the spec gives no order; and where an instruction is placed to be fetched
(log 2). -/
namespace Sys2Proof.Machine

/-! ### Events of contexts and units -/

/-- The limits of timed waits that pass (R294, R295, R345). -/
def limitEvent (c : CtxRef) (t : Strand) : List Instr :=
  match t.hold, t.limit with
  | some .barrier, some _ => [.barwTimeout c]
  | some (.timed _), some _ => [.waitfTimeout c]
  | some (.idle ..), some _ => [.idleTimeout c]
  | _, _ => []

/-- What a strand may do apart from issuing. -/
def strandEvents (c : CtxRef) (t : Strand) : List Instr :=
  (t.lates.map fun l => .longResultWriteback c l.id) ++ [.eretReturn c, .trapMigration c, .doubleTrap c, .safePointSave c] ++ limitEvent c t

/-- What a unit's buffers and engines may do. -/
def unitEvents (u : UnitRef) (x : CoreUnit) : List Instr :=
  ((List.range x.sb.length).flatMap fun i => [Instr.storeDrain u i, .releaseAtHome u i]) ++
    ((List.range x.fills.length).map fun i => .l1Fill u i) ++ ((List.range x.replies.length).map fun i => .acquireReply u i) ++
    [.engineCommandStart u .matrix, .engineCommandStart u .copy, .matrixCommandComplete u] ++
    (([0, 1, 2, 3] : List (Fin 4)).flatMap fun ch => [Instr.copyPageReach u ch, .copyDelivery u ch, .copyComplete u ch]) ++
    (x.inbox.filterMap fun e => match e with
      | .dep d => some (.depositArrival d.id)
      | .msg _ => none)

/-- The lowest free context of an enabled core takes work; a pinned queue is fed again, and asks for pre-emption. -/
def State.coreEvents (s : State) (u : UnitRef) : List Instr :=
  match u with
  | .core p =>
    (match s.freeCtx u with | some k => [.contextTakesWork ⟨u, k⟩] | none => []) ++
      [.spillRingReturn (.core p), .priorityPreemptRequest (.core p)]
  | .kp _ => []

/-! ### Events of memory, tiles, launches and the fabric -/

/-- What homes, walkers and fault buffers may do. -/
def State.memoryEvents (s : State) : List Instr :=
  ((List.range s.repFills.length).map fun i => .replicaFill i) ++ ((List.range s.invs.length).map fun i => .replicaInvalidation i) ++
    (s.lines.filterMap fun e => if e.2.owner.isSome then some (.homeEviction e.1) else none) ++
    ((List.range 4).map fun d => .replicaEpoch d) ++ (s.homeReqs.map fun e => .atomicAtHome e.1) ++ (s.walks.map fun e => .walk e.1) ++
    (s.faults.filterMap fun f => if f.fid.isNone then some (.heldFaultRetry f.id) else none)

/-- What a tile's queues and overflow area may do. -/
def tileEvents (n : Nat) (t : Tile) : List Instr :=
  (t.ready.flatMap fun q => [Instr.spillRingReturn (.tile n q.1), .priorityPreemptRequest (.tile n q.1)]) ++
    t.items.filterMap fun i => match i with
      | .msg id _ _ => some (.messageDelivery id)
      | .cap id _ _ _ _ => some (.capsuleLand id)
      | .entry _ _ => none

/-- The barriers of a launch that may complete (R292). -/
def barrierEvents (l : Launch) : List Instr :=
  (([.core, .quad, .tile, .die, .pkg, .sys] : List Scope).filter fun v => l.pkt.bars.getLsbD v.code).flatMap fun v =>
    ((l.cores.map fun e => groupOf v e.2).eraseDups).map fun g => .barrierPhaseComplete l.num v g

/-- What a launch's generators, its HORIZON and its end may do. -/
def launchEvents (l : Launch) : List Instr :=
  (l.cores.map fun e => .pinnedQueueFeed l.num e.2) ++
    [.capsuleInject l.num, .horizonPublish l.num, .completionAddition l.num, .pgraceExpiry l.num]

/-- What the front end's slots may do. -/
def State.slotEvents (s : State) : List Instr :=
  (s.slots.flatMap fun e => [Instr.dependenceEval e.1, .placementAdmit e.1]) ++ [.queueServiceTurn, .pendingNotifyMap, .activityForecast]

/-- How something on its way goes on. -/
def flightEvent (id : Nat) (f : Flight) : Instr :=
  match f with
  | .access .. => .remoteAccessAtTarget id .target
  | .hostStore .. => .requestAck id
  | .message .. => .messageDelivery id
  | .hostMsg .. => .hostQueueEntry id
  | .collective .. => .collectiveContribution id
  | .deposit .. => .depositArrival id
  | .hop .. => .capsuleLand id
  | .ack .. => .requestAck id

/-- What the fabric may do. An access to another package goes on only with that package's answer. -/
def State.fabricEvents (s : State) : List Instr :=
  (s.flights.filterMap fun e => match e.2 with
    | .access _ _ pkg _ _ _ _ _ => if pkg = s.pkgNo then some (flightEvent e.1 e.2) else none
    | f => some (flightEvent e.1 f)) ++
    (s.retires.map fun e => .capsuleRetirement e.1) ++ (s.parkWait.map fun e => .capsulePark e.1) ++
    (s.pushWait.map fun e => .overflowPushResume e.1) ++
    (s.parts.filterMap fun e => if e.2.tstate = 1 then some (.tenctlStop e.1) else none)

/-- Every internal event that may be due. -/
def State.dueEvents (s : State) : List Instr :=
  (s.allStrands.flatMap fun e => strandEvents e.1 e.2) ++ (s.units.flatMap fun e => unitEvents (uref e.1) e.2 ++ s.coreEvents (uref e.1)) ++
    s.memoryEvents ++ (s.tiles.flatMap fun e => tileEvents e.1 e.2) ++ (s.launches.flatMap fun e => launchEvents e.2) ++ s.slotEvents ++
    s.fabricEvents

/-- Events that come before anything else: a barrier phase that is complete, then a limit that the clock has reached (R294). -/
def State.urgentEvents (s : State) : List Instr :=
  (s.launches.flatMap fun e => barrierEvents e.2) ++
    (s.allStrands.filter fun e => match e.2.limit with
      | some n => n ≤ (s.island (uisland (homeOf e.1 e.2).unit)).cycle
      | none => false).flatMap fun e => limitEvent e.1 e.2

/-! ### The choice -/

/-- The state that a step leads to, where it changes anything. -/
def State.changed (s : State) (o : Host.Outcome State Fault Refusal) : Option State :=
  match o with
  | .next s' => if s' = s then none else some s'
  | _ => none

/-- The state that an event leads to, where it changes anything. -/
def State.moveOf (s : State) (e : Instr) : Option State := s.changed (exec e s)

/-- The units that hold a strand that may issue. -/
def State.issuers (s : State) : List UnitRef :=
  (s.units.filter fun e => (s.pick (uref e.1)).isSome).map fun e => uref e.1

/-- The islands that have still to take a new frequency (R366). -/
def State.movingIslands (s : State) : List Nat :=
  (List.range 256).filter fun n => (s.island n).cur != min (s.island n).req (s.die (n / 64)).cap

/-- An island that has still to take a new frequency takes it (R366). -/
def State.clockMoves (s : State) : List State := s.movingIslands.filterMap fun n => s.changed (execIslandFrequencyChange n s)

/-- What is free to come at any time: the time of a collective's open round runs out (R363), and a die evicts a replica (R206). -/
def State.freeMoves (s : State) : List State :=
  (s.groups.filterMap fun e => s.changed (execCtimeout e.1 s)) ++ s.reps.map s.dropReplica

/-- What may come to the package's switch (R362, log 59): a write of its table, and a contribution from another package. -/
def State.switchMoves (s : State) : List State :=
  ((Config.tableWrite s.freeCtr).map fun e => s.writeGroup e.1 e.2).toList ++ ((Config.farContribution s.freeCtr).map s.farArrives).toList

/-- The states that may come next: an internal event, or the next instruction of some unit. -/
def State.moves (s : State) : List State :=
  s.dueEvents.filterMap s.moveOf ++ s.clockMoves ++ s.freeMoves ++ s.switchMoves ++ s.issuers.filterMap fun u => s.moveOf (.issueSelect u)

/-- The progress promise covers an event (R82): what may come at any time, or never, owes nothing. -/
def promised : Instr → Bool
  | .homeEviction _ | .replicaEpoch _ | .pgraceExpiry _ | .activityForecast => false
  | _ => true

/-- The events that the progress promise owes (R82): free contexts take the work they are eligible for, units issue, and what has been
issued or is on its way goes on; and an island moves to its new frequency (R366). -/
def State.owed (s : State) : List Instr :=
  (s.units.flatMap fun e => (List.range 8).map fun k => .contextTakesWork ⟨uref e.1, k⟩) ++ s.dueEvents.filter promised ++
    (s.issuers.map fun u => .issueSelect u) ++ s.movingIslands.map fun n => .islandFrequencyChange n

/-- One of the possible moves, the choice being free (log 2). -/
def State.freeMove (s : State) (ctr : Nat) : Host.Outcome State Fault Refusal :=
  match s.moves[Config.choice ctr % s.moves.length]? with
  | some s' => .next s'
  | none => .next s

/-- After any finite number of free choices comes the next event that the progress promise owes (R82, log 54). -/
def State.nextMove (s : State) (ctr : Nat) : Host.Outcome State Fault Refusal :=
  match s.patience, s.duty with
  | n + 1, _ => State.freeMove { s with patience := n } ctr
  | 0, [] => .next { s with duty := s.owed, patience := Config.patience ctr }
  | 0, e :: es => exec e { s with duty := es, patience := Config.patience ctr }

/-- The next state when nothing is on the agenda and no instruction issues: bring-up where it has not happened, an urgent event, or
the next move. -/
def State.autoStep (s : State) : Host.Outcome State Fault Refusal :=
  let ctr := s.freeCtr
  let s := { s with freeCtr := ctr + 1 }
  if !s.ready then (if s.phase = 0xF then .next s else exec (.powerOn (Config.bringUp ctr)) s)
  else
    match s.urgentEvents.findSome? s.moveOf with
    | some s' => .next s'
    | none => s.nextMove ctr

/-! ### Placing an instruction -/

/-- A strand of partition 0 and domain 0 as it starts (R42), where a program is placed with no strand to run it. -/
def Strand.boot : Strand := { Strand.blank 1 .record 0 with start := none }

/-- A strand ready to issue at the start of its 32-byte block, whatever held it. -/
def Strand.ready (t : Strand) : Strand :=
  { t with
    pc := BitVec.ofNat 64 (t.pc.toNat % 2 ^ 53 / 32 * 32), permit := true, hold := none, trap := none, denied := none, start := none
    saving := none, returning := false, acq := none, fetched := none }

/-- An instruction-cache line of zeros but for an instruction at the start of the block that holds `pc`. -/
def lineWith (part : Nat) (pc : Word) (nbits w : Nat) : ILine :=
  ⟨part, pc.toNat / 64, 0, true, BitVec.ofNat 512 (w % 2 ^ nbits * 2 ^ (8 * (pc.toNat % 64)))⟩

/-- The state with an instruction's bytes where the next step fetches (R84, log 2). -/
def State.placed (s : State) (nbits w : Nat) : State :=
  let c := s.cur
  let t := match s.strand c with
    | some t => t.ready
    | none => Strand.boot
  let s := ({ s with agenda := [], issuing := true, ready := true } : State).setStrand c t
  s.modUnit c.unit fun u => { u with
    ic := lineWith t.part t.pc nbits w :: u.ic.filter fun x => !(x.part == t.part && x.vline == t.pc.toNat / 64) }

end Sys2Proof.Machine
end

