-- ==== Sys2Proof/Machine/Step.lean ====
section
/-! DEFINITION. One step of the machine: the instruction that issues is fetched, decoded and executed; otherwise the event at the
head of the agenda takes place, or the next internal one. -/
namespace Sys2Proof.Machine

/-- What happens next: an instruction that issues, an event of the agenda, or an internal one. -/
def State.act (s : State) : Host.Outcome State Fault Refusal :=
  if s.issuing then
    match s.fetch with
    | .idle => .next { s with issuing := false }
    | .stop s' => .next s'
    | .run s' i => exec i s'
  else
    match s.agenda with
    | e :: es => exec e { s with agenda := es }
    | [] => s.autoStep

/-- One step: what happens next, and what the front end does at once after it (R61, R64). -/
def step (s : State) : Host.Outcome State Fault Refusal :=
  match s.act with
  | .next s' => .next (State.settleFront s s')
  | o => o

/-- The state with an instruction stored where the next step fetches. -/
def State.withFetchWord (s : State) (nbits w : Nat) : State := s.placed nbits w

end Sys2Proof.Machine
end

