-- ==== Sys2Proof/Safety.lean ====
section
/-! DEFINITION. What counts as a well-formed state and a safe run, and the conditions under which an instruction completes, in the
terms the statements use. -/
namespace Sys2Proof.Machine

/-! ### Well-formed memories -/

/-- The memories are in their canonical form (device memory, host memory, every scratchpad). -/
def State.memWf (s : State) : Bool :=
  s.mem.wf && s.hostMem.wf && s.units.all fun e => e.2.sp.wf

/-- The keys of a map rise. -/
def NMap.rising {β : Type} : NMap β → Bool
  | [] => true
  | (k, _) :: m => (match m with | [] => true | (n, _) :: _ => k < n) && NMap.rising m

/-- The units, and the contexts of each, are listed once each and in order. -/
def State.tidy (s : State) : Bool := NMap.rising s.units && s.units.all fun e => NMap.rising e.2.strands

/-- The canonical form of the maps that the state is made of: equal memories and equal sets of strands are equal data. -/
def State.canonical (s : State) : Bool := s.memWf && s.tidy

/-! ### When an instruction completes -/

/-- The state once the instruction at `cur` has been taken for issue. -/
def State.taken (s : State) : State := { s with issuing := false }

/-- The strand as an instruction's reads see it: its W marker has taken effect (R120). -/
def Strand.atIssue (t : Strand) (h : Hd) : Strand := if h.w then t.settle else t

/-- A register that an instruction can read at once with one value: not in the pending set, not poisoned; a mail register holds a
word of the strand's own NX (R120, R129, R301, R334). -/
def Strand.readable (t : Strand) (r : Reg) : Bool :=
  match r with
  | .m m => match t.mail[m] with
    | some x => x.nx == t.nx
    | none => false
  | r => !t.pendingReg r && !t.poisonedReg r

/-- A transfer to `a` passes R87 and R88: the page of the pc, no device-paged address, or a present page of the fetch domain. -/
def State.reaches (s : State) (t : Strand) (a : Word) : Bool :=
  a.toNat / 65536 == t.pc.toNat / 65536 || regionOf a != .paged ||
    match s.taken.xlate (udie s.cur.unit) t.part a false t.wfaults with
    | .off => true
    | .ok l => l.tag == t.dom
    | _ => false

/-- The conditions, on the state and the operands alone, under which the common part of an instruction passes: its strand `t` is in
the context that issues; it is in domain 0 where R98 asks it; it is not in a handler window where it names a vector register or an
accumulator (R321); it owns the accumulators it names (R102); W finds no long-latency result outstanding (R104); no MOVA has still to
write a vector register it names (R255); every source is readable; and the next instruction in line may follow. -/
def State.admits (s : State) (t : Strand) (o : Op) : Bool :=
  s.strand s.cur == some t && (!o.priv || t.dom == 0) && (!o.vec || t.handler.isNone) &&
    (o.accs.all fun a => a.val < t.accs.length) && (!o.h.w || !t.lates.any Late.awaited) && (s.taken.movaOn s.cur t o).isNone &&
    (o.srcs.all fun x => (t.atIssue o.h).readable x.1) &&
    (!o.falls || s.reaches t (t.pc + BitVec.ofNat 64 (o.h.after o.len)))

/-- The strand with the sources that an instruction consumes: K frees a register, a mail register that is read empties, and VTIME
rises to the timestamp of the deposits read (R103, R129, R304). -/
def Strand.consumed (t : Strand) (srcs : Srcs) : Strand :=
  (srcs.filter Prod.snd).foldl (fun (t : Strand) x => t.free x.1) { t with vtime := t.mailTime (srcs.map Prod.fst) }

/-- What an instruction's own meaning works on, where its common part passes. -/
def State.env (s : State) (t : Strand) (o : Op) : Env :=
  ⟨s.taken, s.cur, t, t.atIssue o.h, (t.atIssue o.h).consumed o.srcs, o.h.after o.len, false⟩

/-- The state after an instruction that consumes its sources, changes the strand by `f`, and goes on by `g`: nothing but the strand
and the issue slot changes. -/
def State.finish (s : State) (t : Strand) (o : Op) (f : Strand → Strand) (g : Go) : State :=
  s.taken.retire s.cur o.h (f ((t.atIssue o.h).consumed o.srcs)) g (o.h.after o.len)

/-- The same where the instruction also changes the state, to `s1`. -/
def State.finishIn (s s1 : State) (t : Strand) (o : Op) (f : Strand → Strand) (g : Go) : State :=
  s1.retire s.cur o.h (f ((t.atIssue o.h).consumed o.srcs)) g (o.h.after o.len)

/-- An instruction completes in line: the next state holds the strand `t'` in its context, at the next instruction, not held. -/
def State.completes (s : State) (i : Instr) (t : Strand) (o : Op) (s' : State) (t' : Strand) : Prop :=
  exec i s = .next s' ∧ s'.strand s.cur = some t' ∧ t'.pc = t.pc + BitVec.ofNat 64 (o.h.after o.len) ∧ t'.hold = none

/-! ### What accesses see -/

/-- Nothing of a strand on a unit is on its way, no load of it is still to be performed, and it holds no failure: a release at any
scope need not wait (R228, R269, R283). -/
def State.calmAt (s : State) (u : UnitRef) (t : Strand) : Bool :=
  !s.strandBusy u t.sid && !s.awayBusy t.sid && !t.loading && !(s.invs.any fun v => v.sids.contains t.sid || sigHit t.wsig v.line) && t.unack == 0 &&
    !t.matrixLive && t.fail.isNone

/-- The same of the strand that issues. -/
def State.calm (s : State) (t : Strand) : Bool := s.calmAt s.cur.unit t

/-- D takes the value `v` as a long-latency result: it is outstanding with the loads `todo` still to be performed, and D waits for it
(R119, R120). -/
def Strand.owed (t : Strand) (d : Fin 32) (v : Word) (todo : List DLoad) : Prop :=
  ∃ l ∈ t.lates, l.val = .s v ∧ l.flags = 0 ∧ l.todo = todo ∧ (t.sreg d).late = some l.id ∧ (t.sreg d).pend = true

/-- D takes the value `v` as a long-latency result of which nothing has still to be performed; g0 takes none. -/
def Strand.waitsFor (t : Strand) (d : Fin 32) (v : Word) : Prop := d.val = 0 ∨ t.owed d v []

/-- D takes what the load `x` returns as a long-latency result: `v` where it has been performed, and otherwise what it returns when it
is performed, which may be any time until the result is written (R267). -/
def Strand.waitsForLoad (t : Strand) (d : Fin 32) (v : Word) (x : DLoad) : Prop := d.val = 0 ∨ t.owed d v [] ∨ t.owed d v [x]

/-- A loaded value as D takes it: the low n bytes, sign- or zero-extended (R226). -/
def extended (n : Nat) (sx : Bool) (v : Nat) : Word :=
  if sx then (BitVec.ofNat (8 * n) v).signExtend 64 else BitVec.ofNat 64 (v % 2 ^ (8 * n))

/-- Byte j of a number. -/
def byteOf (v j : Nat) : Byte := BitVec.ofNat 8 (v / 256 ^ j)

/-- The bytes of a line of device memory as a unit's stores leave them: the youngest buffered byte, else memory's (R200). -/
def State.seenLine (s : State) (u : UnitRef) (line : Nat) : LineData := sbOver (s.unit u).sb line (s.lineData line)

/-- One byte of device memory as a unit's own stores leave it. -/
def State.sees (s : State) (u : UnitRef) (a : Nat) : Byte := (s.seenLine u (lineOf a)).extractLsb' (8 * (a % 128)) 8

/-- One byte of a unit's scratchpad. -/
def State.spByte (s : State) (u : UnitRef) (a : Nat) : Byte := (s.unit u).sp.read a

/-- A line that a request of partition p finds in the L2, unpoisoned, with no live reduction slot and with no half at the host, on a
die that works (R204, R244, R285, R334). -/
def State.plainLine (s : State) (p line : Nat) : Bool :=
  (s.line line).owner == some p && !(s.line line).poison && !s.hasSlots line && !s.hostHas line fullMask &&
    !(s.die (homeDie line)).failed

/-- No replica of a line is on another die, and no invalidation of one is on its way (R206). -/
def State.uncopied (s : State) (line : Nat) : Bool := (NMap.getD s.dir line []).isEmpty && !(s.invs.any fun v => v.line == line)

/-- A line of partition p that the device can read and write at its home at once, and whose write needs no collapse. -/
def State.readyLine (s : State) (p line : Nat) : Bool := s.plainLine p line && !s.pushHeld line && s.uncopied line

/-- Nothing waits at the home of a line, no load of the strand from it is still to be performed, and no store of the unit to it is
buffered. -/
def State.quietLine (s : State) (u : UnitRef) (t : Strand) (line : Nat) : Bool :=
  !s.pushHeld line && !t.loadingAt false (128 * line) 128 && !(s.homeReqs.any fun r => r.2.sid == t.sid && lineOf r.2.pa == line) &&
    !((s.unit u).sb.any fun e => e.line == line)

/-- The unit whose scratchpad a strand calls its own. -/
def State.homeUnit (s : State) (t : Strand) : UnitRef := (homeOf s.cur t).unit

/-- The effective address of an access (R225). -/
def Strand.address (t : Strand) (x : Addr) : Word :=
  t.rdS x.a.r + (match x.b with | .reg r => t.rdS r.r | .imm v => v.signExtend 64)

/-- Memory's byte `b` at an address once the bit of the page of `pa` in partition p's dirty bitmap is set (R354). -/
def State.withBit (s : State) (p pa a : Nat) (b : Byte) : Byte :=
  if p < 64 ∧ a = s.dirtyByte p pa ∧ paKind a = .mem then b ||| BitVec.ofNat 8 (2 ^ (dirtyBit pa % 8)) else b

/-- The byte of partition p's dirty bitmap that a write to the page of `pa` sets a bit of lies off a line (R354). -/
def State.bitOff (s : State) (p pa line : Nat) : Bool := lineOf (s.dirtyByte p pa) != line

/-- D waits for what an atomic or ADEC returns, or g0 for nothing: `v` as it was when it issued, with `todo` still to be performed (R238,
R267). -/
def Strand.issued (t : Strand) (d : Fin 32) (v : Word) (todo : List DLoad) : Prop :=
  if d.val = 0 then ∃ l ∈ t.lates, l.val = .none ∧ l.flags = 0 ∧ l.todo = todo else t.owed d v todo

/-- A strand's trap can migrate at once (R319): it is in no handler window, nothing of it is outstanding, it has one window and no
record resident, no guest slot of its tile is taken and no trap waits for one; and `pa`, where its trap record goes, is on a line of
its partition in the L2, behind which no push waits, and which holds no bit of its own page (R354). -/
def State.canMigrate (s : State) (c : CtxRef) (t : Strand) (l : Leaf) (pa : Nat) : Prop :=
  s.memWf ∧ s.calmAt c.unit t ∧ t.handler = none ∧ t.lates = [] ∧ t.wins.length ≤ 1 ∧ t.recs = [] ∧ t.home = none ∧ t.gslot = none ∧
    (isKp c.unit = true → c.ctx < 4) ∧ (∀ e ∈ (s.unit (.kp (utile c.unit))).strands, e.1 < 4) ∧ (∀ e ∈ s.allStrands, e.2.gslot = none) ∧
    (∀ e ∈ s.allStrands, e.1 ≠ c → e.2.hold ≠ some .guest) ∧ uref (ukey c.unit) = c.unit ∧
    s.zeroPlace (who c t) (s.storeBase c t + 0xFFC0) .write = .ok (l, pa) ∧ paKind pa = .mem ∧ pa % 64 = 0 ∧ (s.unit c.unit).sb = [] ∧
    s.plainLine t.part (lineOf pa) ∧ s.bitOff t.part pa (lineOf pa) ∧ s.pushHeld (lineOf pa) = false

/-! ### Arithmetic, in the terms of R157, R165–R168 and R172–R174: exact rational numbers, and the values that codes have -/

/-- The rational number that a finite value is (R157). -/
def FV.rat : FV → Rat
  | .fin n m e => (if n then -1 else 1) * (m : Rat) * 2 ^ e
  | _ => 0

/-- A finite value. -/
def FV.isFin : FV → Bool
  | .fin .. => true
  | _ => false

/-- One value is below another, neither of them a NaN (R178, R179). -/
def FV.below (x y : FV) : Prop :=
  match x, y with
  | .inf n, .inf k => n = true ∧ k = false
  | .inf n, _ => n = true
  | _, .inf k => k = false
  | x, y => x.rat < y.rat

/-- A code of a format whose value is finite. -/
def Fmt.isCode (f : Fmt) (c : Nat) : Prop := c < 2 ^ f.width ∧ (f.value c).isFin = true

/-- The number that a code stands for. -/
def Fmt.num (f : Fmt) (c : Nat) : Rat := (f.value c).rat

/-- The largest finite value of a format, and its distance from the one below it: the spacing of the grid that goes on past it (R165). -/
def Fmt.top (f : Fmt) : Rat := f.num f.maxCode
def Fmt.gap (f : Fmt) : Rat := f.top - f.num (f.maxCode - 1)

/-- A number overflows when it is rounded (R165). -/
def Fmt.overflows (f : Fmt) (m : Rnd) (x : Rat) : Prop :=
  match m with
  | .rne => f.top + f.gap / 2 < x.abs ∨ (x.abs = f.top + f.gap / 2 ∧ f.maxCode % 2 = 1)
  | .rtz => f.top + f.gap ≤ x.abs
  | .rdn => if x < 0 then f.top < x.abs else f.top + f.gap ≤ x.abs
  | .rup => if x < 0 then f.top + f.gap ≤ x.abs else f.top < x.abs

/-- A code is the neighbour of a number that the mode chooses among the finite values (R165). -/
def Fmt.nearest (f : Fmt) (m : Rnd) (x : Rat) (c : Nat) : Prop :=
  let v := f.num c
  match m with
  | .rne => ∀ d, f.isCode d → (v - x).abs ≤ (f.num d - x).abs ∧ ((v - x).abs = (f.num d - x).abs → f.num d = v ∨ c % 2 = 0)
  | .rtz => v.abs ≤ x.abs ∧ ∀ d, f.isCode d → (f.num d).abs ≤ x.abs → (f.num d).abs ≤ v.abs
  | .rdn => v ≤ x ∧ ∀ d, f.isCode d → f.num d ≤ x → f.num d ≤ v
  | .rup => x ≤ v ∧ ∀ d, f.isCode d → x ≤ f.num d → v ≤ f.num d

/-- A number that is tiny: below the smallest normal value b after rounding with no bound on the exponent, where the values just below b lie
2^(−bias − fw) apart (R166). -/
def Fmt.isTiny (f : Fmt) (m : Rnd) (x : Rat) : Prop :=
  let b : Rat := 2 ^ (1 - f.bias : Int)
  let d : Rat := 2 ^ (-(f.bias + f.fw : Nat) : Int)
  match m with
  | .rne => x.abs < b - d / 2
  | .rtz => x.abs < b
  | .rdn => if x < 0 then x.abs ≤ b - d else x.abs < b
  | .rup => if x < 0 then x.abs < b else x.abs ≤ b - d

/-- A result is the number x ≠ 0, of sign `neg`, rounded once to a format (R165–R167, R169): an overflow gives what the table of R165 and
R167 say, with OVF and INX; otherwise the mode's neighbour, with INX where it is not x, and UNF where x is tiny besides. -/
def Fmt.roundsTo (f : Fmt) (m : Rnd) (sat neg : Bool) (x : Rat) (r : FRes) : Prop :=
  (f.overflows m x → r.flags = fOvf ||| fInx ∧ r.bits =
    (if sat = true ∨ m = .rtz ∨ (m = .rdn ∧ neg = false) ∨ (m = .rup ∧ neg = true) then f.largest neg
    else if f.hasInf then f.inf neg else f.defNan)) ∧
  (¬ f.overflows m x → f.isCode r.bits ∧ (f.value r.bits).neg = neg ∧ f.nearest m x r.bits ∧
    (r.flags.getLsbD 0 = true ↔ f.num r.bits ≠ x) ∧ (r.flags.getLsbD 1 = true ↔ f.isTiny m x ∧ f.num r.bits ≠ x) ∧ r.flags.toNat < 4)

/-- An integer is a number rounded by a mode (R168). -/
def roundsToInt (m : Rnd) (x : Rat) (q : Int) : Prop :=
  let down : Prop := (q : Rat) ≤ x ∧ x < q + 1
  let up : Prop := x ≤ q ∧ (q : Rat) - 1 < x
  match m with
  | .rne => (q - x).abs ≤ 1 / 2 ∧ ((q - x).abs = 1 / 2 → q % 2 = 0)
  | .rtz => if x < 0 then up else down
  | .rdn => down
  | .rup => up

/-- The pairwise tree of R173 over 2^n lanes, whose flags are those of every operation. -/
def pairwise (op : Nat → Nat → FRes) : Nat → (Nat → FRes) → FRes
  | 0, x => x 0
  | n + 1, x => pairwise op n fun q =>
    let r := op (x (2 * q)).bits (x (2 * q + 1)).bits
    ⟨r.bits, (x (2 * q)).flags ||| (x (2 * q + 1)).flags ||| r.flags⟩

/-- The exact sum of a group's products (R172). -/
def isGroupSum (ps : List FV) (s : FV) : Prop :=
  let bad : Prop := (∃ p ∈ ps, p.isNan = true) ∨ (.inf true ∈ ps ∧ .inf false ∈ ps)
  (bad → s.isNan = true) ∧ (¬ bad → (∀ n, .inf n ∈ ps → s = .inf n) ∧
    ((∀ p ∈ ps, p.isFin = true) → s.isFin = true ∧ s.rat = (ps.map FV.rat).sum ∧ (s.rat = 0 → (s.neg = true ↔ ∀ p ∈ ps, p.rat = 0 ∧ p.neg = true))))

/-- An F32 accumulator element after one group: acc + s under RNE (R171, R172). -/
def isAccStep (acc : Nat) (s : FV) (r : Nat) : Prop :=
  let x := Fmt.f32.value acc
  let bad : Prop := x.isNan = true ∨ s.isNan = true ∨ ∃ n, x = .inf n ∧ s = .inf (!n)
  (bad → r = 0x7FC0_0000) ∧ (¬ bad → (∀ n, x = .inf n ∨ s = .inf n → r = Fmt.f32.inf n) ∧
    (x.isFin = true → s.isFin = true →
      (x.rat + s.rat = 0 → r = if x.rat = 0 ∧ x.neg = true ∧ s.neg = true then 0x8000_0000 else 0) ∧
      (x.rat + s.rat ≠ 0 → ∃ fl, Fmt.f32.roundsTo .rne false (decide (x.rat + s.rat < 0)) (x.rat + s.rat) ⟨r, fl⟩)))

/-- The exact product of two values (R171, R172). -/
def isProduct (x y p : FV) : Prop :=
  let bad : Prop := x.isNan = true ∨ y.isNan = true ∨ (x.isInf = true ∧ y.isZero = true) ∨ (x.isZero = true ∧ y.isInf = true)
  (bad → p.isNan = true) ∧ (¬ bad → p.neg = (x.neg != y.neg) ∧ (x.isInf = true ∨ y.isInf = true → p.isInf = true) ∧
    (x.isFin = true → y.isFin = true → p.isFin = true ∧ p.rat = x.rat * y.rat))

/-- The exact sum of the products of a group of n operand pairs (R172). -/
def isDotGroup (n : Nat) (x y : Nat → FV) (s : FV) : Prop :=
  ∃ p : Nat → FV, (∀ k, k < n → isProduct (x k) (y k) (p k)) ∧ isGroupSum ((List.range n).map p) s

/-- An accumulator element after n groups, the sum of group q meeting `sum q`: one rounded addition for each, in order (R171). -/
def isAccChain (n : Nat) (sum : Nat → FV → Prop) (old new : Nat) : Prop :=
  ∃ acc : Nat → Nat, acc 0 = old ∧ acc n = new ∧ ∀ q, q < n → ∃ s, sum q s ∧ isAccStep (acc q) s (acc (q + 1))

/-- An INT8 accumulator element after one group whose sum is `s` (R171): clamped, or wrapped to 32 bits. -/
def intAccStep (sat : Bool) (acc s : Int) : Int :=
  if sat then max (-2 ^ 31) (min (2 ^ 31 - 1) (acc + s)) else (acc + s + 2 ^ 31) % 2 ^ 32 - 2 ^ 31

/-- Element k of row i of a tile whose elements have w bits, each row little-endian and in rising addresses (R251). -/
def tileEl (sp : Memory) (base stride w i k : Nat) : Nat :=
  Memory.readN sp (base + stride * i + w * k / 8) ((w + 7) / 8) / 2 ^ (w * k % 8) % 2 ^ w

/-- The groups of an MMA's output, the operands of each, the bits of an element, and how an element reads (R171, R251). -/
def mmaForm (nx : Bool) : MTy → Nat × Nat × Nat × Fmt
  | .int8 => (8, 8, 8, .f32)
  | .f16 => (8, 4, 16, .f16)
  | .bf16 => (8, 4, 16, .bf16)
  | .f32 => (8, 1, 32, .f32)
  | .e4m3 => (8, 8, 8, .e4m3 nx)
  | .e5m2 => (8, 8, 8, .e5m2)

/-- Row i of what MSTA stores, byte q, from the accumulator's words (R254): for BX4 from the codes of the row's block. -/
def mstaByte (ty : StTy) (sat nx : Bool) (w : Nat → Nat) (codes : List Nat) (q : Nat) : Byte :=
  match ty with
  | .i32 | .f32 => byteOf (w (q / 4)) (q % 4)
  | .bf16 => byteOf (convertF .f32 .bf16 .rne false (w (q / 2))).bits (q % 2)
  | .e4m3 => byteOf (convertF .f32 (.e4m3 nx) .rne sat (w q)).bits 0
  | .bx4 => BitVec.ofNat 8 (codes.getD (2 * q) 0 + 16 * codes.getD (2 * q + 1) 0)

/-- The quantisation of a block of F32 values to BX4 (R174): the scale, the codes, and the flags that VQNT sets. -/
def isQuantBX4 (xs : List Nat) (scale : Nat) (codes : List Nat) (flags : BitVec 5) : Prop :=
  let v (i : Nat) : FV := Fmt.f32.value (xs.getD i 0)
  let code (i : Nat) : Nat := codes.getD i 0
  let n := xs.length
  codes.length = n ∧
  ((∃ i, i < n ∧ (v i).isNan = true) → scale = 0x7FC0_0000 ∧ (∀ i, i < n → code i = 0) ∧
    flags = (if (List.range n).any fun i => (v i).isSig then fInv else 0)) ∧
  ((∀ i, i < n → (v i).isNan = false) → (∃ i, i < n ∧ (v i).isInf = true) → scale = 0x7F80_0000 ∧ flags = fInx ∧
    ∀ i, i < n → code i = (if (v i).neg then 8 else 0) + (if (v i).isInf then 7 else 0)) ∧
  ((∀ i, i < n → (v i).isFin = true ∧ (v i).rat = 0) → scale = 0x3F80_0000 ∧ flags = 0 ∧ ∀ i, i < n → code i = 0) ∧
  ∀ m : Rat, (∀ i, i < n → (v i).isFin = true ∧ (v i).rat.abs ≤ m) → (∃ i, i < n ∧ (v i).rat.abs = m) → m ≠ 0 →
    (∃ r, Fmt.f32.roundsTo .rne false false (m / 6) r ∧ scale = if r.bits = 0 then 1 else r.bits) ∧
    (∀ i, i < n → ((v i).rat = 0 → code i = if (v i).neg then 8 else 0) ∧
      ((v i).rat ≠ 0 → ∃ fl, Fmt.e2m1.roundsTo .rne true (v i).neg ((v i).rat / Fmt.f32.num scale) ⟨code i, fl⟩)) ∧
    flags.toNat < 2 ∧ (flags.getLsbD 0 = true ↔
      Fmt.f32.num scale ≠ m / 6 ∨ ∃ i, i < n ∧ Fmt.e2m1.num (code i) ≠ (v i).rat / Fmt.f32.num scale)

end Sys2Proof.Machine
end

