-- ==== Sys2Proof/Certificates/Slice0/Obligations.lean ====
section
/-! DEFINITION. The statements for the provers. Each holds for every state it names; `State.admits` (Safety.lean) says, on the state
and the operands alone, when the common part of an instruction passes, and `State.finish` is the whole next state of an instruction
that changes nothing but its strand: an equation with it is the frame too. -/
open Sys2Proof Sys2Proof.Machine

/-- Word k of a record at a physical address of device memory (R36). -/
def recordWord (s : State) (pa k : Nat) : Word := BitVec.ofNat 64 (Memory.readN s.mem (pa + 8 * k) 8)

/-- The control word that a push or a YIELD leaves: a LAUNCH of 0 takes the strand's (R37, R147). -/
def launchedCtl (ctl : Word) (launch : Nat) : Word := if ctlLaunch ctl = 0 then ctlWithLaunch ctl launch else ctl

/-- A queue takes one more entry in its place: it is not full, and nothing waits for it elsewhere (R76, R77). -/
def takesEntry (s : State) (q : QueueRef) : Prop :=
  (s.queue q).ring = [] ∧ (s.tile (queueTile q)).holds q = false ∧ (s.queue q).q.length < queueCap q ∧ s.waitsAtHome q = false

/-- An address lies in the spill area of some tile (R77). -/
def inSpill (s : State) (b : Nat) : Prop := ∃ tile, s.spillAt tile ≤ b ∧ b < s.spillAt tile + 2 ^ 24

/-- A record pushed by a strand of partition p in a tile goes to queue q, whatever the bytes that `stays` does not name hold: the mapping
table of R69 lies elsewhere (R40, R75, R76). -/
def routesTo (s : State) (q : QueueRef) (p tile : Nat) (va ctl : Word) (stays : Nat → Prop) : Prop :=
  ∀ m : Memory, (∀ b, stays b → m.read b = s.mem.read b) → ({ s with mem := m } : State).routeOf p tile va ctl = q

/-- The record at `va`, with these words, stands at the end of queue q in state s' (R39, R40, R75, R76). -/
def pushedAt (s s' : State) (q : QueueRef) (va code frame ctl : Word) (part : Nat) (mark : Option RestoreMark) (e : QEntry) : Prop :=
  (s'.queue q).q = (s.queue q).q ++ [e] ∧ e.addr = va ∧ e.code = code ∧ e.frame = frame ∧ e.ctl = ctl ∧ e.launch = ctlLaunch ctl ∧
    e.part = part ∧ e.mark = mark ∧ e.saved = none

/-- One has been taken from the counter of the record at `va`, at pa, for a strand of partition p in a tile, and the record stands at the
end of the queue that R75 and R76 name where the counter is zero now, and only there (R38–R40, R240). No other byte changes but the bit of
the record's page (R354) and, where the entry goes there, a spill area's. -/
def counts (s s' : State) (p tile launch : Nat) (va : Word) (pa : Nat) : Prop :=
  let c : Word := recordWord s pa 0 - 1
  let ctl := launchedCtl (recordWord s pa 3) launch
  let other (b : Nat) : Prop := ¬ (pa ≤ b ∧ b < pa + 8)
  let counted : Prop := recordWord s' pa 0 = c ∧ ∀ b, other b → s'.mem.read b = s.withBit p pa b (s.mem.read b)
  (∀ b, other b → inSpill s b ∨ s'.mem.read b = s.withBit p pa b (s.mem.read b)) ∧
  (c ≠ 0 → counted ∧ (∀ q, s'.queue q = s.queue q) ∧ s'.pushWait = s.pushWait) ∧
  (c = 0 → ∀ q, routesTo s q p tile va ctl (fun b => other b ∧ b ≠ s.dirtyByte p pa) → takesEntry s q → counted ∧
    ∃ e, pushedAt s s' q va (recordWord s pa 1) (recordWord s pa 2) ctl p (NMap.find s.marks (pa / 32)) e)

/-! ### Class 0 -/

/-- R143, R145 (and R113, R148): GATE, NOP and a live-mask word reached as an instruction complete and change nothing but the pc; GRAFT
sets one staged graft, cut at the top of the address space, or clears it with rights 0, and changes only the staged set. -/
def Obligations.NoEffectAndGraft : Prop :=
  (∀ (s : State) (t : Strand) (h : Hd) (bits : BitVec 59),
     (s.admits t (op h 8 []) → exec (.nop h) s = .next (s.finish t (op h 8 []) id .seq) ∧
       exec (.gate h) s = .next (s.finish t (op h 8 []) id .seq)) ∧
     (s.admits t (op ⟨false, none⟩ 8 []) →
       exec (.liveMaskWord bits) s = .next (s.finish t (op ⟨false, none⟩ 8 []) id .seq))) ∧
  (∀ (s : State) (t : Strand) (h : Hd) (d : Fin 4) (a b : SSrc) (r : BitVec 2),
     let o := op h 8 (SSrc.src a ++ SSrc.src b)
     let base := (t.atIssue h).rdS a.r
     let len := min ((t.atIssue h).rdS b.r).toNat (max 0 (2 ^ 55 - (base.toNat : Int))).toNat
     s.admits t o →
       exec (.graft h d a b r) s = .next (s.finish t o
         (fun u => { u with staged := u.staged.set d (if r = 0 then none else some ⟨base, len, r⟩) }) .seq))

/-- R137, R138 (and R135): where the condition holds, BR, BRI and BK go to pc + SExt(offset) × 4, else to pc + length; JMP and JMPR set pc to
the target. They change nothing else. -/
def Obligations.BranchesAndJumps : Prop :=
  (∀ (s : State) (t : Strand) (h : Hd) (c : Cond) (q : BkTest) (a b : SSrc) (ka kb : KSrc) (imm off : BitVec 12) (off32 : BitVec 32),
     let t0 := t.atIssue h
     let near := t.pc + off.signExtend 64 * 4
     let far := t.pc + off32.signExtend 64 * 4
     let go (o : Op) (taken : Bool) (target : Word) : State := s.finish t o id (if taken then .to target else .seq)
     let passes (o : Op) (taken : Bool) (target : Word) : Prop :=
       s.admits t o ∧ s.reaches t (if taken then target else t.pc + BitVec.ofNat 64 (h.after o.len)) ∧ (taken → target.toNat % 4 = 0)
     let cond (x y : Word) : Bool := match c with
       | .eq => decide (x = y) | .ne => decide (x ≠ y) | .lt => decide (x.toInt < y.toInt) | .ge => decide (y.toInt ≤ x.toInt)
       | .ltu => decide (x.toNat < y.toNat) | .geu => decide (y.toNat ≤ x.toNat)
     let test (x y : Word) : Bool := match q with
       | .any => decide (x &&& y ≠ 0) | .all => decide (x &&& y = y) | .none => decide (x &&& y = 0)
     (passes (opJ h 8 (SSrc.src a ++ SSrc.src b)) (cond (t0.rdS a.r) (t0.rdS b.r)) near →
       exec (.br h c a b off) s = .next (go (opJ h 8 (SSrc.src a ++ SSrc.src b)) (cond (t0.rdS a.r) (t0.rdS b.r)) near)) ∧
     (passes (opJ h 12 (SSrc.src a)) (cond (t0.rdS a.r) (imm.signExtend 64)) far →
       exec (.bri h c a imm off32) s = .next (go (opJ h 12 (SSrc.src a)) (cond (t0.rdS a.r) (imm.signExtend 64)) far)) ∧
     (passes (opJ h 8 (KSrc.src ka ++ KSrc.src kb)) (test (t0.rdK ka.r) (t0.rdK kb.r)) near →
       exec (.bk h q ka kb off) s = .next (go (opJ h 8 (KSrc.src ka ++ KSrc.src kb)) (test (t0.rdK ka.r) (t0.rdK kb.r)) near))) ∧
  (∀ (s : State) (t : Strand) (h : Hd) (a : SSrc) (off : BitVec 12) (off32 : BitVec 32),
     (s.admits t (opJ h 12 []) → s.reaches t (t.pc + off32.signExtend 64 * 4) → t.pc.toNat % 4 = 0 →
       exec (.jmp h off32) s = .next (s.finish t (opJ h 12 []) id (.to (t.pc + off32.signExtend 64 * 4)))) ∧
     (let target := (t.atIssue h).rdS a.r + off.signExtend 64
      s.admits t (opJ h 8 (SSrc.src a)) → s.reaches t target → target.toNat % 4 = 0 →
       exec (.jmpr h a off) s = .next (s.finish t (opJ h 8 (SSrc.src a)) id (.to target))))

/-- R123, R136, R139: a call writes the return address to the caller's o7, slides the window (the caller's o become the callee's i,
its l and o are freed), adds one to the depth and goes to the target. Here no ninth window becomes resident.
R140: RET goes to i7; the callee's i become the caller's o, its l and o leave the window, and the depth falls by one. Here the
caller's window is resident. -/
def Obligations.CallsAndReturns : Prop :=
  (∀ (s : State) (t : Strand) (h : Hd) (a : SSrc) (off : BitVec 12) (off32 : BitVec 32),
     let slid (ret : Word) (u : Strand) : Strand :=
       let o := (u.wrS 15 ret).o
       { u with wins := ⟨.replicate 8 .freed, o⟩ :: u.wins, o := .replicate 8 .freed, depth := u.depth + 1 }
     let calls (i : Instr) (o : Op) (target : Word) : Prop :=
       s.admits t o → s.reaches t target → target.toNat % 4 = 0 → t.depth + t.frames.length < 480 → t.wins.length < 8 →
         exec i s = .next (s.finish t o (slid (t.pc + BitVec.ofNat 64 (h.after o.len))) (.to target))
     calls (.call h off32) (opJ h 12 []) (t.pc + off32.signExtend 64 * 4) ∧
       calls (.callr h a off) (opJ h 8 (SSrc.src a)) ((t.atIssue h).rdS a.r + off.signExtend 64)) ∧
  (∀ (s : State) (t : Strand) (h : Hd) (w w' : Window) (ws : List Window),
     let o := opJ h 8 [(.s 31, false)]
     let target := (t.atIssue h).rdS 31
     s.admits t o → t.wins = w :: w' :: ws → t.depth ≠ 0 → t.depth ≠ t.floor → target.toNat % 4 = 0 → s.reaches t target →
       exec (.ret h) s = .next (s.finish t o
         (fun u => { u with wins := (t.atIssue h).wins.tail, o := (t.atIssue h).win.i, depth := u.depth - 1 }) (.to target)))

/-- R141, R142: XCALL and XCALLR to a gate push a crossing record with g1–g7 and the staged grafts, free g1–g7, slide the window,
seal what lies below, make the staged set the active one and name the caller; o7 is not written. The gate's line is read through the die's
L2, and nothing else of the machine changes; nothing at all where that line is found at home on the die. Here g1–g7 are not pending, no
ninth window and no seventeenth record becomes resident, and the target's translation is cached. (That IsGate reads the L2 is log 22's.)
R144: XRET discards the windows of the crossing, makes the caller's window current with the callee's i0–i7 as its o0–o7, restores
g1–g7 and the staged set from the record, pops the record, makes the enclosing crossing's set active, names its caller, and goes to
the record's return address. Here the record and the caller's window are resident. (Where no crossing is left and the strand's launch is not
live, the caller that XRET names is the model's choice, logs 14 and 26: it is the domain that the record names.) -/
def Obligations.DomainCrossings : Prop :=
  (∀ (s : State) (t : Strand) (h : Hd) (a : SSrc) (off : BitVec 12) (off32 : BitVec 32) (l : Leaf),
     let entered (ret : Word) (u : Strand) : Strand := { u with
       recs := ⟨ret, t.dom, t.depth + 1, u.g, u.staged⟩ :: u.recs, g := .replicate 8 .freed
       wins := ⟨.replicate 8 .freed, u.o⟩ :: u.wins, o := .replicate 8 .freed, depth := u.depth + 1
       frames := ⟨u.staged, t.dom, t.depth + 1⟩ :: u.frames, staged := .replicate 4 none, caller := t.dom }
     let calls (i : Instr) (o : Op) (target : Word) : Prop :=
       let read := (s.taken.gateRead s.cur.unit t.part l target).1
       let line := lineOf (leafAddr l target)
       s.admits t o → regionOf target = .paged → s.taken.xlate (udie s.cur.unit) t.part target false t.wfaults = .ok l →
       s.taken.isGate s.cur.unit t.part l target = true → t.depth + t.frames.length < 479 → t.wins.length < 8 → t.recs.length < 16 →
       (∀ r : Fin 32, 1 ≤ r.val → r.val ≤ 7 → (t.atIssue h).pendingReg (.s r) = false) →
         exec i s = .next (s.finishIn read t o (entered (t.pc + BitVec.ofNat 64 (h.after o.len))) (.cross target)) ∧
         (homeDie line = udie s.cur.unit → s.plainLine t.part line → s.invs = [] → read = s.taken)
     calls (.xcall h off32) (opJ h 12 []) (t.pc + off32.signExtend 64 * 4) ∧
       calls (.xcallr h a off) (opJ h 8 (SSrc.src a)) ((t.atIssue h).rdS a.r + off.signExtend 64)) ∧
  (∀ (s : State) (t : Strand) (h : Hd) (x : CrossRec) (rs : List CrossRec) (f : Frame) (fs : List Frame) (w w' : Window) (ws : List Window),
     let o := opJ h 8 []
     s.admits t o → t.recs = x :: rs → t.frames = f :: fs → (∀ k, t.handler = some k → k.cross < t.frames.length) →
     (∀ c ∈ t.cmds, c.cites = some t.frames.length → c.st ≠ .live) → (∀ r ∈ t.reports, r.cites ≠ some t.frames.length) →
     x.base ≤ t.depth → (t.atIssue h).wins.drop (t.depth - x.base) = w :: w' :: ws →
       exec (.xret h) s = .next (s.finish t o (fun u => { u with
         wins := w' :: ws, o := w.i, depth := x.base - 1, g := x.g.map RegCell.settle, staged := x.staged, recs := rs, frames := fs
         spillPend := u.spillPend.filter fun p => p.1 < x.base - 1
         caller := match fs with
           | f :: _ => f.grantor
           | [] => match s.launch t.launch with
             | some l => l.edom
             | none => x.dom }) (.cross x.ret)))

/-- R46, R146, R323: ENDS frees the context, drops the deposits that wait for the strand, and gives its write signature to its launch;
from a handler window the launch's count of ended strands rises by one. Here nothing of the strand is on its way and it holds no
capsule. -/
def Obligations.EndsFreesTheContext : Prop :=
  ∀ (s : State) (t : Strand) (h : Hd),
    s.admits t (opJ h 8 []) → s.calm t → t.cap = none → ∃ s', exec (.ends h) s = .next s' ∧ s'.strand s.cur = none ∧
      waiting (s'.unit (s.homeUnit t)) t.sid = [] ∧ (∀ a, s'.mem.read a = s.mem.read a) ∧
      (∀ c, (ukey c.unit ≠ ukey s.cur.unit ∨ c.ctx ≠ s.cur.ctx) → s'.strand c = s.strand c) ∧
      (∀ l, s.launch t.launch = some l → ∃ l', s'.launch t.launch = some l' ∧ l'.csig = l.csig ||| t.wsig) ∧
      (NMap.getD s'.lstat t.launch ⟨0, 0⟩).ended =
        (if t.handler.isSome then min ((NMap.getD s.lstat t.launch ⟨0, 0⟩).ended + 1) (2 ^ 32 - 1)
        else (NMap.getD s.lstat t.launch ⟨0, 0⟩).ended)

/-- R147, R330, R331: YIELD with an empty live mask saves the strand's header at the record's frame and nothing else there, writes the
code pointer and, where LAUNCH is 0, the strand's launch into the record's control word, and adds its count to the record's counter. It
pushes the record when the sum is zero, and only then: its words, with the restore mark, stand at the end of the queue that R75 and R76
name; otherwise the record carries the mark. The context is free, and the deposits that wait for the strand go. Here the strand may yield,
nothing of it is on its way, the core's store buffer is empty, and the record and its frame lie on lines of the partition in the L2, which
hold no bit of their own pages in the dirty bitmap; the form with S = 1 and a non-empty live mask is not stated. (That the save goes with
the rights of domain 0, that the record is checked as ADEC checks it, and that the mark holds the strand's numbers, are log 23's; that the mark
keeps the poison of its registers is log 49's.) -/
def Obligations.YieldSuspends : Prop :=
  ∀ (s : State) (t : Strand) (w : Bool) (a : SSrc) (b : SB) (l lf : Leaf) (pa pf : Nat),
    let h : Hd := ⟨w, none⟩
    let o := opJ h 8 (SSrc.src a ++ SB.src b)
    let t0 := t.atIssue h
    let left := t0.consumed o.srcs
    let va := t0.rdS a.r
    let frame := recordWord s pa 2
    let ctl := launchedCtl (recordWord s pa 3) t.launch
    let ret := t.pc + BitVec.ofNat 64 8
    let count : Word := recordWord s pa 0 + (match b with | .reg r => t0.rdS r.r | .imm v => v.signExtend 64)
    let after (r : Nat) : Byte := s.withBit t.part pf r (s.withBit t.part pa r (s.mem.read r))
    let apart (x : Nat) : Prop := s.bitOff t.part x (lineOf pa) ∧ s.bitOff t.part x (lineOf pf) ∧ s.bitOff t.part x (lineOf pf + 1)
    s.memWf → s.admits t o → t.kind ≠ .service → t.depth = 0 → t.frames = [] → t.cap = none → s.calm t → t.lates = [] → t.cmdBusy = false →
    t.res = none → s.taken.check (who s.cur t) va 32 32 .both .adec = .ok (.mem l pa) → paKind pa = .mem → pa % 32 = 0 →
    s.taken.zeroPlace (who s.cur t) frame .write = .ok (lf, pf) → frame.toNat % 256 = 0 → pf % 256 = 0 → paKind pf = .mem →
    (s.unit s.cur.unit).sb = [] → s.readyLine t.part (lineOf pa) → s.readyLine t.part (lineOf pf) → s.readyLine t.part (lineOf pf + 1) →
    lineOf pa ≠ lineOf pf → lineOf pa ≠ lineOf pf + 1 → apart pa → apart pf →
      ∃ (s' : State) (mark : RestoreMark), exec (.yield h a b) s = .next s' ∧ mark.born = t.born ∧ mark.sid = t.sid ∧
        s'.unacked = s.unacked ∧ mark.mail = [] ∧ mark.deps = [] ∧
        (∀ n : Fin 32, (n.val ≠ 0 → mark.spois.getLsbD n.val = (left.sreg n).poison) ∧ mark.vpois.getLsbD n.val = (left.vreg n).poison) ∧
        (∀ n : Fin 8, mark.kpois.getLsbD n.val = (left.k[n]).poison) ∧ s'.strand s.cur = none ∧ waiting (s'.unit s.cur.unit) t.sid = [] ∧
        let at_ (k : Nat) : Word := recordWord s' pf k
        let other (r : Nat) : Prop := ¬ (pa ≤ r ∧ r < pa + 32) ∧ ¬ (pf ≤ r ∧ r < pf + 256)
        let still (r : Nat) : Prop := other r ∧ r ≠ s.dirtyByte t.part pa ∧ r ≠ s.dirtyByte t.part pf
        let saved : Prop := (recordWord s' pa 0 = count ∧ recordWord s' pa 1 = ret ∧ recordWord s' pa 2 = frame ∧ recordWord s' pa 3 = ctl ∧
          at_ 0 = 3 ∧ at_ 1 = ret ∧
          at_ 2 = BitVec.ofNat 64 (t.nx.toNat + 2 * t.fflags.toNat + 64 * t.strict.toNat + 256 * (t.store % 32)) ∧
          at_ 3 = BitVec.ofNat 64 t.vtime ∧
          (∀ n : Fin 32, (at_ 4).getLsbD n.val = (decide (n.val ≠ 0) && (left.sreg n).pend) ∧ (at_ 4).getLsbD (32 + n.val) = (left.vreg n).pend) ∧
          (at_ 5).toNat % 128 = 0 ∧ (∀ m : Fin 8, (at_ 5).getLsbD (8 + m.val) = left.mail[m].isSome) ∧ (at_ 5).toNat / 2 ^ 16 = t.caller.toNat ∧
          (∀ n : Fin 32, (at_ 6).getLsbD n.val = (decide (n.val ≠ 0) && (left.sreg n).val.isNone) ∧
            (at_ 6).getLsbD (32 + n.val) = (left.vreg n).val.isNone) ∧
          (∀ n : Fin 8, (at_ 7).getLsbD n.val = (decide (n.val ≠ 0) && (left.k[n]).val.isNone)) ∧ (at_ 7).toNat < 256 ∧
          (∀ k, 8 ≤ k → k < 32 → at_ k = 0) ∧ ∀ r, other r → s'.mem.read r = after r)
        (∀ r, other r → inSpill s r ∨ s'.mem.read r = after r) ∧
        (count ≠ 0 → saved ∧ (∀ r, s'.queue r = s.queue r) ∧ s'.pushWait = s.pushWait ∧ NMap.find s'.marks (pa / 32) = some mark) ∧
        (count = 0 → NMap.find s'.marks (pa / 32) = none ∧ ∀ q, routesTo s q t.part (utile s.cur.unit) va ctl still → takesEntry s q →
          saved ∧ ∃ e, pushedAt s s' q va ret frame ctl t.part (some mark) e)

/-- R148, R317–R321: TRAP, SVC and BKPT take their trap at their own address: the strand leaves its context for the lowest guest slot of
its tile's kingpost (a kingpost's own context keeps its place), its handler window lies above its own with the cause in l0 and the
address of the trap record in l1, pc is TRAPBASE + 256 × cause, and the record holds cause, pc, next pc and SExt(IMM12). No other byte of
memory changes but for the bit of the record's page in the dirty bitmap (R354). -/
def Obligations.DeliberateTrapsEnterTheHandler : Prop :=
  ∀ (s : State) (t : Strand) (h : Hd) (imm : BitVec 12) (l : Leaf) (pa : Nat),
    let tile := utile s.cur.unit
    let va := s.storeBase s.cur t + 0xFFC0
    let goes (i : Instr) (cause : Nat) : Prop := s.admits t (opJ h 8 []) → s.canMigrate s.cur t l pa →
        ∃ s' t', exec i s = .next s' ∧ s'.strand (if isKp s.cur.unit then s.cur else ⟨.kp tile, 4⟩) = some t' ∧
          (isKp s.cur.unit = false → s'.strand s.cur = none ∧ t'.home = some s.cur) ∧
          t'.pc = (s.tile tile).trapbase + BitVec.ofNat 64 (256 * cause) ∧ t'.depth = t.depth + 1 ∧ t'.rdS 16 = BitVec.ofNat 64 cause ∧
          t'.rdS 17 = va ∧ t'.sid = t.sid ∧ t'.handler.isSome = true ∧
          Memory.readN s'.mem pa 1 = cause ∧ BitVec.ofNat 64 (Memory.readN s'.mem (pa + 8) 8) = t.pc ∧
          BitVec.ofNat 64 (Memory.readN s'.mem (pa + 16) 8) = t.pc + BitVec.ofNat 64 (h.after 8) ∧
          BitVec.ofNat 64 (Memory.readN s'.mem (pa + 40) 8) = imm.signExtend 64 ∧
          (∀ q, ¬ (pa ≤ q ∧ q < pa + 64) → s'.mem.read q = s.withBit t.part pa q (s.mem.read q))
    goes (.trap h imm) 0x10 ∧ goes (.svc h imm) 0x11 ∧ goes (.bkpt h imm) 0x12

/-! ### Class 1 -/

/-- The w-bit form of R150: `f` acts on the low w bits, w = 32 or 64, and its result is sign-extended. -/
def intForm (f : (w : Nat) → BitVec w → BitVec w → BitVec w) (w32 : Bool) (a b : Word) : Word :=
  if w32 then (f 32 (a.setWidth 32) (b.setWidth 32)).signExtend 64 else f 64 a b

/-- R150–R152: the two-operand instructions of class 1 write F(a, b, w), w = 32 or 64 bits, sign-extended, to D, and change nothing
else. Here F is written over bit vectors from the table of R150 and from R151. -/
def Obligations.IntegerTwoOperands : Prop :=
  ∀ (s : State) (t : Strand) (h : Hd) (w32 : Bool) (d : IDst) (a : ISrc) (b : IB) (c : Cond),
    let o := op h 8 (ISrc.src a ++ IB.src b)
    let x := (t.atIssue h).gI a
    let y := match b with
      | .reg r => (t.atIssue h).gI r
      | .imm v => v.signExtend 64
    let gives (i : Instr) (f : (w : Nat) → BitVec w → BitVec w → BitVec w) : Prop :=
      exec i s = .next (s.finish t o (fun u => u.wI d (intForm f w32 x y)) .seq)
    s.admits t o →
      gives (.add h w32 d a b) (fun _ x y => x + y) ∧ gives (.sub h w32 d a b) (fun _ x y => x - y) ∧
      gives (.mul h w32 d a b) (fun _ x y => x * y) ∧
      gives (.mulh h w32 d a b) (fun w x y => ((x.signExtend (2 * w) * y.signExtend (2 * w)).sshiftRight w).setWidth w) ∧
      gives (.mulhu h w32 d a b) (fun w x y => ((x.setWidth (2 * w) * y.setWidth (2 * w)) >>> w).setWidth w) ∧
      gives (.div h w32 d a b) (fun w x y => if y = 0 then BitVec.allOnes w else x.sdiv y) ∧
      gives (.divu h w32 d a b) (fun w x y => if y = 0 then BitVec.allOnes w else x.udiv y) ∧
      gives (.rem h w32 d a b) (fun _ x y => if y = 0 then x else x.srem y) ∧
      gives (.remu h w32 d a b) (fun _ x y => if y = 0 then x else x.umod y) ∧
      gives (.and h w32 d a b) (fun _ x y => x &&& y) ∧ gives (.or h w32 d a b) (fun _ x y => x ||| y) ∧
      gives (.xor h w32 d a b) (fun _ x y => x ^^^ y) ∧ gives (.andn h w32 d a b) (fun _ x y => x &&& ~~~y) ∧
      gives (.shl h w32 d a b) (fun w x y => x <<< (y.toNat % w)) ∧ gives (.shr h w32 d a b) (fun w x y => x >>> (y.toNat % w)) ∧
      gives (.sar h w32 d a b) (fun w x y => x.sshiftRight (y.toNat % w)) ∧
      gives (.rol h w32 d a b) (fun w x y => x.rotateLeft (y.toNat % w)) ∧
      gives (.min h w32 d a b) (fun _ x y => if x.sle y then x else y) ∧ gives (.max h w32 d a b) (fun _ x y => if x.sle y then y else x) ∧
      gives (.minu h w32 d a b) (fun _ x y => if x.ule y then x else y) ∧
      gives (.maxu h w32 d a b) (fun _ x y => if x.ule y then y else x) ∧
      gives (.set h c w32 d a b) (fun w x y => BitVec.ofBool (match c with
        | .eq => x == y | .ne => x != y | .lt => x.slt y | .ge => !x.slt y | .ltu => x.ult y | .geu => !x.ult y) |>.setWidth w) ∧
      gives (.extu h w32 d a b) (fun w x y =>
        let p := y.toNat % 64
        BitVec.ofNat w (x.toNat / 2 ^ p % 2 ^ min (y.toNat / 64 % 64 + 1) (w - p))) ∧
      gives (.ext h w32 d a b) (fun w x y =>
        let p := y.toNat % 64
        ((x.extractLsb' p (min (y.toNat / 64 % 64 + 1) (w - p))).signExtend w))

/-- R150, R152–R154: the other forms of class 1: counts of zeros and ones, byte reversal, SEL, INS, LEA and LI. -/
def Obligations.IntegerOtherForms : Prop :=
  ∀ (s : State) (t : Strand) (h : Hd) (w32 : Bool) (d : IDst) (a : ISrc) (a2 : ISrc) (b : IB) (c : SSrc) (sh : BitVec 3)
    (v : BitVec 32) (v64 : BitVec 64),
    let o1 := op h 8 (ISrc.src a)
    let o3 := op h 8 (ISrc.src a ++ IB.src b ++ SSrc.src c)
    let t0 := t.atIssue h
    let x := t0.gI a
    let y := match b with
      | .reg r => t0.gI r
      | .imm v => v.signExtend 64
    let z := t0.rdS c.r
    let one (i : Instr) (f : (w : Nat) → BitVec w → BitVec w) : Prop :=
      exec i s = .next (s.finish t o1 (fun u => u.wI d (intForm (fun w x _ => f w x) w32 x 0)) .seq)
    let three (i : Instr) (r : Word) : Prop := exec i s = .next (s.finish t o3 (fun u => u.wI d r) .seq)
    (s.admits t o1 →
      one (.clz h w32 d a) (fun w x => BitVec.ofNat w ((List.range w).takeWhile fun i => !x.getMsbD i).length) ∧
      one (.ctz h w32 d a) (fun w x => BitVec.ofNat w ((List.range w).takeWhile fun i => !x.getLsbD i).length) ∧
      one (.popc h w32 d a) (fun w x => BitVec.ofNat w ((List.range w).countP fun i => x.getLsbD i)) ∧
      one (.bswap h w32 d a) (fun w x =>
        BitVec.ofNat w ((List.range (w / 8)).foldl (fun n i => 256 * n + x.toNat / 256 ^ i % 256) 0))) ∧
    (s.admits t o3 →
      three (.sel h w32 d a b c) (intForm (fun _ x y => if z ≠ 0 then x else y) w32 x y) ∧
      three (.ins h w32 d a b c) (intForm (fun w x y =>
        let p := y.toNat % 64
        let m : BitVec w := BitVec.ofNat w ((2 ^ min (y.toNat / 64 % 64 + 1) (w - p) - 1) * 2 ^ p)
        (z.setWidth w &&& ~~~m) ||| ((x <<< p) &&& m)) w32 x y)) ∧
    (s.admits t (op h 8 (ISrc.src a ++ ISrc.src a2)) →
      exec (.lea h d a a2 sh) s =
        .next (s.finish t (op h 8 (ISrc.src a ++ ISrc.src a2)) (fun u => u.wI d (x + t0.gI a2 <<< sh.toNat)) .seq)) ∧
    (s.admits t (op h 12 []) → exec (.li h d v) s = .next (s.finish t (op h 12 []) (fun u => u.wI d (v.signExtend 64)) .seq)) ∧
    (s.admits t (op h 16 []) → exec (.liX h d v64) s = .next (s.finish t (op h 16 []) (fun u => u.wI d v64) .seq))

/-! ### Class 2 and long-latency results -/

/-- R170, R176–R181: every class-2 instruction but FDIV and FSQRT reads its operands in its format, writes D zero-extended, ORs its
flags into FFLAGS, and changes nothing else. The result is the exact value rounded once (R165–R167), or R168's and R178–R180's (which ResultsAreExactValuesRoundedOnce gives). -/
def Obligations.FloatResults : Prop :=
  ∀ (s : State) (t : Strand) (h : Hd) (f g : FFmt) (m : Rnd) (k : FCond) (iw : IWidth) (uns : Bool) (d : Fin 32) (a b c : SSrc),
    let t0 := t.atIssue h
    let F := fmtOfF f
    let G := fmtOfF g
    let x := (t0.rdS a.r).toNat % 2 ^ F.width
    let y := (t0.rdS b.r).toNat % 2 ^ F.width
    let z := (t0.rdS c.r).toNat % 2 ^ F.width
    let gives (i : Instr) (srcs : Srcs) (r : FRes) : Prop :=
      s.admits t (op h 8 srcs) → exec i s = .next (s.finish t (op h 8 srcs)
        (fun u => { u.wrS d (BitVec.ofNat 64 r.bits) with fflags := u.fflags ||| r.flags }) .seq)
    let one := SSrc.src a
    let two := SSrc.src a ++ SSrc.src b
    let three := SSrc.src a ++ SSrc.src b ++ SSrc.src c
    let exact (v : FV × Bool) : FRes := F.deliver m false v.2 v.1
    let prod := mulV (F.value x) (F.value y)
    let plus (p : FV) : FV × Bool := ((addV m p (F.value z)).1, prod.2 || (addV m p (F.value z)).2)
    gives (.fadd h f m d a b) two (exact (addV m (F.value x) (F.value y))) ∧
    gives (.fsub h f m d a b) two (exact (addV m (F.value x) (F.value y).negate)) ∧
    gives (.fmul h f m d a b) two (exact prod) ∧
    gives (.fma h f m d a b c) three (exact (plus prod.1)) ∧
    gives (.fnms h f m d a b c) three (exact (plus prod.1.negate)) ∧
    gives (.fmin h f d a b) two (F.minmax false x y) ∧ gives (.fmax h f d a b) two (F.minmax true x y) ∧
    gives (.fabs h f d a) one ⟨x % 2 ^ (F.width - 1), 0⟩ ∧
    gives (.fneg h f d a) one ⟨(x ^^^ 2 ^ (F.width - 1)), 0⟩ ∧
    gives (.fset h f k d a b) two ⟨(F.cond k x y).1.toNat, (F.cond k x y).2⟩ ∧
    gives (.fcvt h g m f d a) one (G.deliver m false (F.value x).isSig (F.value x)) ∧
    gives (.ftoi h f m iw d a) one
      ⟨((BitVec.ofNat (iwBits iw) (toIntV m (iwBits iw) (F.value x)).bits).signExtend 64).toNat, (toIntV m (iwBits iw) (F.value x)).flags⟩ ∧
    gives (.itof h f m uns d a) one
      (fromInt F m false (if uns then ((t0.rdS a.r).toNat : Int) else (t0.rdS a.r).toInt))

/-- R180: FCLASS writes a mask with exactly one bit set, that of its operand's class, and sets no flag. -/
def Obligations.FloatClasses : Prop :=
  ∀ (s : State) (t : Strand) (h : Hd) (f : FFmt) (d : Fin 32) (a : SSrc),
    let o := op h 8 (SSrc.src a)
    let F := fmtOfF f
    let x := ((t.atIssue h).rdS a.r).toNat % 2 ^ F.width
    let neg : Bool := decide (2 ^ (F.ew + F.fw) ≤ x)
    let ex := x / 2 ^ F.fw % 2 ^ F.ew
    let fr := x % 2 ^ F.fw
    let cls : Nat :=
      if ex = 2 ^ F.ew - 1 then (if fr = 0 then (if neg then 0 else 7) else if fr < 2 ^ (F.fw - 1) then 8 else 9)
      else if ex = 0 then (if fr = 0 then (if neg then 3 else 4) else if neg then 2 else 5)
      else if neg then 1 else 6
    s.admits t o → exec (.fclass h f d a) s = .next (s.finish t o (fun u => u.wrS d (BitVec.ofNat 64 (2 ^ cls))) .seq)

/-- R157–R160, R162, R165–R169, R178, R179: the arithmetic that the floating-point statements name. A finite value that a format represents
is delivered as itself in every mode and raises no flag (so widening is exact); any other non-zero number is rounded once, as R165–R167
say. Sums and products are exact before that; quotients and roots are rounded from the exact number. Conversions to and from integers,
minimum and maximum, comparisons, and the default NaNs and largest values are those of their rules. -/
def Obligations.ResultsAreExactValuesRoundedOnce : Prop :=
  (∀ (f : Fmt) (m : Rnd) (sat : Bool) (x : Nat), f ∈ [Fmt.f64, .f32, .f16, .bf16, .e4m3 false, .e4m3 true, .e5m2, .e2m1] →
    x < 2 ^ f.width → (f.value x).isNan = false → (f.value x).isInf = false → f.deliver m sat false (f.value x) = ⟨x, 0⟩) ∧
  (∀ (f : Fmt) (m : Rnd) (sat neg inv sig : Bool) (n d : Nat) (e : Int),
    f ∈ [Fmt.f64, .f32, .f16, .bf16, .e4m3 false, .e4m3 true, .e5m2, .e2m1] → (f = .e2m1 → sat = true) → 0 < n → 0 < d →
      f.roundsTo m sat neg ((if neg then -1 else 1) * (n : Rat) / (d : Rat) * 2 ^ e) (f.round m sat neg n d e) ∧
      (let r := f.round m sat neg n 1 e
       f.deliver m sat inv (.fin neg n e) = ⟨r.bits, if inv then r.flags ||| fInv else r.flags⟩) ∧
      f.deliver m sat inv (.fin neg 0 e) = ⟨f.signBit neg, if inv then fInv else 0⟩ ∧
      f.deliver m sat false (.inf neg) = (if sat = true ∨ f.hasInf = false then ⟨f.largest neg, fInx⟩ else ⟨f.inf neg, 0⟩) ∧
      f.deliver m sat inv (.nan sig) = ⟨f.defNan, if inv || sig then fInv else 0⟩) ∧
  ([Fmt.f64, .f32, .f16, .bf16, .e4m3 false, .e4m3 true, .e5m2].map (fun f => (f.defNan, f.maxCode)) =
    [(0x7FF8_0000_0000_0000, 0x7FEF_FFFF_FFFF_FFFF), (0x7FC0_0000, 0x7F7F_FFFF), (0x7E00, 0x7BFF), (0x7FC0, 0x7F7F), (0x7F, 0x7E), (0x7C, 0x77),
      (0x7E, 0x7B)]) ∧
  (∀ (m : Rnd) (x y : FV),
    (x.isFin = true → y.isFin = true →
      ((addV m x y).2 = false ∧ (addV m x y).1.isFin = true ∧ (addV m x y).1.rat = x.rat + y.rat ∧
        (x.rat + y.rat = 0 → (addV m x y).1.neg = if x.rat = 0 ∧ x.neg = y.neg then x.neg else decide (m = .rdn))) ∧
      ((mulV x y).2 = false ∧ (mulV x y).1.isFin = true ∧ (mulV x y).1.rat = x.rat * y.rat ∧ (mulV x y).1.neg = (x.neg != y.neg))) ∧
    (x.isNan = true ∨ y.isNan = true → (addV m x y).1.isNan = true ∧ (addV m x y).2 = (x.isSig || y.isSig) ∧
      (mulV x y).1.isNan = true ∧ (mulV x y).2 = (x.isSig || y.isSig)) ∧
    (∀ n, x = .inf n →
      (y = .inf (!n) → (addV m x y).1.isNan = true ∧ (addV m x y).2 = true) ∧
      (y = .inf n ∨ y.isFin = true → addV m x y = (.inf n, false)) ∧
      (y.isFin = true → addV m y x = (.inf n, false) ∧
        (y.rat = 0 → (mulV x y).1.isNan = true ∧ (mulV x y).2 = true ∧ (mulV y x).1.isNan = true ∧ (mulV y x).2 = true)) ∧
      (y.isInf = true ∨ (y.isFin = true ∧ y.rat ≠ 0) → mulV x y = (.inf (n != y.neg), false) ∧ mulV y x = (.inf (n != y.neg), false)))) ∧
  (∀ (f : Fmt) (m : Rnd) (a b : Nat), f ∈ [Fmt.f64, .f32, .f16, .bf16] → a < 2 ^ f.width → b < 2 ^ f.width →
    let x := f.value a
    let y := f.value b
    let inv : BitVec 5 := if x.isSig || y.isSig then fInv else 0
    let r := f.sqrt m a
    let v := f.num r.bits
    (x.isFin = true → y.isFin = true →
      (x.rat ≠ 0 → y.rat ≠ 0 → f.roundsTo m false (x.neg != y.neg) (x.rat / y.rat) (f.div m a b)) ∧
      (x.rat ≠ 0 → y.rat = 0 → f.div m a b = ⟨f.inf (x.neg != y.neg), fDz⟩) ∧ (x.rat = 0 → y.rat = 0 → f.div m a b = ⟨f.defNan, fInv⟩) ∧
      (x.rat = 0 → y.rat ≠ 0 → f.div m a b = ⟨f.signBit (x.neg != y.neg), 0⟩)) ∧
    (x.isInf = true → (y.isInf = true → f.div m a b = ⟨f.defNan, fInv⟩) ∧ (y.isFin = true → f.div m a b = ⟨f.inf (x.neg != y.neg), 0⟩)) ∧
    (x.isFin = true → y.isInf = true → f.div m a b = ⟨f.signBit (x.neg != y.neg), 0⟩) ∧
    (x.isNan = true ∨ y.isNan = true → f.div m a b = ⟨f.defNan, inv⟩) ∧
    (x.isFin = true → 0 < x.rat → f.isCode r.bits ∧ (f.value r.bits).neg = false ∧ r.flags = (if v * v = x.rat then 0 else fInx) ∧
      match m with
      | .rne => ∀ d, f.isCode d → 0 ≤ f.num d → (f.num d < v → ((v + f.num d) / 2) * ((v + f.num d) / 2) ≤ x.rat) ∧
          (v < f.num d → x.rat ≤ ((v + f.num d) / 2) * ((v + f.num d) / 2))
      | .rup => x.rat ≤ v * v ∧ ∀ d, f.isCode d → 0 ≤ f.num d → x.rat ≤ f.num d * f.num d → v ≤ f.num d
      | _ => v * v ≤ x.rat ∧ ∀ d, f.isCode d → 0 ≤ f.num d → f.num d * f.num d ≤ x.rat → f.num d ≤ v) ∧
    (x.isFin = true → (x.rat = 0 → r = ⟨f.signBit x.neg, 0⟩) ∧ (x.rat < 0 → r = ⟨f.defNan, fInv⟩)) ∧
    (x = .inf false → r = ⟨f.inf false, 0⟩) ∧ (x = .inf true → r = ⟨f.defNan, fInv⟩) ∧
    (x.isNan = true → r = ⟨f.defNan, if x.isSig then fInv else 0⟩)) ∧
  (∀ (f : Fmt) (big : Bool) (a b : Nat) (c : FCond), f ∈ [Fmt.f64, .f32, .f16, .bf16, .e4m3 false, .e4m3 true, .e5m2] →
    a < 2 ^ f.width → b < 2 ^ f.width →
    let x := f.value a
    let y := f.value b
    let inv : BitVec 5 := if x.isSig || y.isSig then fInv else 0
    let r := f.minmax big a b
    r.flags = inv ∧ (x.isNan = true → y.isNan = true → r.bits = f.defNan) ∧ (x.isNan = true → y.isNan = false → r.bits = b) ∧
    (x.isNan = false → y.isNan = true → r.bits = a) ∧
    (x.isNan = false → y.isNan = false →
      (x.below y → r.bits = if big then b else a) ∧ (y.below x → r.bits = if big then a else b) ∧
      (¬ x.below y → ¬ y.below x → (r.bits = a ∨ r.bits = b) ∧ (x.neg ≠ y.neg → (f.value r.bits).neg = !big)) ∧
      ((f.cond c a b).1 = true ↔ match c with
        | .eq => ¬ x.below y ∧ ¬ y.below x | .lt => x.below y | .le => ¬ y.below x | .un => False | .ne => x.below y ∨ y.below x) ∧
      (f.cond c a b).2 = 0) ∧
    (x.isNan = true ∨ y.isNan = true → (f.cond c a b).1 = decide (c = .un ∨ c = .ne) ∧
      (f.cond c a b).2 = if c = .lt ∨ c = .le then fInv else inv)) ∧
  (∀ (m : Rnd) (w : Nat) (x : FV) (q : Int), w ∈ [8, 16, 32, 64] →
    let hi : Int := 2 ^ (w - 1) - 1
    let code (i : Int) : Nat := (BitVec.ofInt w i).toNat
    (x.isFin = true → roundsToInt m x.rat q →
      (hi < q → toIntV m w x = ⟨code hi, fInv⟩) ∧ (q < -hi - 1 → toIntV m w x = ⟨code (-hi - 1), fInv⟩) ∧
      (-hi - 1 ≤ q → q ≤ hi → toIntV m w x = ⟨code q, if (q : Rat) = x.rat then 0 else fInx⟩)) ∧
    toIntV m w (.inf false) = ⟨code hi, fInv⟩ ∧ toIntV m w (.inf true) = ⟨code (-hi - 1), fInv⟩ ∧ (x.isNan = true → toIntV m w x = ⟨0, fInv⟩)) ∧
  (∀ (f : Fmt) (m : Rnd) (sat : Bool) (i : Int), f ∈ [Fmt.f64, .f32, .f16, .bf16, .e4m3 false, .e4m3 true, .e5m2] →
    (i ≠ 0 → f.roundsTo m sat (decide (i < 0)) i (fromInt f m sat i)) ∧ fromInt f m sat 0 = ⟨0, 0⟩)

/-- R119, R120, R194: FDIV and FSQRT, VDIV and VSQRT complete at once; their result is outstanding, D waits for it in the pending
set (g0 takes none), and FFLAGS is as before.
R120, R194: a long-latency result is written into the register that still waits for it, a vector result by its active lanes, its flags
join FFLAGS, and it is no longer outstanding; a register written meanwhile keeps what was written, and a result that no register waits for
any more leaves no flags. (That the result of D = g0 stays outstanding until its flags join FFLAGS is the model's, log 27.) -/
def Obligations.LongLatencyResults : Prop :=
  (∀ (s : State) (t : Strand) (h : Hd) (f : FFmt) (m : Rnd) (d : Fin 32) (a b : SSrc) (e : ETy) (k : Fin 8) (va vb : VSrc),
     let t0 := t.atIssue h
     let F := fmtOfF f
     let x := (t0.rdS a.r).toNat % 2 ^ F.width
     let y := (t0.rdS b.r).toNat % 2 ^ F.width
     let goes (o : Op) (f : Strand → Strand) : State :=
       ({ s.taken with nextId := s.nextId + 1 } : State).retire s.cur h (f (t0.consumed o.srcs)) .seq (h.after o.len)
     let later (i : Instr) (o : Op) (r : FRes) : Prop :=
       s.admits t o → exec i s = .next (goes o fun u =>
         if d.val = 0 then { u with lates := u.lates ++ [⟨s.nextId, .none, r.flags, []⟩] }
         else ({ u with lates := u.lates ++ [⟨s.nextId, .s (BitVec.ofNat 64 r.bits), r.flags, []⟩] } : Strand).setSreg d
           { u.sreg d with pend := true, late := some s.nextId })
     let laterV (i : Instr) (o : Op) (r : Nat → FRes) : Prop :=
       s.admits t o → exec i s = .next (goes o fun u =>
         let u := if k.val = 0 then u else u.wrV d (t0.rdV d)
         ({ u with lates := u.lates ++ [⟨s.nextId, .v (vecOf e.width ((List.range e.lanes).map fun i => (r i).bits)) (t0.rdK k) e.width,
           laneFlags (t0.rdK k) ((List.range e.lanes).map r), []⟩] } : Strand).setVreg d { u.vreg d with pend := true, late := some s.nextId })
     later (.fdiv h f m d a b) (op h 8 (SSrc.src a ++ SSrc.src b)) (F.div m x y) ∧
     later (.fsqrt h f m d a) (op h 8 (SSrc.src a)) (F.sqrt m x) ∧
     (∀ E, fmtOfE t.nx e = some E →
       laterV (.vdiv h e k d va vb) (opW h 8 (VSrc.src va ++ VSrc.src vb ++ mergeSrc k d) d)
         (fun i => E.div .rne (laneGet e.width (t0.rdV va.r) i) (laneGet e.width (t0.rdV vb.r) i)) ∧
       laterV (.vsqrt h e k d va) (opW h 8 (VSrc.src va ++ mergeSrc k d) d) (fun i => E.sqrt .rne (laneGet e.width (t0.rdV va.r) i)))) ∧
  (∀ (s : State) (c : CtxRef) (t : Strand) (l : Late) (v : Word) (x : Vec) (lanes : BitVec 64) (w : Nat) (r : Fin 32),
     s.strand c = some t → t.lates.find? (fun x => x.id == l.id) = some l → l.todo = [] →
       ∃ t', exec (.longResultWriteback c l.id) s = .next (s.setStrand c t') ∧ (∀ y ∈ t'.lates, y.id ≠ l.id) ∧
         (∀ y ∈ t.lates, y.id ≠ l.id → y ∈ t'.lates) ∧
         (l.val = .s v → r.val ≠ 0 →
           ((t.sreg r).late = some l.id → t'.rdS r = v ∧ (t'.sreg r).late = none ∧ t'.fflags = t.fflags ||| l.flags) ∧
           ((t.sreg r).late ≠ some l.id → t'.sreg r = t.sreg r)) ∧
         (l.val = .v x lanes w → w ∈ [8, 16, 32, 64] →
           ((t.vreg r).late = some l.id → (t'.vreg r).late = none ∧ t'.fflags = t.fflags ||| l.flags ∧
             ∀ i, i < 512 / w → laneGet w (t'.rdV r) i = if lanes.getLsbD i then laneGet w x i else laneGet w (t.rdV r) i) ∧
           ((t.vreg r).late ≠ some l.id → t'.vreg r = t.vreg r)) ∧
         (l.val = .none → t' = { t with lates := t'.lates, fflags := t.fflags ||| l.flags }) ∧
         (l.val ≠ .none → (∀ y ∈ t.g.toList ++ t.o.toList, y.late ≠ some l.id) → (∀ y ∈ t.v.toList, y.late ≠ some l.id) →
           (∀ z ∈ t.wins, ∀ y ∈ z.l.toList ++ z.i.toList, y.late ≠ some l.id) → t'.fflags = t.fflags))

/-! ### Class 4 but for memory -/

/-- R182, R184: the lane operations. Active lanes (bit i of the mask register) take the result on the operands' lanes i, integer
results modulo 2^w and floating-point ones rounded to nearest even; inactive lanes keep D's; the active lanes' flags join FFLAGS. -/
def Obligations.VectorLaneOperations : Prop :=
  ∀ (s : State) (t : Strand) (h : Hd) (e : ETy) (k : Fin 8) (u : Bool) (d : Fin 32) (a b c : VSrc) (vb : VB),
    let t0 := t.atIssue h
    let w := e.width
    let x (i : Nat) : Nat := laneGet w (t0.rdV a.r) i
    let y (i : Nat) : Nat := laneGet w (t0.rdV b.r) i
    let z (i : Nat) : Nat := laneGet w (t0.rdV c.r) i
    let n (i : Nat) : Nat := match vb with
      | .reg r => laneGet w (t0.rdV r.r) i
      | .imm v => v.toNat
    let bv (i : Nat) : BitVec w := BitVec.ofNat w i
    let gives (i : Instr) (srcs : Srcs) (r : Nat → FRes) : Prop :=
      s.admits t (opW h 8 (srcs ++ mergeSrc k d) d) → ∃ v : Vec,
        exec i s = .next (s.finish t (opW h 8 (srcs ++ mergeSrc k d) d) (fun u => { u.wrV d v with
          fflags := u.fflags ||| laneFlags (t0.rdK k) ((List.range e.lanes).map r) }) .seq) ∧
        ∀ i, i < e.lanes → laneGet w v i = if (t0.rdK k).getLsbD i then (r i).bits % 2 ^ w else laneGet w (t0.rdV d) i
    let both := VSrc.src a ++ VSrc.src b
    let int (f : BitVec w → BitVec w → BitVec w) (i : Nat) : FRes := ⟨(f (bv (x i)) (bv (y i))).toNat, 0⟩
    let shift (f : BitVec w → Nat → BitVec w) (i : Nat) : FRes := ⟨(f (bv (x i)) (n i % w)).toNat, 0⟩
    (e.isInt = true →
      gives (.vadd h e k d a b) both (int (· + ·)) ∧ gives (.vsub h e k d a b) both (int (· - ·)) ∧
      gives (.vmul h e k d a b) both (int (· * ·)) ∧
      gives (.vfma h e k d a b c) (both ++ VSrc.src c) (fun i => ⟨(bv (x i) * bv (y i) + bv (z i)).toNat, 0⟩) ∧
      gives (.vmin h e k u d a b) both (int fun p q => if (if u then p.ule q else p.sle q) then p else q) ∧
      gives (.vmax h e k u d a b) both (int fun p q => if (if u then p.ule q else p.sle q) then q else p) ∧
      gives (.vabs h e k d a) (VSrc.src a) (fun i => ⟨(if (bv (x i)).msb then -(bv (x i)) else bv (x i)).toNat, 0⟩) ∧
      gives (.vneg h e k d a) (VSrc.src a) (fun i => ⟨(-(bv (x i))).toNat, 0⟩) ∧
      gives (.vand h e k d a b) both (int (· &&& ·)) ∧ gives (.vor h e k d a b) both (int (· ||| ·)) ∧
      gives (.vxor h e k d a b) both (int (· ^^^ ·)) ∧
      gives (.vshl h e k d a vb) (VSrc.src a ++ VB.src vb) (shift fun p n => p <<< n) ∧
      gives (.vshr h e k d a vb) (VSrc.src a ++ VB.src vb) (shift fun p n => p >>> n) ∧
      gives (.vsar h e k d a vb) (VSrc.src a ++ VB.src vb) (shift fun p n => p.sshiftRight n)) ∧
    (∀ F, fmtOfE t.nx e = some F →
      gives (.vadd h e k d a b) both (fun i => F.add .rne (x i) (y i)) ∧
      gives (.vsub h e k d a b) both (fun i => F.sub .rne (x i) (y i)) ∧
      gives (.vmul h e k d a b) both (fun i => F.mul .rne (x i) (y i)) ∧
      gives (.vfma h e k d a b c) (both ++ VSrc.src c) (fun i => F.fma .rne false (x i) (y i) (z i)) ∧
      gives (.vmin h e k u d a b) both (fun i => F.minmax false (x i) (y i)) ∧
      gives (.vmax h e k u d a b) both (fun i => F.minmax true (x i) (y i)) ∧
      gives (.vabs h e k d a) (VSrc.src a) (fun i => ⟨x i % 2 ^ (w - 1), 0⟩) ∧
      gives (.vneg h e k d a) (VSrc.src a) (fun i => ⟨x i ^^^ 2 ^ (w - 1), 0⟩))

/-- R185, R186: compares, selections and moves of lanes, lane by lane. -/
def Obligations.VectorMovesAndCompares : Prop :=
  ∀ (s : State) (t : Strand) (h : Hd) (e : ETy) (k : Fin 8) (q : Cond) (cc : BitVec 3) (d : Fin 32) (kd : Fin 8) (a b : VSrc)
    (c : KSrc) (x : SSrc) (j : SB),
    let t0 := t.atIssue h
    let w := e.width
    let ln (r : Fin 32) (i : Nat) : Nat := laneGet w (t0.rdV r) i
    let on (i : Nat) : Bool := (t0.rdK k).getLsbD i
    let at_ : Nat := (match j with | .reg r => t0.rdS r.r | .imm v => v.signExtend 64).toNat % e.lanes
    let lanes (i : Instr) (srcs : Srcs) (r : Nat → Nat) : Prop :=
      s.admits t (opW h 8 (srcs ++ mergeSrc k d) d) → ∃ v : Vec,
        exec i s = .next (s.finish t (opW h 8 (srcs ++ mergeSrc k d) d) (fun u => u.wrV d v) .seq) ∧
        ∀ i, i < e.lanes → laneGet w v i = if on i then r i else ln d i
    lanes (.vsel h e k d a b c) (VSrc.src a ++ VSrc.src b ++ KSrc.src c)
      (fun i => if (t0.rdK c.r).getLsbD i then ln a.r i else ln b.r i) ∧
    lanes (.vbcast h e k d x) (SSrc.src x) (fun _ => (t0.rdS x.r).toNat % 2 ^ w) ∧
    lanes (.vperm h e k d a b) (VSrc.src a ++ VSrc.src b) (fun i => ln a.r (ln b.r i % e.lanes)) ∧
    lanes (.viota h e k (.v d)) [] (fun i => i % 2 ^ w) ∧
    (s.admits t (op h 8 (msrc k)) → exec (.viota h e k (.k kd)) s =
      .next (s.finish t (op h 8 (msrc k)) (fun u => u.wrK kd (BitVec.ofNat 64 (2 ^ e.lanes - 1))) .seq)) ∧
    (s.admits t (opV h 8 (VSrc.src a ++ SB.src j)) → exec (.vext h e d a j) s =
      .next (s.finish t (opV h 8 (VSrc.src a ++ SB.src j)) (fun u => u.wrS d
        (if e.isInt then (BitVec.ofNat w (ln a.r at_)).signExtend 64 else BitVec.ofNat 64 (ln a.r at_))) .seq)) ∧
    (s.admits t (opW h 8 (SSrc.src x ++ SB.src j ++ [(.v d, false)]) d) → ∃ v : Vec,
      exec (.vins h e d x j) s = .next (s.finish t (opW h 8 (SSrc.src x ++ SB.src j ++ [(.v d, false)]) d) (fun u => u.wrV d v) .seq) ∧
        ∀ i, i < e.lanes → laneGet w v i = if i = at_ then (t0.rdS x.r).toNat % 2 ^ w else ln d i) ∧
    (s.admits t (opV h 8 (VSrc.src a ++ VSrc.src b ++ msrc k)) → ∃ (v : Word) (fl : BitVec 5),
      exec (.vcmp h e k cc kd a b) s = .next (s.finish t (opV h 8 (VSrc.src a ++ VSrc.src b ++ msrc k))
        (fun u => { u.wrK kd v with fflags := u.fflags ||| fl }) .seq) ∧
        (∀ i, e.lanes ≤ i ∨ on i = false → v.getLsbD i = false) ∧
        (e.isInt = true → fl = 0 ∧ (Cond.ofCode cc.toNat = some q → ∀ i, i < e.lanes → on i = true →
          v.getLsbD i = condOf q ((BitVec.ofNat w (ln a.r i)).signExtend 64) ((BitVec.ofNat w (ln b.r i)).signExtend 64))) ∧
        (∀ F fc, fmtOfE t.nx e = some F → FCond.ofCode cc.toNat = some fc →
          fl = laneFlags (t0.rdK k) ((List.range e.lanes).map fun i => ⟨0, (F.cond fc (ln a.r i) (ln b.r i)).2⟩) ∧
          ∀ i, i < e.lanes → on i = true → v.getLsbD i = (F.cond fc (ln a.r i) (ln b.r i)).1))

/-- R164, R167, R168, R173, R174, R187–R190: VRED's pairwise tree with the identity in the inactive lanes, VCVT's conversions by type, both
forms of VQNT, and the mask instructions complete with the stated results; none but D and FFLAGS changes. (What a conversion delivers is in
ResultsAreExactValuesRoundedOnce.) -/
def Obligations.VectorReductionsConversionsMasks : Prop :=
  ∀ (s : State) (t : Strand) (h : Hd) (e : ETy) (k : Fin 8) (ro : RedOp) (ko : KOp) (src : BitVec 4) (m : Rnd) (sat : Bool)
    (p3 : BitVec 3) (p2 : BitVec 2) (d : Fin 32) (kd : Fin 8) (dk : SKDst) (a b : VSrc) (ka kb : KSrc) (ak : SKSrc) (c : SSrc),
    let t0 := t.atIssue h
    let w := e.width
    let on (i : Nat) : Bool := (t0.rdK k).getLsbD i
    let merges (i : Instr) (o : Op) (w n : Nat) (dst : Nat → Nat) (r : Nat → FRes) : Prop := ∃ v : Vec,
      exec i s = .next (s.finish t o (fun u => { u.wrV d v with
        fflags := u.fflags ||| ((List.range n).filter on).foldl (fun (a : BitVec 5) j => a ||| (r j).flags) 0 }) .seq) ∧
      ∀ i, i < 512 / w → laneGet w v i = match (List.range n).find? fun j => on j && dst j == i with
        | some j => (r j).bits % 2 ^ w
        | none => laneGet w (t0.rdV d) i
    let bv (x : Nat) : BitVec w := BitVec.ofNat w x
    let pick (x y : Nat) : FRes := match fmtOfE t.nx e, ro with
      | some F, .add => F.add .rne x y
      | some F, .min => F.minmax false x y
      | some F, .max => F.minmax true x y
      | none, .add => ⟨(bv x + bv y).toNat, 0⟩
      | none, .min => ⟨(if (bv x).sle (bv y) then bv x else bv y).toNat, 0⟩
      | none, .max => ⟨(if (bv x).sle (bv y) then bv y else bv x).toNat, 0⟩
    let ident : Nat := match fmtOfE t.nx e, ro with
      | some F, .add => F.signBit true
      | some F, .min => if F.hasInf then F.inf false else F.largest false
      | some F, .max => if F.hasInf then F.inf true else F.largest true
      | none, .add => 0
      | none, .min => 2 ^ (w - 1) - 1
      | none, .max => 2 ^ (w - 1)
    let red : FRes := pairwise pick (Nat.log2 e.lanes) fun i => ⟨if on i then laneGet w (t0.rdV a.r) i else ident, 0⟩
    let conv (x : Nat) : FRes := match ETy.ofCode src.toNat with
      | none => ⟨if x = 0 then 0x0040_0000 else if x = 255 then 0x7FC0_0000 else x * 2 ^ 23, 0⟩
      | some st =>
        let i := (BitVec.ofNat st.width x).toInt
        match fmtOfE t.nx st, fmtOfE t.nx e with
        | some F, some G => G.deliver m sat (F.value x).isSig (F.value x)
        | some F, none => toIntV m w (F.value x)
        | none, some G => fromInt G m sat i
        | none, none => ⟨(BitVec.ofInt w (if sat then max (-2 ^ (w - 1)) (min (2 ^ (w - 1) - 1) i) else i)).toNat, 0⟩
    let scaled (x y : Nat) : FRes :=
      let p := mulV (Fmt.f32.value x) (Fmt.f32.value y)
      match fmtOfE t.nx e with
      | some F => F.deliver m sat p.2 p.1
      | none => toIntV m w p.1
    (s.admits t (opV h 8 (VSrc.src a ++ msrc k)) → exec (.vred h e k ro d a) s =
      .next (s.finish t (opV h 8 (VSrc.src a ++ msrc k)) (fun u => { u.wrS d
        (if e.isInt then (BitVec.ofNat w red.bits).signExtend 64 else BitVec.ofNat 64 (red.bits % 2 ^ w)) with
          fflags := u.fflags ||| red.flags }) .seq)) ∧
    (let o := opW h 8 (VSrc.src a ++ msrc k ++ [(.v d, false)]) d
     let ls := 512 / srcWidth src.toNat
     let n := min ls e.lanes
     s.admits t o → n ≠ 0 → p3.toNat < max ls e.lanes / n →
       merges (.vcvt h e k src m sat p3 d a) o w n (fun j => if e.lanes > ls then p3.toNat * n + j else j) (fun j =>
         conv (laneGet (srcWidth src.toNat) (t0.rdV a.r) (if ls > e.lanes then p3.toNat * n + j else j)))) ∧
    (let o := opW h 8 (VSrc.src a ++ SSrc.src c ++ msrc k ++ [(.v d, false)]) d
     s.admits t o → w = 8 → merges (.vqntScaled h e k m sat p2 d a c) o 8 16 (fun j => 16 * p2.toNat + j) (fun j =>
         scaled (laneGet 32 (t0.rdV a.r) j) ((t0.rdS c.r).toNat % 2 ^ 32))) ∧
    (let o := opW h 8 (VSrc.src a ++ VSrc.src b ++ [(.v d, false)]) d
     s.admits t o → ∃ (scale : Nat) (codes : List Nat) (fl : BitVec 5),
       isQuantBX4 ((List.range 16).map (laneGet 32 (t0.rdV a.r)) ++ (List.range 16).map (laneGet 32 (t0.rdV b.r))) scale codes fl ∧
       (∃ v : Vec, exec (.vqntBlock h true p2 d a b) s = .next (s.finish t o (fun u => u.wrV d v) .seq) ∧
         ∀ i, i < 16 → laneGet 32 v i = if i = p2.toNat then scale else laneGet 32 (t0.rdV d) i) ∧
       (∃ v : Vec, exec (.vqntBlock h false p2 d a b) s =
           .next (s.finish t o (fun u => { u.wrV d v with fflags := u.fflags ||| fl }) .seq) ∧
         ∀ i, i < 128 → laneGet 4 v i =
           if 32 * p2.toNat ≤ i ∧ i < 32 * p2.toNat + 32 then codes.getD (i - 32 * p2.toNat) 0 else laneGet 4 (t0.rdV d) i)) ∧
    (s.admits t (op h 8 (KSrc.src ka ++ KSrc.src kb)) → exec (.kop h ko kd ka (some kb)) s =
      .next (s.finish t (op h 8 (KSrc.src ka ++ KSrc.src kb)) (fun u => u.wrK kd (match ko with
        | .and => t0.rdK ka.r &&& t0.rdK kb.r | .or => t0.rdK ka.r ||| t0.rdK kb.r | .xor => t0.rdK ka.r ^^^ t0.rdK kb.r
        | .andn => t0.rdK ka.r &&& ~~~(t0.rdK kb.r))) .seq)) ∧
    (s.admits t (op h 8 (KSrc.src ka)) → exec (.kop h ko kd ka none) s =
      .next (s.finish t (op h 8 (KSrc.src ka)) (fun u => u.wrK kd (~~~(t0.rdK ka.r))) .seq)) ∧
    (s.admits t (op h 8 (SKSrc.src ak)) → exec (.kmov h dk ak) s =
      .next (s.finish t (op h 8 (SKSrc.src ak)) (fun u => u.wSK dk (t0.gSK ak)) .seq)) ∧
    (s.admits t (op h 8 (KSrc.src ka)) → exec (.kpop h e d ka) s =
      .next (s.finish t (op h 8 (KSrc.src ka)) (fun u => u.wrS d
        (BitVec.ofNat 64 ((List.range (min e.lanes 64)).countP fun i => (t0.rdK ka.r).getLsbD i))) .seq))

/-! ### Class 3, and the memory instructions of class 4 -/

/-- The low n bytes of a word are at an offset of a unit's scratchpad, and its word's full bit is set or cleared, as a store, STF or SETE has it;
every other byte and full bit of that scratchpad is as before (R227, R230). -/
def storedAt (s s' : State) (u : UnitRef) (k : StKind) (off n : Nat) (v : Word) : Prop :=
  (∀ a, s'.spByte u a = if k ≠ .empty ∧ off ≤ a ∧ a < off + n then byteOf v.toNat (a - off) else s.spByte u a) ∧
  ∀ w, fullBit (s'.unit u) w = if k ≠ .plain ∧ w = off / 8 then decide (k = .full) else fullBit (s.unit u) w

/-- The address of lane i (R191). -/
def laneAddress (t : Strand) (e : ETy) (i : Nat) : Instr → Word
  | .vld _ _ _ _ ad | .vst _ _ _ ad _ => t.address ad + BitVec.ofNat 64 (i * (e.width / 8))
  | .vlds _ _ _ _ ad | .vsts _ _ _ ad _ =>
    t.rdS ad.a.r + BitVec.ofNat 64 i * (match ad.b with | .reg r => t.rdS r.r | .imm v => v.signExtend 64)
  | .vgath _ _ _ _ a b sh | .vscat _ _ _ a b _ sh =>
    t.rdS a.r + ((BitVec.ofNat e.width (laneGet e.width (t.rdV b.r) i)).signExtend 64) <<< sh.toNat
  | _ => 0

/-- R197, R226, R230, R231, R267, R268: a load from the strand's own scratchpad that passes AccessCheck, finds no poison and (LDF) the word
full, or has been served by the write that set the full bit, completes; D takes the bytes, extended, as a long-latency result, or, where a
load that does not acquire is performed later, after the core's earlier accesses of that scratchpad, the bytes that it holds then; no byte
anywhere changes. (That a served LDF takes the word as it stood when the full bit was set is log 36's.)
R199, R226, R265, R267: a load of device memory that passes AccessCheck completes, the line being one that a request of the partition finds
in the L2, with nothing of it buffered and no L1 copy, its home on the strand's own die: D takes memory's bytes, extended, or, where the
load is performed later, the bytes that memory holds then; no byte of memory or scratchpad changes. (That such a load may be performed as
late as its result is written is log 3's. A load of another core's scratchpad or of the host window, and one met by the L1 or the store
buffer, are not stated here.) -/
def Obligations.LoadsComplete : Prop :=
  (∀ (s : State) (t : Strand) (h : Hd) (sz : Size) (sx acq : Bool) (sc : Scope) (d : Fin 32) (ad : Addr) (off : Nat),
     let o := op h 8 (Addr.src ad)
     let n := sizeBytes sz
     let u := s.homeUnit t
     let goes (i : Instr) (v : Nat) (later : Bool) : Prop := ∃ s' t', s.completes i t o s' t' ∧
       (t'.waitsFor d (extended n sx v) ∨ (later = true ∧ t'.waitsForLoad d (extended n sx v) ⟨0, .own, off, n, sx, .load⟩)) ∧
       (∀ a, s'.mem.read a = s.mem.read a) ∧
       (∀ v a, s'.spByte v a = s.spByte v a) ∧ s'.hostMem = s.hostMem
     s.admits t o → t.rem = [] → (s.unit u).matrixAt t.sid off n = false → spPoisoned (s.unit u) off n = false →
       (s.taken.check (who s.cur t) ((t.atIssue h).address ad) n n .read .plain = .ok (.own off) → acq = false ∨ s.ownLate u = false →
         goes (.ld h sz sx acq sc d ad) (Memory.readN (s.unit u).sp off n) (!acq)) ∧
       (s.taken.check (who s.cur t) ((t.atIssue h).address ad) n n .read .full = .ok (.own off) →
         (t.seen = none → s.ownLate u = false → fullBit (s.unit u) (off / 8) = true →
           goes (.ldf h sz sx acq sc d ad) (Memory.readN (s.unit u).sp off n) false) ∧
         (∀ w, t.seen = some w → goes (.ldf h sz sx acq sc d ad) (w.toNat / 256 ^ (off % 8)) false))) ∧
  (∀ (s : State) (t : Strand) (h : Hd) (sz : Size) (sx acq : Bool) (sc : Scope) (d : Fin 32) (ad : Addr) (l : Leaf) (pa : Nat),
     let o := op h 8 (Addr.src ad)
     let n := sizeBytes sz
     s.admits t o → t.rem = [] →
       s.taken.check (who s.cur t) ((t.atIssue h).address ad) n n .read .plain = .ok (.mem l pa) → paKind pa = .mem → pa % n = 0 →
       s.plainLine t.part (lineOf pa) → s.quietLine s.cur.unit t (lineOf pa) → homeDie (lineOf pa) = udie s.cur.unit →
       ((s.unit s.cur.unit).l1.any fun y => !y.host && y.line == lineOf pa) = false →
         ∃ s' t' k, s.completes (.ld h sz sx acq sc d ad) t o s' t' ∧
           t'.waitsForLoad d (extended n sx (Memory.readN s.mem pa n)) ⟨0, .mem l k, pa, n, sx, .load⟩ ∧
           (∀ a, s'.mem.read a = s.mem.read a) ∧ (∀ v a, s'.spByte v a = s.spByte v a) ∧ s'.hostMem = s.hostMem ∧
           (acq = true → sc ≠ .core → t'.acq.isSome = true)) ∧
  (∀ (s : State) (c : CtxRef) (t : Strand) (r : Fin 32) (id lane pa n : Nat) (v : Word) (f : BitVec 5) (lf : Leaf) (k : LoadAt) (sx : Bool),
     s.strand c = some t → (t.lates.find? fun x => x.id == id) = some ⟨id, .s v, f, [⟨lane, .mem lf k, pa, n, sx, .load⟩]⟩ → r.val ≠ 0 →
     (t.sreg r).late = some id → n ∈ [1, 2, 4, 8] → pa % n = 0 → paKind pa = .mem → s.plainLine t.part (lineOf pa) →
     homeDie (lineOf pa) = udie c.unit → ((s.unit c.unit).sb.any fun e => e.line == lineOf pa) = false →
     ((s.unit c.unit).l1.any fun y => !y.host && y.line == lineOf pa) = false →
       ∃ s' t', exec (.longResultWriteback c id) s = .next s' ∧ s'.strand c = some t' ∧ t'.rdS r = extended n sx (Memory.readN s.mem pa n) ∧
         (t'.sreg r).late = none ∧ (∀ a, s'.mem.read a = s.mem.read a)) ∧
  (∀ (s : State) (c : CtxRef) (t : Strand) (r : Fin 32) (id lane off n : Nat) (v : Word) (f : BitVec 5) (sx : Bool),
     let u := (homeOf c t).unit
     s.strand c = some t → (t.lates.find? fun x => x.id == id) = some ⟨id, .s v, f, [⟨lane, .own, off, n, sx, .load⟩]⟩ → r.val ≠ 0 →
     (t.sreg r).late = some id → s.ownBefore u id = false → n ∈ [1, 2, 4, 8] →
       ∃ s' t', exec (.longResultWriteback c id) s = .next s' ∧ s'.strand c = some t' ∧
         t'.rdS r = extended n sx (Memory.readN (s.unit u).sp off n) ∧ (t'.sreg r).late = none ∧ s'.mem = s.mem ∧
         ∀ w a, s'.spByte w a = s.spByte w a)

/-- R197, R227, R230, R267, R268: stores to the strand's own scratchpad complete. ST and STF write the low bytes of D, in rising order from
the offset, and nothing else; STF sets the word's full bit and SETE clears it without writing; every other full bit stays. A store does so as
it completes, or later, after the core's earlier accesses of that scratchpad. (How late it may be is log 3's.) -/
def Obligations.StoresToOwnScratchpad : Prop :=
  (∀ (s : State) (t : Strand) (h : Hd) (sz : Size) (rel : Bool) (sc : Scope) (d : Fin 32) (ad : Addr) (off : Nat),
    let n := sizeBytes sz
    let u := s.homeUnit t
    let t0 := t.atIssue h
    let v := t0.rdS d
    let goes (i : Instr) (o : Op) (k : AKind) (x : StKind) (v : Word) : Prop :=
      s.memWf → s.admits t o → (s.unit u).matrixAt t.sid off n = false → (rel = false ∨ s.calm t) →
      s.taken.check (who s.cur t) (t0.address ad) n n .write k = .ok (.own off) → ∃ s' t', s.completes i t o s' t' ∧
        (∀ a, s'.mem.read a = s.mem.read a) ∧ (∀ w a, ukey w ≠ ukey u → s'.spByte w a = s.spByte w a) ∧
        (storedAt s s' u x off n v ∨ ((∀ a, s'.spByte u a = s.spByte u a) ∧ (∀ w, fullBit (s'.unit u) w = fullBit (s.unit u) w) ∧
          ∃ l ∈ t'.lates, l.val = .none ∧ l.flags = 0 ∧ l.todo = [⟨0, .own, off, n, false, .put x v⟩]))
    goes (.st h sz rel sc d ad) (op h 8 (dsrc d ++ Addr.src ad)) .plain .plain v ∧
    goes (.stf h sz rel sc d ad) (op h 8 (dsrc d ++ Addr.src ad)) .full .full v ∧
    goes (.sete h sz rel sc ad) (op h 8 (Addr.src ad)) .full .empty 0) ∧
  (∀ (s : State) (c : CtxRef) (t : Strand) (id lane off n : Nat) (lv : LateVal) (f : BitVec 5) (k : StKind) (v : Word),
     let u := (homeOf c t).unit
     s.memWf → s.strand c = some t → (t.lates.find? fun x => x.id == id) = some ⟨id, lv, f, [⟨lane, .own, off, n, false, .put k v⟩]⟩ →
     s.ownBefore u id = false → n ∈ [1, 2, 4, 8] →
       ∃ s' t', exec (.longResultWriteback c id) s = .next s' ∧ s'.strand c = some t' ∧ (∀ z ∈ t'.lates, z.id ≠ id) ∧
         storedAt s s' u k off n v ∧ (∀ w a, ukey w ≠ ukey u → s'.spByte w a = s.spByte w a) ∧ s'.mem = s.mem)

/-- R200, R227: a store to device memory enters the core's store buffer: memory itself does not change yet, the core sees the stored bytes
and, at every other address, what it saw before; the line's four bits are in the write signature, unless a release carries
it away and leaves it empty (R228).
R200, R354: an entry that drains is performed at its home: memory then holds what the core saw at the entry's bytes, the bit of the page in
the partition's dirty bitmap is set, and every other byte stays. -/
def Obligations.StoresToMemoryAndDrains : Prop :=
  (∀ (s : State) (t : Strand) (h : Hd) (sz : Size) (rel : Bool) (sc : Scope) (d : Fin 32) (ad : Addr) (l : Leaf) (pa : Nat),
     let o := op h 8 (dsrc d ++ Addr.src ad)
     let n := sizeBytes sz
     let u := s.cur.unit
     s.admits t o → (rel = false ∨ s.calm t) → (s.unit u).sb.length < 32 → paKind pa = .mem → pa % n = 0 → s.pushHeld (lineOf pa) = false →
       (s.homeReqs.any fun r => r.2.sid == t.sid && lineOf r.2.pa == lineOf pa) = false → t.loadingAt false pa n = false →
       s.taken.check (who s.cur t) ((t.atIssue h).address ad) n n .write .plain = .ok (.mem l pa) →
         ∃ s' t', s.completes (.st h sz rel sc d ad) t o s' t' ∧ (∀ a, s'.mem.read a = s.mem.read a) ∧
           (∀ a, s'.sees u a = if pa ≤ a ∧ a < pa + n then byteOf ((t.atIssue h).rdS d).toNat (a - pa) else s.sees u a) ∧
           (∀ w a, s'.spByte w a = s.spByte w a) ∧
           t'.wsig = (if rel = true ∧ sc ≠ .core then 0 else sigAdd t.wsig (lineOf pa))) ∧
  (∀ (s : State) (u : UnitRef) (i : Nat) (e : SbEntry),
     s.memWf → (s.unit u).sb[i]? = some e → ((s.unit u).sb.take i).any (fun f => f.line == e.line) = false → paKind (128 * e.line) = .mem →
       s.plainLine e.part e.line → s.pushHeld e.line = false →
         ∃ s', exec (if e.rel.isSome then .releaseAtHome u i else .storeDrain u i) s = .next s' ∧
           (s'.unit u).sb = (s.unit u).sb.eraseIdx i ∧
           (∀ a, s'.mem.read a = s.withBit e.part (128 * e.line) a
             (if lineOf a = e.line ∧ e.mask.getLsbD (a % 128) = true then e.data.extractLsb' (8 * (a % 128)) 8 else s.mem.read a)))

/-- R238, R267, R268: the atomics on the strand's own scratchpad. The word takes F(old, b), D takes the old value, sign-extended; every other
byte and every full bit stays. So it is as the instruction completes, or, where it does not acquire, later, after the core's earlier accesses
of that scratchpad, on the word as it stands then. (How late it may be is log 3's.) -/
def Obligations.AtomicsOnOwnScratchpad : Prop :=
  (∀ (s : State) (t : Strand) (h : Hd) (dw : Bool) (r : Ord) (sc : Scope) (d : Fin 32) (a : SSrc) (b : SB) (off : Nat),
    let n := if dw then 8 else 4
    let w := 8 * n
    let u := s.homeUnit t
    let t0 := t.atIssue h
    let x : BitVec w := BitVec.ofNat w (match b with | .reg r => t0.rdS r.r | .imm v => v.signExtend 64).toNat
    let cmp : BitVec w := BitVec.ofNat w (t0.rdS d).toNat
    let old : BitVec w := BitVec.ofNat w (Memory.readN (s.unit u).sp off n)
    let goes (i : Instr) (o : Op) (new : BitVec w) : Prop :=
      s.memWf → s.admits t o → t.rem = [] → (s.unit u).matrixAt t.sid off n = false → (Ord.releases r = false ∨ s.calm t) → spPoisoned (s.unit u) off n = false →
      Ord.acquires r = false ∨ s.ownLate u = false →
      s.taken.check (who s.cur t) (t0.rdS a.r) n n .both .atomic = .ok (.own off) → ∃ s' t', s.completes i t o s' t' ∧
        (∀ v q, ukey v ≠ ukey u → s'.spByte v q = s.spByte v q) ∧ (∀ q, s'.mem.read q = s.mem.read q) ∧
        (∀ q, fullBit (s'.unit u) q = fullBit (s.unit u) q) ∧
        ((t'.waitsFor d (old.signExtend 64) ∧
            ∀ q, s'.spByte u q = if off ≤ q ∧ q < off + n then byteOf new.toNat (q - off) else s.spByte u q) ∨
          (Ord.acquires r = false ∧ (∀ q, s'.spByte u q = s.spByte u q) ∧
            ∃ k, t'.issued d (old.signExtend 64) [⟨0, .own, off, n, true, .rmw k (BitVec.ofNat 64 x.toNat) (BitVec.ofNat 64 cmp.toNat) none⟩] ∧
            BitVec.ofNat w (atomNew k w old.toNat x.toNat cmp.toNat) = new))
    let o := op h 8 (SSrc.src a ++ SB.src b)
    goes (.aadd h dw r sc d a b) o (old + x) ∧ goes (.aand h dw r sc d a b) o (old &&& x) ∧
    goes (.aor h dw r sc d a b) o (old ||| x) ∧ goes (.axor h dw r sc d a b) o (old ^^^ x) ∧
    goes (.amin h dw r sc d a b) o (if old.sle x then old else x) ∧ goes (.amax h dw r sc d a b) o (if old.sle x then x else old) ∧
    goes (.aminu h dw r sc d a b) o (if old.ule x then old else x) ∧ goes (.amaxu h dw r sc d a b) o (if old.ule x then x else old) ∧
    goes (.aswp h dw r sc d a b) o x ∧
    goes (.acas h dw r sc d a b) (op h 8 (SSrc.src a ++ SB.src b ++ dsrc d)) (if old = cmp then x else old)) ∧
  (∀ (s : State) (c : CtxRef) (t : Strand) (id lane off n k : Nat) (lv : LateVal) (f : BitVec 5) (x cmp : Word) (r : Fin 32),
     let u := (homeOf c t).unit
     let w := 8 * n
     let old := Memory.readN (s.unit u).sp off n
     s.memWf → s.strand c = some t → (t.lates.find? fun x => x.id == id) = some ⟨id, lv, f, [⟨lane, .own, off, n, true, .rmw k x cmp none⟩]⟩ →
     n ∈ [4, 8] → s.ownBefore u id = false →
       ∃ s' t', exec (.longResultWriteback c id) s = .next s' ∧ s'.strand c = some t' ∧ (∀ z ∈ t'.lates, z.id ≠ id) ∧
         (∀ v, lv = .s v → r.val ≠ 0 → (t.sreg r).late = some id → t'.rdS r = (BitVec.ofNat w old).signExtend 64 ∧ (t'.sreg r).late = none) ∧
         s'.mem = s.mem ∧ (∀ v q, ukey v ≠ ukey u → s'.spByte v q = s.spByte v q) ∧
         ∀ q, s'.spByte u q =
           if off ≤ q ∧ q < off + n then byteOf (BitVec.ofNat w (atomNew k w old x.toNat cmp.toNat)).toNat (q - off) else s.spByte u q)

/-- R238, R267: the same instructions on device memory are performed at the home as one step, on a line that a request of the partition finds
in the L2: at once, or, where the instruction does not acquire, later, at any time until its result is written, which then is the word as it
stood then. Nothing but the word and the bit of its page in the dirty bitmap (R354) changes. (That an atomic may be performed as late as
that is log 3's.) -/
def Obligations.AtomicsOnMemory : Prop :=
  (∀ (s : State) (t : Strand) (h : Hd) (dw : Bool) (r : Ord) (sc : Scope) (d : Fin 32) (a : SSrc) (b : SB) (l : Leaf) (pa : Nat),
    let n := if dw then 8 else 4
    let w := 8 * n
    let t0 := t.atIssue h
    let x : BitVec w := BitVec.ofNat w (match b with | .reg r => t0.rdS r.r | .imm v => v.signExtend 64).toNat
    let cmp : BitVec w := BitVec.ofNat w (t0.rdS d).toNat
    let old : BitVec w := BitVec.ofNat w (Memory.readN s.mem pa n)
    let x64 : Word := BitVec.ofNat 64 x.toNat
    let c64 : Word := BitVec.ofNat 64 cmp.toNat
    let goes (i : Instr) (o : Op) (new : BitVec w) : Prop :=
      s.memWf → s.admits t o → t.rem = [] → (Ord.releases r = false ∨ s.calm t) → paKind pa = .mem → pa % n = 0 → s.plainLine t.part (lineOf pa) →
      s.quietLine s.cur.unit t (lineOf pa) →
      s.taken.check (who s.cur t) (t0.rdS a.r) n n .both .atomic = .ok (.mem l pa) → ∃ s' t', s.completes i t o s' t' ∧
        (∀ v q, s'.spByte v q = s.spByte v q) ∧
        ((t'.waitsFor d (old.signExtend 64) ∧
            ∀ q, s'.mem.read q = s.withBit t.part pa q (if pa ≤ q ∧ q < pa + n then byteOf new.toNat (q - pa) else s.mem.read q)) ∨
          (Ord.acquires r = false ∧ (∀ q, s'.mem.read q = s.mem.read q) ∧
            ∃ k y, t'.issued d (old.signExtend 64) [⟨0, .mem l .home, pa, n, true, .rmw k x64 c64 y⟩] ∧
            BitVec.ofNat w (atomNew k w old.toNat x.toNat cmp.toNat) = new ∧ y.isSome = (Ord.releases r && sc != .core)))
    let o := op h 8 (SSrc.src a ++ SB.src b)
    goes (.aadd h dw r sc d a b) o (old + x) ∧ goes (.aand h dw r sc d a b) o (old &&& x) ∧
    goes (.aor h dw r sc d a b) o (old ||| x) ∧ goes (.axor h dw r sc d a b) o (old ^^^ x) ∧
    goes (.amin h dw r sc d a b) o (if old.sle x then old else x) ∧ goes (.amax h dw r sc d a b) o (if old.sle x then x else old) ∧
    goes (.aminu h dw r sc d a b) o (if old.ule x then old else x) ∧ goes (.amaxu h dw r sc d a b) o (if old.ule x then x else old) ∧
    goes (.aswp h dw r sc d a b) o x ∧
    goes (.acas h dw r sc d a b) (op h 8 (SSrc.src a ++ SB.src b ++ dsrc d)) (if old = cmp then x else old)) ∧
  (∀ (s : State) (c : CtxRef) (t : Strand) (id lane pa n k : Nat) (lv : LateVal) (f : BitVec 5) (lf : Leaf) (at_ : LoadAt) (x cmp : Word)
     (y : Option RelInfo) (r : Fin 32),
     let w := 8 * n
     let old := Memory.readN s.mem pa n
     s.memWf → s.strand c = some t → (t.lates.find? fun x => x.id == id) = some ⟨id, lv, f, [⟨lane, .mem lf at_, pa, n, true, .rmw k x cmp y⟩]⟩ →
     n ∈ [4, 8] → pa % n = 0 → paKind pa = .mem → s.plainLine t.part (lineOf pa) → s.pushHeld (lineOf pa) = false →
     ((s.unit c.unit).sb.any fun e => e.line == lineOf pa) = false →
       ∃ s' t', exec (.longResultWriteback c id) s = .next s' ∧ s'.strand c = some t' ∧ (∀ z ∈ t'.lates, z.id ≠ id) ∧
         (∀ v, lv = .s v → r.val ≠ 0 → (t.sreg r).late = some id → t'.rdS r = (BitVec.ofNat w old).signExtend 64 ∧ (t'.sreg r).late = none) ∧
         (lv = .none → t'.v = t.v ∧ t'.k = t.k ∧ t'.mail = t.mail ∧ ∀ d, t'.rdS d = t.rdS d) ∧
         (∀ v q, s'.spByte v q = s.spByte v q) ∧
         ∀ q, s'.mem.read q = s.withBit t.part pa q
           (if pa ≤ q ∧ q < pa + n then byteOf (BitVec.ofNat w (atomNew k w old x.toNat cmp.toNat)).toNat (q - pa) else s.mem.read q))

/-- R38–R40, R240, R267: ADEC takes one from the record's counter at the home and gives D the new value: at once, or, where it does not
acquire, later, at any time until its result is written (log 3). It pushes the record when the new value is zero, and only then: its words
stand at the end of the queue that R75 and R76 name.
R241, R291: SPAWN of a record whose counter is zero pushes it: its words stand at the end of the queue that R75 and R76 name, and
the write signature empties with the release; memory is as before. One whose counter is not zero pushes nothing and leaves 2 in
REJECT. (No byte of memory but the counter and the bit of its page in the dirty bitmap (R354) changes, unless the entry goes to a spill
area.) -/
def Obligations.RecordsArePushedAtZero : Prop :=
  (∀ (s : State) (t : Strand) (h : Hd) (r : Ord) (sc : Scope) (d : Fin 32) (a : SSrc) (l : Leaf) (pa : Nat),
     let o := op h 8 (SSrc.src a)
     let va := (t.atIssue h).rdS a.r
     let c : Word := recordWord s pa 0 - 1
     s.memWf → s.admits t o → (Ord.releases r = false ∨ s.calm t) → paKind pa = .mem → pa % 32 = 0 → s.plainLine t.part (lineOf pa) →
       s.quietLine s.cur.unit t (lineOf pa) → s.bitOff t.part pa (lineOf pa) →
       s.taken.check (who s.cur t) va 32 32 .both .adec = .ok (.mem l pa) → ∃ s' t', s.completes (.adec h r sc d a) t o s' t' ∧
         ((t'.waitsFor d c ∧ counts s s' t.part (utile s.cur.unit) t.launch va pa) ∨
          (Ord.acquires r = false ∧ (∀ b, s'.mem.read b = s.mem.read b) ∧ (∀ q, s'.queue q = s.queue q) ∧ s'.pushWait = s.pushWait ∧
            ∃ y, t'.issued d c [⟨0, .mem l .home, pa, 32, false, .dec va y⟩]))) ∧
  (∀ (s : State) (k : CtxRef) (t : Strand) (id lane pa : Nat) (lv : LateVal) (f : BitVec 5) (lf : Leaf) (at_ : LoadAt) (va : Word)
     (y : Option RelInfo) (r : Fin 32),
     s.memWf → s.strand k = some t →
     (t.lates.find? fun x => x.id == id) = some ⟨id, lv, f, [⟨lane, .mem lf at_, pa, 32, false, .dec va y⟩]⟩ →
     paKind pa = .mem → pa % 32 = 0 → s.plainLine t.part (lineOf pa) → s.pushHeld (lineOf pa) = false → s.bitOff t.part pa (lineOf pa) →
     ((s.unit k.unit).sb.any fun e => e.line == lineOf pa) = false →
       ∃ s' t', exec (.longResultWriteback k id) s = .next s' ∧ s'.strand k = some t' ∧ (∀ z ∈ t'.lates, z.id ≠ id) ∧
         (∀ v, lv = .s v → r.val ≠ 0 → (t.sreg r).late = some id → t'.rdS r = recordWord s pa 0 - 1 ∧ (t'.sreg r).late = none) ∧
         counts s s' t.part (utile k.unit) t.launch va pa) ∧
  (∀ (s : State) (t : Strand) (h : Hd) (a : SSrc) (l : Leaf) (pa : Nat),
     let o := op h 8 (SSrc.src a)
     let va := (t.atIssue h).rdS a.r
     let ctl := launchedCtl (recordWord s pa 3) t.launch
     let q := s.routeOf t.part (utile s.cur.unit) va ctl
     s.admits t o → s.calm t → paKind pa = .mem → pa % 32 = 0 → s.plainLine t.part (lineOf pa) → s.quietLine s.cur.unit t (lineOf pa) →
       s.taken.check (who s.cur t) va 32 32 .both .adec = .ok (.mem l pa) → ∃ s' t', s.completes (.spawn h a) t o s' t' ∧
         (∀ b, inSpill s b ∨ s'.mem.read b = s.mem.read b) ∧ (∀ v b, s'.spByte v b = s.spByte v b) ∧
         (recordWord s pa 0 ≠ 0 → t'.reject = 2 ∧ (∀ q, s'.queue q = s.queue q) ∧ s'.pushWait = s.pushWait ∧ s'.mem = s.mem) ∧
         (recordWord s pa 0 = 0 → t'.wsig = 0 ∧ (takesEntry s q → s'.mem = s.mem ∧
           ∃ e, pushedAt s s' q va (recordWord s pa 1) (recordWord s pa 2) ctl t.part (NMap.find s.marks (pa / 32)) e ∧ e.acq.isSome)))

/-- R243: RADD completes with its contribution on its way to the home, under the contributor's key; memory is as before. -/
def Obligations.RaddSendsContribution : Prop :=
  ∀ (s : State) (t : Strand) (h : Hd) (dw rel : Bool) (sc : Scope) (a b : SSrc) (l : Leaf) (pa : Nat),
    let o := op h 8 (SSrc.src a ++ SSrc.src b)
    let n := if dw then 8 else 4
    let t0 := t.atIssue h
    s.admits t o → (rel = false ∨ s.calm t) → paKind pa = .mem → s.quietLine s.cur.unit t (lineOf pa) →
      s.hostHas (lineOf pa) (byteMask (pa % 128) n) = false →
      s.taken.check (who s.cur t) (t0.rdS a.r) n n .both .radd = .ok (.mem l pa) →
        ∃ s' t' r, s.completes (.radd h dw rel sc a b) t o s' t' ∧ NMap.find s'.homeReqs s.nextId = some r ∧
          r.unit = s.cur.unit ∧ r.pa = pa ∧ r.key = (match s.homeUnit t with | .core _ => t.lcore | .kp n => 2 ^ 18 + n) ∧ r.f64 = dw ∧ r.x = BitVec.ofNat 64 ((t0.rdS b.r).toNat % 2 ^ (8 * n)) ∧ r.part = t.part ∧
          r.rel.isSome = (rel && sc != .core) ∧ (∀ q, s'.mem.read q = s.mem.read q) ∧ (∀ v q, s'.spByte v q = s.spByte v q)

/-- R225, R232, R236, R237: PREF, CINV and REPL complete and never trap after decode: when a check fails, or the page is not present,
they have no effect. PREF changes no byte; CINV drops the line's L1 copy, or every one; REPL, where the translation grants W, sets the
degree of the line's region and its counters to zero, and otherwise changes no region. (That REPL sets no D bit is log 29's. Where the page
has no cached translation the instruction first waits for its walk: that case is not stated here.)
R233, R234: FENCE completes when nothing it waits for is on its way; its acquire part above CORE invalidates every L1 line of the
core that is not read-only and sets the write signature to all ones. IFENCE empties the instruction caches of the units of the
partition in the group of its scope, and of no other. -/
def Obligations.HintsFencesAndCacheControls : Prop :=
  (∀ (s : State) (t : Strand) (h : Hd) (l2 : Bool) (g : Deg) (ad : Addr),
     let o := op h 8 (Addr.src ad)
     let va := (t.atIssue h).address ad
     let u := s.cur.unit
     let looked := s.taken.check (who s.cur t) va 1 1 .read .plain
     let walked := s.taken.xlate (udie u) t.part va false t.wfaults
     let same (s' : State) : Prop := (∀ a, s'.mem.read a = s.mem.read a) ∧ (∀ v a, s'.spByte v a = s.spByte v a) ∧ s'.hostMem = s.hostMem
     (s.admits t o → looked ≠ .error .miss →
       (∃ s' t', s.completes (.pref h l2 ad) t o s' t' ∧ same s' ∧ s'.regions = s.regions ∧ s'.reds = s.reds) ∧
       (∃ s' t', s.completes (.cinv h (some ad)) t o s' t' ∧ same s' ∧ (∀ l pa, looked = .ok (.mem l pa) →
         ∀ y ∈ (s'.unit u).l1, y.host = false → y.line ≠ lineOf pa) ∧ (∀ hpa ro, looked = .ok (.host hpa ro) →
         ∀ y ∈ (s'.unit u).l1, y.host = true → y.line ≠ hpa / 64) ∧ ∀ x, looked = .error x → (s'.unit u).l1 = (s.unit u).l1)) ∧
     (s.admits t (op h 8 []) → ∃ s' t', s.completes (.cinv h none) t (op h 8 []) s' t' ∧ same s' ∧ (s'.unit u).l1 = [] ∧
       (s'.unit u).sb = (s.unit u).sb) ∧
     (s.admits t o → (regionOf va ≠ .paged ∨ walked ≠ .miss) → ∃ s' t', s.completes (.repl h g ad) t o s' t' ∧ same s' ∧
       (∀ l, regionOf va = .paged → walked = .ok l → l.w = true → paKind (leafAddr l va) = .mem →
         reach t.frames t.dom l va.toNat 1 .write = true →
           s'.region (regionNo (lineOf (leafAddr l va))) = ⟨match g with | .d1 => 0 | .d2 => 1 | .d4 => 2, 0, 0⟩) ∧
       ((regionOf va ≠ .paged ∨ (∀ l, walked ≠ .ok l) ∨ ∃ l, walked = .ok l ∧ (l.w = false ∨ paKind (leafAddr l va) ≠ .mem ∨
         reach t.frames t.dom l va.toNat 1 .write = false)) → s'.regions = s.regions))) ∧
  (∀ (s : State) (t : Strand) (h : Hd) (r : Ord) (sc : Scope),
     let o := op h 8 []
     let u := s.cur.unit
     s.admits t o → s.calm t →
       (∃ s' t', s.completes (.fence h r sc) t o s' t' ∧ (∀ a, s'.mem.read a = s.mem.read a) ∧
         (Ord.acquires r = true ∧ sc ≠ .core → t'.wsig = BitVec.allOnes 2048 ∧ ∀ y, y ∈ (s'.unit u).l1 ↔ y ∈ (s.unit u).l1 ∧ y.ro = true) ∧
         (¬ (Ord.acquires r = true ∧ sc ≠ .core) → t'.wsig = t.wsig ∧ (s'.unit u).l1 = (s.unit u).l1)) ∧
       (∃ s' t', s.completes (.ifence h sc) t o s' t' ∧ (∀ a, s'.mem.read a = s.mem.read a) ∧
         ∀ w : UnitRef, uref (ukey w) = w →
           (s'.unit w).ic = if inGroup sc u w = true ∧ (s.unit w).tag = t.part then [] else (s.unit w).ic))

/-- R191, R192, R199, R267: a vector load whose active lanes lie in the strand's own scratchpad, unpoisoned, or on lines of device memory that a
request of the partition finds in the L2, with nothing buffered and no L1 copy, at home on the strand's own die, completes: D waits for a
long-latency result of exactly those lanes, each with its element, and no byte changes; lanes may be performed as late as the result is
written (log 3). -/
def Obligations.VectorLoadsComplete : Prop :=
  ∀ (s : State) (t : Strand) (h : Hd) (e : ETy) (k : Fin 8) (d : Fin 32) (ad : Addr) (a : SSrc) (b : VSrc) (sh : BitVec 3)
    (place : Nat → Place) (el : Nat → Nat),
    let t0 := t.atIssue h
    let n := e.width / 8
    let u := s.homeUnit t
    let act (i : Nat) : Prop := i < e.lanes ∧ (t0.rdK k).getLsbD i = true
    let ready (i : Nat) : Prop := match place i with
      | .own off => (s.unit u).matrixAt t.sid off n = false ∧ spPoisoned (s.unit u) off n = false ∧ el i = Memory.readN (s.unit u).sp off n
      | .mem _ pa => paKind pa = .mem ∧ pa % n = 0 ∧ s.plainLine t.part (lineOf pa) ∧ s.quietLine s.cur.unit t (lineOf pa) ∧
        homeDie (lineOf pa) = udie s.cur.unit ∧ ((s.unit s.cur.unit).l1.any fun y => !y.host && y.line == lineOf pa) = false ∧
        el i = Memory.readN s.mem pa n
      | _ => False
    let goes (x : Instr) (srcs : Srcs) : Prop :=
      let o := opW h 8 (srcs ++ mergeSrc k d) d
      s.admits t o → t.rem = [] → t.replay = none → 8 ≤ e.width →
      (∀ i, act i → s.taken.check (who s.cur t) (laneAddress t0 e i x) n n .read .plain = .ok (place i) ∧ ready i) →
      ∃ s' t' l v lanes, s.completes x t o s' t' ∧ l ∈ t'.lates ∧ l.val = .v v lanes e.width ∧ l.flags = 0 ∧ (t'.vreg d).late = some l.id ∧
        (t'.vreg d).pend = true ∧ (∀ i, i < 64 → (lanes.getLsbD i = true ↔ act i)) ∧
        (∀ i, act i → laneGet e.width v i = el i) ∧
        (∀ y ∈ l.todo, act y.lane ∧ ((∃ lf pa at_, place y.lane = .mem lf pa ∧ y = ⟨y.lane, .mem lf at_, pa, n, false, .load⟩) ∨
          ∃ off, place y.lane = .own off ∧ y = ⟨y.lane, .own, off, n, false, .load⟩)) ∧
        (∀ q, s'.mem.read q = s.mem.read q) ∧ (∀ w q, s'.spByte w q = s.spByte w q)
    goes (.vld h e k d ad) (Addr.src ad) ∧ goes (.vlds h e k d ad) (Addr.src ad) ∧
    goes (.vgath h e k d a b sh) (SSrc.src a ++ VSrc.src b)

/-- R191–R193, R200, R227, R267: a vector store whose active lanes lie in the strand's own scratchpad or in device memory completes: a byte of
the scratchpad that active lanes cover holds the element byte of the highest-numbered of them, the core sees the same of device memory, and it
sees every other byte as before; memory itself does not change yet, and the lines are in the write signature. The lanes of the scratchpad may
be performed later instead, in rising order (log 3). -/
def Obligations.VectorStoresComplete : Prop :=
  ∀ (s : State) (t : Strand) (h : Hd) (e : ETy) (k : Fin 8) (ad : Addr) (a : SSrc) (b c : VSrc) (sh : BitVec 3) (place : Nat → Place),
    let t0 := t.atIssue h
    let n := e.width / 8
    let u := s.homeUnit t
    let acts := (List.range e.lanes).filter fun i => (t0.rdK k).getLsbD i
    let ready (i : Nat) : Prop := match place i with
      | .own off => (s.unit u).matrixAt t.sid off n = false
      | .mem _ pa => paKind pa = .mem ∧ pa % n = 0 ∧ s.pushHeld (lineOf pa) = false ∧ t.loadingAt false pa n = false ∧
        (s.homeReqs.any fun r => r.2.sid == t.sid && lineOf r.2.pa == lineOf pa) = false
      | _ => False
    let ownAt (q i : Nat) : Option Nat := match place i with
      | .own off => if off ≤ q ∧ q < off + n then some (q - off) else none
      | _ => none
    let memAt (q i : Nat) : Option Nat := match place i with
      | .mem _ pa => if pa ≤ q ∧ q < pa + n then some (q - pa) else none
      | _ => none
    let left (at_ : Nat → Nat → Option Nat) (old : Nat → Byte) (q : Nat) : Byte :=
      match (acts.filter fun i => (at_ q i).isSome).getLast? with
      | some i => byteOf (laneGet e.width (t0.rdV c.r) i) ((at_ q i).getD 0)
      | none => old q
    let goes (x : Instr) (srcs : Srcs) : Prop :=
      let o := opV h 8 (srcs ++ VSrc.src c ++ msrc k)
      s.memWf → s.admits t o → t.rem = [] → t.replay = none → 8 ≤ e.width → (s.unit s.cur.unit).sb.length + acts.length ≤ 32 →
      (∀ i ∈ acts, s.taken.check (who s.cur t) (laneAddress t0 e i x) n n .write .plain = .ok (place i) ∧ ready i) →
      ∃ s' t', s.completes x t o s' t' ∧ (∀ q, s'.mem.read q = s.mem.read q) ∧ (∀ w q, ukey w ≠ ukey u → s'.spByte w q = s.spByte w q) ∧
        ((∀ q, s'.spByte u q = left ownAt (s.spByte u) q) ∨
          ((∀ q, s'.spByte u q = s.spByte u q) ∧ ∃ l ∈ t'.lates, l.val = .none ∧ l.flags = 0 ∧ l.todo = acts.filterMap fun i =>
            match place i with
            | .own off => some ⟨i, .own, off, n, false, .put .plain (BitVec.ofNat 64 (laneGet e.width (t0.rdV c.r) i))⟩
            | _ => none)) ∧
        (∀ q, s'.sees s.cur.unit q = left memAt (s.sees s.cur.unit) q) ∧
        (∀ i ∈ acts, ∀ l pa, place i = .mem l pa → sigHit t'.wsig (lineOf pa) = true)
    goes (.vst h e k ad c) (Addr.src ad) ∧ goes (.vsts h e k ad c) (Addr.src ad) ∧
    goes (.vscat h e k a b c sh) (SSrc.src a ++ VSrc.src b)

/-! ### Class 5 -/

/-- R248, R252–R255: a matrix command whose accumulator the strand owns (R74) and whose tiles pass CheckTile (R251) enters its core's
queue of two with what it captured, once the strand's own accesses of its scratchpad are performed, and the strand goes on; accumulators,
scratchpads and memory are as before. MOVA's destination leaves the pending set at once. (What each command then does is in EnginesRun.) -/
def Obligations.MatrixCommandsEnterTheQueue : Prop :=
  ∀ (s : State) (t : Strand) (h : Hd) (ty : MTy) (sy : StTy) (sat : Bool) (d : Fin 8) (v : Fin 32) (a b e0 e1 : SSrc) (c : Option SSrc)
    (st : SB) (x0 x1 : BitVec 16) (n ta tb k0 k1 : Nat),
    let u := s.homeUnit t
    let t0 := t.atIssue h
    let sh := shapeOf ty
    let env (o : Op) : Env := s.env t o
    let stride := (match st with | .reg r => t0.rdS r.r | .imm v => v.signExtend 64).toNat
    let goes (i : Instr) (o : Op) (m : MOp) : Prop := ∃ s' t', s.completes i t o s' t' ∧
      (s'.unit u).mq = (s.unit u).mq ++ [⟨s.nextId, t.sid, m⟩] ∧ (s'.unit u).acc = (s.unit u).acc ∧
      t'.cmds = t.cmds ++ [⟨s.nextId, .matrix, t.citing, .live, 0⟩] ∧ (∀ w q, s'.spByte w q = s.spByte w q) ∧
      (∀ q, s'.mem.read q = s.mem.read q)
    t.accs[d.val]? = some n → (s.unit u).mq.length < 2 → t.loadingOwn = false →
      (let o := opE h 12 (SSrc.src a ++ SSrc.src b) d
       s.admits t o → (env o).tile (t0.rdS a.r) x0.toNat 32 sh.ra .read = .ok ta → (env o).tile (t0.rdS b.r) x1.toNat sh.k sh.rb .read = .ok tb →
         goes (.mma h ty sat d a b x0 x1) o (.mma ty sat t.nx n ta x0.toNat tb x1.toNat)) ∧
      (let o := opE h 16 (SSrc.src a ++ SSrc.src b ++ SSrc.src e0 ++ SSrc.src e1) d
       s.admits t o → (env o).tile (t0.rdS a.r) x0.toNat 32 64 .read = .ok ta → (env o).tile (t0.rdS b.r) x1.toNat 128 16 .read = .ok tb →
         (env o).tile (t0.rdS e0.r) 16 32 16 .read = .ok k0 → (env o).tile (t0.rdS e1.r) 128 4 128 .read = .ok k1 →
           goes (.mmaBx4 h d a b e0 e1 x0 x1) o (.bx4 n ta x0.toNat tb x1.toNat k0 k1)) ∧
      (s.admits t (opE h 8 [] d) → goes (.mzero h d) (opE h 8 [] d) (.zero n)) ∧
      (let o := opE h 8 (SSrc.src a ++ SB.src st) d
       s.admits t o → (env o).tile (t0.rdS a.r) stride 32 128 .read = .ok ta → goes (.mlda h d a st) o (.lda n ta stride)) ∧
      (let o := opE h 12 (SSrc.src a ++ (match c with | some x => SSrc.src x | none => [])) d
       s.admits t o → (env o).tile (t0.rdS a.r) x0.toNat 32 (rowBytes sy) .write = .ok ta →
         (match c with | some x => (env o).tile (t0.rdS x.r) 16 8 16 .write = .ok k0 | none => k0 = 0) →
           goes (.msta h sy sat d a c x0) o (.sta sy sat t.nx n ta x0.toNat k0)) ∧
      (let o : Op := { opE h 8 (SB.src st) d with vd := some v }
       s.admits t o →
         goes (.mova h v d st) o (.mova n (stride % 64) v) ∧ ∀ s' t', exec (.mova h v d st) s = .next s' → s'.strand s.cur = some t' →
           (t'.vreg v).pend = false)

/-- R92, R248, R256, R259–R261: a copy command within its limits enters its core's queue of two, with the rights, NX and issuer it
captured, once the strand's own accesses of its scratchpad are performed, and the strand goes on; no byte changes yet.
R258, R262, R263: with no report unconsumed on the channel, CPWAIT completes when the strand has no command there, when its newest
one is done or stopped, or (with A) when the running one's write pointer has reached A; CPSTAT completes with the channel's status word
as a long-latency result, STATE, ERR and DONE in their fields. Neither changes a byte. CPWAIT changes nothing else for a strand on its home
unit, or one with no command there; on the kingpost that a strand has migrated to (R250), the copies of device memory go, so that later loads see what was delivered. (The
ERR of a strand that has no command there is log 31's.) -/
def Obligations.CopyCommandsAndTheirWaits : Prop :=
  (∀ (s : State) (t : Strand) (h : Hd) (ch : Fin 4) (d : Fin 32) (a b e0 e1 : SSrc) (imm : BitVec 32) (x0 : BitVec 16),
     let u := s.homeUnit t
     let t0 := t.atIssue h
     let A := t0.rdS a.r
     let B := t0.rdS b.r
     let D := t0.rdS d
     let E0 := t0.rdS e0.r
     let E1 := t0.rdS e1.r
     let len := (B + imm.setWidth 64).toNat
     let goes (i : Instr) (o : Op) (c : COp) : Prop := s.admits t o → ∃ s' t' k, s.completes i t o s' t' ∧
       (s'.unit u).cq = (s.unit u).cq ++ [k] ∧ k.id = s.nextId ∧ k.sid = t.sid ∧ k.ch = ch ∧ k.op = c ∧ k.dom = t.dom ∧
       k.frames = t.frames ∧ k.nx = t.nx ∧ k.part = t.part ∧ k.launch = t.launch ∧ t'.newest ch = some ⟨s.nextId, .copy ch, t.citing, .live, 0⟩ ∧
       (∀ w q, s'.spByte w q = s.spByte w q) ∧ (∀ q, s'.mem.read q = s.mem.read q)
     let o2 := op h 16 (SSrc.src a ++ SSrc.src b ++ dsrc d ++ SSrc.src e0 ++ SSrc.src e1)
     (s.unit u).cq.length < 2 → t.loadingOwn = false →
       (len ≤ 2 ^ 32 → goes (.cpy h ch d a b imm) (op h 12 (SSrc.src a ++ SSrc.src b ++ dsrc d)) (.cpy D A len) ∧
         goes (.cpfill h ch d a b imm) (op h 12 (SSrc.src a ++ SSrc.src b ++ dsrc d)) (.fill D A len)) ∧
       (B.toNat ≤ 65536 → (B.toNat ≤ 1 ∨ x0.toNat ≤ E1.toNat) → goes (.cpy2 h ch d a b e0 e1 x0) o2 (.cpy2 D A B.toNat E0 E1 x0.toNat)) ∧
       (B.toNat % 4 = 0 → E0.toNat ≤ 65536 → goes (.cpyg h ch d a b e0 e1 x0) o2 (.cpyg D A B E0.toNat E1 x0.toNat))) ∧
  (∀ (s : State) (t : Strand) (h : Hd) (ch : Fin 4) (d : Fin 32) (a : Option SSrc),
     let o := op h 8 (match a with | some x => SSrc.src x | none => [])
     let c := (s.unit (s.homeUnit t)).chan[ch]
     (t.reports.all fun r => r.ch != ch) = true →
       (s.admits t o → (∀ k, t.newest ch = some k → k.st ≠ .live ∨ ∃ x, a = some x ∧ c.runs k.id = true ∧ c.faults = [] ∧
           ((t.atIssue h).rdS x.r).toNat ≤ c.wptr.toNat) →
         (s.homeUnit t = s.cur.unit ∨ t.newest ch = none → exec (.cpwait h ch a) s = .next (s.finish t o id .seq)) ∧
         (s.homeUnit t ≠ s.cur.unit → t.newest ch ≠ none → ∃ s' t', s.completes (.cpwait h ch a) t o s' t' ∧ (∀ y, y ∈ (s'.unit s.cur.unit).l1 ↔
           y ∈ (s.unit s.cur.unit).l1 ∧ y.host = true) ∧ (∀ f ∈ (s'.unit s.cur.unit).fills, f.live = false) ∧
           (s'.unit s.cur.unit).sb = (s.unit s.cur.unit).sb ∧ s'.mem = s.mem ∧ ∀ w q, s'.spByte w q = s.spByte w q)) ∧
       (s.admits t (op h 8 []) → ∃ s' t' v, s.completes (.cpstat h ch d) t (op h 8 []) s' t' ∧ t'.waitsFor d v ∧
         (let shows (state err bytes : Nat) : Prop := v.toNat / 2 ^ 61 = state ∧ v.toNat / 2 ^ 56 % 32 = 0 ∧ v.toNat / 2 ^ 48 % 256 = err ∧
            v.toNat % 2 ^ 48 = min bytes (2 ^ 48 - 1)
          (t.newest ch = none → c.err < 256 → shows 0 c.err 0) ∧
          ∀ k, t.newest ch = some k → (k.st = .done → shows 0 0 k.bytes) ∧ (∀ e, k.st = .stopped e → e < 256 → shows 4 e k.bytes) ∧
            (k.st = .live → c.runs k.id = false → shows 1 0 0) ∧ (k.st = .live → c.runs k.id = true → c.faults = [] → shows 2 0 k.bytes) ∧
            (k.st = .live → c.runs k.id = true → c.faults ≠ [] → shows 3 0 k.bytes)) ∧
         (∀ w q, s'.spByte w q = s.spByte w q) ∧ (∀ q, s'.mem.read q = s.mem.read q)))

/-! ### Class 6 -/

/-- R234, R290, R292–R294: BAR and BARW arrive where BARS has the level and the strand holds a position, and the strand then waits, BARW
with the limit of B cycles; else they are refused with REJECT 1, and BARW gives 2. When the wait is over they complete, BARW with its
outcome in D.
R197, R295: WAITF of a word of the strand's own scratchpad gives 0 when its full bit is set, or was set while it waited; otherwise the strand waits, to the
limit of B cycles; when that has passed it gives 1.
R345: IDLE gives 0 where the context's wake flag is set, which it clears; otherwise it waits, to the limit of B cycles, and gives 1
when that has passed.
R302: in a DET launch VTADV adds B to VTIME, which saturates; outside one it is the trap ILLEGAL. What waits keeps the line that it was
fetched from. (That WAITF gives 0 where the bit was set while it waited, whatever became of it since, is log 36's; that a limit is measured by
CYCLE of the home's island is log 4's.) -/
def Obligations.WaitsAndVirtualTime : Prop :=
  (∀ (s : State) (t : Strand) (h : Hd) (lvl : Scope) (d : Fin 32) (b : SB) (r : Nat),
     let o := op h 8 []
     let ob := op h 8 (SB.src b)
     let limit := (match b with | .reg x => (t.atIssue h).rdS x.r | .imm v => v.setWidth 64).toNat
     let cycle := (s.island (uisland (s.homeUnit t))).cycle
     let may : Bool := t.barPos && (match s.launch t.launch with | some l => l.pkt.bars.getLsbD lvl.code | none => false)
     let waits (n : Option Nat) : State := s.taken.setStrand s.cur
       { t with arrived := some lvl, limit := n, fetched := s.lineAt s.cur t, hold := some .barrier }
     (s.admits t o → (t.res = none → may = true → exec (.bar h lvl) s = .next (waits none)) ∧
       (t.res = none → may = false → exec (.bar h lvl) s = .next (s.finish t o (fun u => { u with reject := 1 }) .seq)) ∧
       (t.res = some r → exec (.bar h lvl) s = .next (s.finish t o id .seq))) ∧
     (s.admits t ob → (t.res = none → may = true → exec (.barw h lvl d b) s = .next (waits (some (cycle + limit)))) ∧
       (t.res = none → may = false → exec (.barw h lvl d b) s = .next (s.finish t ob (fun u => ({ u with reject := 1 } : Strand).wrS d 2) .seq)) ∧
       (t.res = some r → exec (.barw h lvl d b) s = .next (s.finish t ob (fun u => u.wrS d (BitVec.ofNat 64 r)) .seq)))) ∧
  (∀ (s : State) (t : Strand) (h : Hd) (d : Fin 32) (a : SSrc) (b : SB) (off r : Nat),
     let o := op h 8 (SSrc.src a ++ SB.src b)
     let t0 := t.atIssue h
     let limit := (match b with | .reg x => t0.rdS x.r | .imm v => v.setWidth 64).toNat
     let u := s.homeUnit t
     s.admits t o →
       (t.res = some r → exec (.waitf h d a b) s = .next (s.finish t o (fun x => x.wrS d (BitVec.ofNat 64 r)) .seq)) ∧
       (t.res = none → t.rem = [] → t.limit = none → s.taken.check (who s.cur t) (t0.rdS a.r) 8 8 .read .full = .ok (.own off) →
         ((fullBit (s.unit u) (off / 8) = true ∧ s.ownLate u = false) ∨ t.seen.isSome = true →
           exec (.waitf h d a b) s = .next (s.finish t o (fun x => x.wrS d 0) .seq)) ∧
         (fullBit (s.unit u) (off / 8) = false → s.ownLate u = false → t.seen = none → exec (.waitf h d a b) s = .next (s.taken.setStrand s.cur
           { t with
             limit := some ((s.island (uisland u)).cycle + limit), fetched := s.lineAt s.cur t
             hold := some (.timed (some (ukey u, off / 8))) })))) ∧
  (∀ (s : State) (t : Strand) (h : Hd) (d : Fin 32) (b : SB) (r : Nat),
     let o := opP h 8 (SB.src b)
     let limit := (match b with | .reg x => (t.atIssue h).rdS x.r | .imm v => v.setWidth 64).toNat
     let u := s.cur.unit
     let gives (v : Word) : State :=
       s.finishIn (s.taken.modUnit u fun x => { x with wake := x.wake.filter (· != s.cur.ctx) }) t o (fun x => x.wrS d v) .seq
     s.admits t o →
       ((s.unit u).wake.contains s.cur.ctx = true → exec (.idle h d b) s = .next (gives 0)) ∧
       ((s.unit u).wake.contains s.cur.ctx = false →
         (t.res = some r → exec (.idle h d b) s = .next (gives 1)) ∧
         (t.res = none → t.preempt = false → t.limit = none → ∃ safe, exec (.idle h d b) s = .next (s.taken.setStrand s.cur
           { t with
             limit := some ((s.island (uisland (s.homeUnit t))).cycle + limit), fetched := s.lineAt s.cur t
             hold := some (.idle (ukey u) s.cur.ctx safe) })))) ∧
  (∀ (s : State) (t : Strand) (h : Hd) (b : SB),
     let o := op h 8 (SB.src b)
     let n := (match b with | .reg x => (t.atIssue h).rdS x.r | .imm v => v.setWidth 64).toNat
     let det := match s.launch t.launch with | some l => l.pkt.det | none => false
     s.admits t o →
       (det = true → exec (.vtadv h b) s = .next (s.finish t o (fun u => { u with vtime := min (2 ^ 64 - 1) (u.vtime + n) }) .seq)) ∧
       (det = false → exec (.vtadv h b) s = .next (s.taken.raise s.cur t 0x01 0 0 0 0 (t.pc + BitVec.ofNat 64 (h.after 8)) 0)))

/-- R282, R296, R299, R300, R303, R362: SEND puts the message of o0–o3 on its way to the core, host queue or collective that A and C
name, and POST its deposit, with the count of what has been sent as their sequence; UNACK rises by one and nothing else changes. A target
that is no core of the partition is the trap TARGET. (The one count of the sequence, the function of a strand without a live launch, and that
bits 63:24 of C are not looked at, are log 61's.) -/
def Obligations.MessagesAreSent : Prop :=
  ∀ (s : State) (t : Strand) (h : Hd) (a c : SSrc) (off : BitVec 32) (b : SB) (pkg pc : Nat),
    let os := op h 12 (SSrc.src a ++ SSrc.src c ++ msgSrc)
    let op' := op h 8 (SSrc.src a ++ SB.src b)
    let t0 := t.atIssue h
    let A := (t0.rdS a.r).toNat
    let C := (t0.rdS c.r).toNat
    let key := match s.homeUnit t with | .core _ => t.lcore | .kp n => 2 ^ 18 + n
    let ts := if (match s.launch t.launch with | some l => l.pkt.det | none => false) then t.vtime + 1 else 0
    let m : Message := ⟨#v[t0.rdS 8, t0.rdS 9, t0.rdS 10, t0.rdS 11], t.pc + off.signExtend 64 * 4, key, t.launch, t.nx, t.dom, ts,
      t.born, s.nextId, t.part, A, BitVec.ofNat 64 key, none⟩
    let sent (o : Op) (f : Flight) : State :=
      s.finishIn (s.taken.send f) t o (fun u => { u with unack := u.unack + 1 }) .seq
    let vf := match s.launch t.launch with | some l => l.pkt.vf | none => s.vfOf t.part
    (s.admits t os → A < 0x3_FF00 → s.coreAt t.part A = some (pkg, pc) →
      (C = 0 → exec (.send h a c off) s = .next (sent os (.message t.sid pkg pc m))) ∧
      (C ≠ 0 → exec (.send h a c off) s = .next (sent os (.collective t.sid (C % 2 ^ 16) (C / 2 ^ 16 % 256) A m)))) ∧
    (s.admits t os → 0x3_FF00 ≤ A → A < 2 ^ 18 → C = 0 →
      exec (.send h a c off) s = .next (sent os (.hostMsg t.sid vf (A - 0x3_FF00) m))) ∧
    (s.admits t op' → A < 2 ^ 24 → s.coreAt t.part (A % 2 ^ 18) = some (pkg, pc) →
      exec (.post h a b) s = .next (sent op' (.deposit t.sid pkg pc ⟨0, ⟨A / 2 ^ 21 % 8, Nat.mod_lt _ (by decide)⟩, A / 2 ^ 18 % 8,
        (match b with | .reg x => t0.rdS x.r | .imm v => v.signExtend 64), t.nx, ts, key, t.born, s.nextId, t.launch, none⟩))) ∧
    (s.admits t os → (2 ^ 18 ≤ A ∨ (A < 0x3_FF00 ∧ s.coreAt t.part A = none)) → exec (.send h a c off) s =
      .next (s.taken.raise s.cur t 0x13 0 0 0 0 (t.pc + BitVec.ofNat 64 (h.after 12)) 0))

/-- R308: CNEW copies the image at A, here within one page and on lines of the partition in the L2, into a new capsule that enters the
fabric: LEN is the length of the payload, NX and DOM are the issuer's, and PARK is zero. The strand goes on and memory is as before.
R336, R343: CREINJ frees park slot k of the partition, and its capsule, read from the park area with PARK zero, enters the fabric, or
retires where its NEXT is 0xFF. (That PARK is cleared in the capsule that re-enters, and the bytes of the park slot stay, is log 33's.) -/
def Obligations.CapsulesEnterTheFabric : Prop :=
  (∀ (s : State) (t : Strand) (h : Hd) (a : SSrc) (len : BitVec 32) (l : Leaf) (pa : Nat),
     let o := op h 12 (SSrc.src a)
     let p := (t.atIssue h).rdS a.r
     let n := len.toNat
     let img := Memory.readBytes s.mem pa 256
     let pfx := img.take 0x1A ++ [BitVec.ofNat 8 ((img.getD 0x1A 0).toNat / 2 * 2 + t.nx.toNat), t.dom] ++ bytesOf 4 n ++ bytesOf 8 0 ++
       img.drop 0x28
     let ts := if (match s.launch t.launch with | some l => l.pkt.det | none => false) then t.vtime + 1 else 0
     let c : Capsule := ⟨pfx, Memory.readBytes s.mem (pa + 256) n, t.launch, t.part, ts, some (capBy s.cur t t.pc)⟩
     s.admits t o → p.toNat % 256 = 0 → n % 256 = 0 → 256 ≤ n → n ≤ 16384 → p.toNat % 65536 + 256 + n ≤ 65536 →
     s.taken.check (who s.cur t) p (256 + n) 1 .read .plain = .ok (.mem l pa) → (s.unit s.cur.unit).sb = [] →
     (∀ i, i < 256 + n → paKind (pa + i) = .mem ∧ s.plainLine t.part (lineOf (pa + i)) ∧ s.pushHeld (lineOf (pa + i)) = false) →
     t.loadingAt false pa (256 + n) = false →
       exec (.cnew h a len) s = .next (s.finishIn (s.taken.enterFabric c) t o id .seq)) ∧
  (∀ (s : State) (t : Strand) (h : Hd) (a : SSrc) (slot : ParkSlot),
     let o := opP h 8 (SSrc.src a)
     let k := ((t.atIssue h).rdS a.r).toNat
     let P := s.part t.part
     let pa := P.parkbase.toNat + 17408 * k + 0x100
     let img := Memory.readBytes s.mem pa 256
     let len := min (Memory.readN s.mem (pa + 0x1C) 4) 16384
     let c : Capsule := ⟨img.take 0x20 ++ bytesOf 8 0 ++ img.drop 0x28, Memory.readBytes s.mem (pa + 256) len, slot.launch, t.part, slot.ts,
       some (capBy s.cur t t.pc)⟩
     let s1 := s.taken.modPart t.part fun x => { x with parks := x.parks.filter fun y => y.slot != k }
     s.admits t o → (P.parks.find? fun x => x.slot == k) = some slot → (s.unit s.cur.unit).sb = [] → t.loadingAt false pa 17152 = false →
     (∀ i, i < 17152 → s.pushHeld (lineOf (pa + i)) = false) →
     (∀ i, i < 256 + len → paKind (pa + i) = .mem ∧ s.plainLine t.part (lineOf (pa + i))) →
       exec (.creinj h a) s = .next (s.finishIn (if img[0x19]? = some 0xFF then s1 else s1.enterFabric c) t o id .seq))

/-- R305, R309, R310: in the prefix of the capsule a strand holds, CGET reads word B; CINS, CDEL and CSET insert, delete and replace
stop k = STOP + 1 + J and adjust STOPS, where DOM is the strand's own domain; no other byte of memory or scratchpad changes. -/
def Obligations.CapsuleItineraryChanges : Prop :=
  ∀ (s : State) (t : Strand) (h : Hd) (d : Fin 32) (a b : SSrc) (sb : SB) (off : BitVec 32) (k : HeldCap),
    let u := s.homeUnit t
    let t0 := t.atIssue h
    let base := mortOff u (s.unit u) k.mort.val
    let old (i : Nat) : Byte := s.spByte u (base + i)
    let stops := (old 0x18).toNat
    let n := (match sb with | .reg x => t0.rdS x.r | .imm v => v.setWidth 64).toNat
    let stop (i : Nat) : Byte := if i < 8 then byteOf (t.pc + off.signExtend 64 * 4).toNat i else byteOf (t0.rdS a.r).toNat (i - 8)
    let goes (i : Instr) (o : Op) (new : Nat → Byte) : Prop := ∃ s' t', s.completes i t o s' t' ∧
      (∀ q, s'.spByte u q = if base ≤ q ∧ q < base + 256 then new (q - base) else s.spByte u q) ∧
      (∀ v q, ukey v ≠ ukey u → s'.spByte v q = s.spByte v q) ∧ (∀ q, s'.mem.read q = s.mem.read q)
    s.memWf → t.cap = some k → s.ownLate u = false →
      (s.admits t (op h 8 (SB.src sb)) → n ≤ 31 → spPoisoned (s.unit u) (base + 8 * n) 8 = false → exec (.cget h d sb) s =
        .next (s.finish t (op h 8 (SB.src sb)) (fun x => x.wrS d (BitVec.ofNat 64 (Memory.readN (s.unit u).sp (base + 8 * n) 8))) .seq)) ∧
      (t.dom = old 0x1B → stops ≤ 12 →
        (let o := op h 12 (SSrc.src a ++ SSrc.src b)
         let j := k.stop + 1 + (t0.rdS b.r).toNat
         s.admits t o → placeOk (t0.rdS a.r).toNat = true →
          (j ≤ stops → stops < 12 → goes (.cins h a b off) o fun i => if i = 0x18 then BitVec.ofNat 8 (stops + 1)
            else if i < 0x40 + 16 * j then old i else if i < 0x50 + 16 * j then stop (i - (0x40 + 16 * j)) else old (i - 16)) ∧
          (j < stops → goes (.cset h a b off) o fun i =>
            if 0x40 + 16 * j ≤ i ∧ i < 0x50 + 16 * j then stop (i - (0x40 + 16 * j)) else old i)) ∧
        (let o := op h 8 (SSrc.src a)
         let j := k.stop + 1 + (t0.rdS a.r).toNat
         s.admits t o → j < stops → goes (.cdel h a) o fun i => if i = 0x18 then BitVec.ofNat 8 (stops - 1)
            else if i < 0x40 + 16 * j then old i else if i < 240 then old (i + 16) else 0))

/-- R303, R306, R311, R312: CSHIP sends the held capsule, read out of its mortise with NEXT the next stop and the strand's NX, to the
core of that stop (here one whose place names a logical core of this package); CDONE begins its retirement under the rights captured
here. The mortise is free, and the strand goes on without the capsule. -/
def Obligations.CapsulesLeaveTheirMortise : Prop :=
  ∀ (s : State) (t : Strand) (h : Hd) (k : HeldCap) (m : Mort) (pc : Nat),
    let o := op h 8 []
    let u := s.homeUnit t
    let base := mortOff u (s.unit u) k.mort.val
    let rd (i n : Nat) : Nat := Memory.readN (s.unit u).sp (base + i) n
    let ts := if (match s.launch t.launch with | some l => l.pkt.det | none => false) then t.vtime + 1 else 0
    let dest := rd (0x48 + 16 * (k.stop + 1)) 8
    let leaves (i : Instr) (s' : State) (t' : Strand) : Prop := s.completes i t o s' t' ∧ t'.cap = none ∧
      (s'.unit u).mort[k.mort] = none ∧ (∀ q, s'.mem.read q = s.mem.read q) ∧ (∀ v q, s'.spByte v q = s.spByte v q)
    s.admits t o → t.cap = some k → (s.unit u).mort[k.mort] = some m → t.matrixBusy = false → s.ownLate u = false →
      (k.stop < 11 → k.stop + 1 ≠ rd 0x18 1 → dest % 4 = 0 → s.coreAt m.part (dest / 4 % 2 ^ 18) = some (s.pkgNo, pc) →
        ∃ s' t' c, leaves (.cship h) s' t' ∧ NMap.find s'.flights s.nextId = some (.hop pc (dest / 4 % 2 ^ 18) (k.stop + 1) c) ∧
          c.launch = m.launch ∧ c.part = m.part ∧ c.ts = ts ∧ c.payload = Memory.readBytes (s.unit u).sp (base + 256) (rd 0x1C 4) ∧
          c.pfx.length = 256 ∧ ∀ i, i < 256 → c.pfx[i]? = some (if i = 0x19 then BitVec.ofNat 8 (k.stop + 1)
            else if i = 0x1A then BitVec.ofNat 8 (rd 0x1A 1 / 2 * 2 + t.nx.toNat) else s.spByte u (base + i))) ∧
      ∃ s' t' r, leaves (.cdone h) s' t' ∧ NMap.find s'.retires s.nextId = some r ∧ r.pos = 0 ∧ r.dom = t.dom ∧ r.frames = t.frames ∧
        r.cap.launch = m.launch ∧ r.cap.part = m.part ∧ r.cap.pfx = Memory.readBytes (s.unit u).sp base 256 ∧
        r.cap.payload = Memory.readBytes (s.unit u).sp (base + 256) (rd 0x1C 4) ∧
        t'.cmds = t.cmds ++ [⟨s.nextId, .retire, t.citing, .live, 0⟩]

/-! ### Class 7 -/

/-- R131, R132, R339: MFC writes the control register to D. Reading REJECT, FLOST or FBTAIL has the effect beside that R339 gives it. -/
def Obligations.ControlRegistersRead : Prop :=
  ∀ (s : State) (t : Strand) (h : Hd) (d : Fin 32) (ch : Fin 4) (i : Fin 32),
    let u := s.homeUnit t
    let x := s.unit u
    let T := s.tile (utile u)
    let D := s.die (udie u)
    let o (n : Nat) : Op := { op h 8 [] with priv := decide (0x100 ≤ n) }
    let reads (n : Nat) (v : Nat) : Prop := s.admits t (o n) →
      exec (.mfc h d (BitVec.ofNat 12 n)) s = .next (s.finish t (o n) (fun y => y.wrS d (BitVec.ofNat 64 v)) .seq)
    reads 0x000 (homeOf s.cur t).ctx ∧ reads 0x001 (match u with | .core _ => t.lcore | .kp n => 2 ^ 18 + n) ∧
    reads 0x002 (match u with | .core p => p | .kp n => 2 ^ 10 + n / 8 * 2 ^ 8 + n % 8 * 2 ^ 5) ∧ reads 0x003 t.part ∧
    reads 0x004 t.dom.toNat ∧ reads 0x005 t.caller.toNat ∧ reads 0x006 t.launch ∧ reads 0x008 t.nx.toNat ∧
    reads 0x009 t.fflags.toNat ∧ reads 0x00A t.vtime ∧
    reads 0x00B (match s.launch t.launch with | some l => if l.pkt.det then l.horizon else 0 | none => 0) ∧
    reads 0x00C t.unack ∧ reads 0x00D t.strict.toNat ∧ (∀ k, t.cap = some k → reads 0x00E t.capId.toNat ∧ reads 0x00F k.stop ∧
      reads 0x010 (0x7F_FFFF_FFC0_0000 + mortOff u x k.mort.val)) ∧
    (t.cap = none → reads 0x00E 0 ∧ reads 0x00F 0 ∧ reads 0x010 0) ∧ reads 0x011 (s.island (uisland u)).cycle ∧
    reads (0x012 + ch.val) x.chan[ch].wptr.toNat ∧ reads 0x100 x.wbs.toNat ∧ (isKp u = false → reads 0x101 x.split.toNat) ∧
    (isKp u = true → reads 0x101 3) ∧ reads 0x102 T.trapbase.toNat ∧ reads 0x103 s.pgrace.toNat ∧ reads 0x104 s.replup.toNat ∧
    reads 0x105 s.replwmax.toNat ∧ reads 0x106 s.repldown.toNat ∧ reads 0x107 T.actfc.toNat ∧ reads 0x108 D.fbhead.toNat ∧
    reads 0x10A D.fovf.toNat ∧ reads 0x10C s.snapctl.toNat ∧ reads (0x110 + i.val) x.sect[i].toNat ∧
    (s.admits t (o 0x016) → exec (.mfc h d 0x016) s =
      .next (s.finish t (o 0x016) (fun y => ({ y with reject := 0 } : Strand).wrS d (t.reject.setWidth 64)) .seq)) ∧
    (s.admits t (o 0x10B) → exec (.mfc h d 0x10B) s = .next (s.finishIn (s.taken.modDie (udie u) fun d => { d with flost := 0 }) t (o 0x10B)
      (fun y => y.wrS d (BitVec.ofNat 64 D.flost)) .seq)) ∧
    (s.admits t (o 0x109) → exec (.mfc h d 0x109) s = .next (s.finishIn (s.taken.fullInval s.cur.unit) t (o 0x109)
      (fun y => ({ y with wsig := BitVec.allOnes 2048 } : Strand).wrS d D.fbtail) .seq))

/-- R98, R131, R132, R196, R339: MTC in domain 0 writes the control register where the value is within its limits, and is the trap
ILLEGAL where it is not. VTIME only rises; FOVF clears by writing 1; SPLIT, on a core whose only strand is the writer, clears the L1
and the scratchpad. -/
def Obligations.ControlRegistersWritten : Prop :=
  ∀ (s : State) (t : Strand) (h : Hd) (a : SSrc) (i : Fin 32),
    let u := s.homeUnit t
    let x := (t.atIssue h).rdS a.r
    let D := s.die (udie u)
    let o := opP h 8 (SSrc.src a)
    let det := match s.launch t.launch with | some l => l.pkt.det | none => false
    let writes (n : Nat) (ok : Prop) (r : State) : Prop := s.admits t o → (ok → exec (.mtc h a (BitVec.ofNat 12 n)) s = .next r) ∧
      (¬ ok → exec (.mtc h a (BitVec.ofNat 12 n)) s = .next (s.taken.raise s.cur t 0x01 0 0 0 0 (t.pc + BitVec.ofNat 64 (h.after 8)) 0))
    let own (f : Strand → Strand) : State := s.finish t o f .seq
    let all (s1 : State) : State := s.finishIn s1 t o id .seq
    writes 0x008 (x.toNat < 2) (own fun y => { y with nx := x.getLsbD 0 }) ∧
    writes 0x009 (x.toNat < 32) (own fun y => { y with fflags := x.setWidth 5 }) ∧
    writes 0x00A (det = true) (own fun y => { y with vtime := max y.vtime x.toNat }) ∧
    writes 0x00D (x.toNat < 2) (own fun y => { y with strict := x.getLsbD 0 }) ∧
    writes 0x100 (x.toNat % 2 ^ 21 = 0) (all (s.taken.modUnit u fun y => { y with wbs := x })) ∧
    writes 0x102 (x.toNat % 2 ^ 13 = 0) (all (s.taken.modTile (utile u) fun y => { y with trapbase := x })) ∧
    writes 0x103 (x ≠ 0) (all { s.taken with pgrace := x }) ∧
    writes 0x104 True (all { s.taken with replup := x }) ∧ writes 0x105 True (all { s.taken with replwmax := x }) ∧
    writes 0x106 True (all { s.taken with repldown := x }) ∧
    writes 0x108 (D.fbhead.toNat ≤ x.toNat ∧ x.toNat ≤ D.fbtail.toNat) (all (s.taken.modDie (udie u) fun d => { d with fbhead := x })) ∧
    writes 0x10A (x.toNat < 2) (all (s.taken.modDie (udie u) fun d => { d with fovf := d.fovf && !x.getLsbD 0 })) ∧
    writes 0x10C (x.toNat < 2 ^ 16 ∧ x.toNat / 16 % 16 = 0) (all { s.taken with snapctl := (s.snapctl &&& 0xFF00) ||| BitVec.ofNat 16 (x.toNat % 16) }) ∧
    writes (0x110 + i.val) (x.toNat < 2 ^ 10) (all (s.taken.modUnit u fun y => { y with sect := y.sect.set i (x.setWidth 10) })) ∧
    ((s.unit s.cur.unit).sb = [] → s.ownLate u = false →
      let y := s.unit s.cur.unit
      writes 0x101 (x.toNat < 4 ∧ isKp s.cur.unit = false ∧ y.strands.length = 1 ∧ y.resvAcc = [] ∧ y.resvSp = none ∧ y.mort[0] = none ∧
          y.mort[1] = none ∧ y.inbox = [])
        (all (s.taken.modUnit s.cur.unit fun y => { y with
          split := x.setWidth 2, l1 := [], fills := y.fills.map (fun f => { f with live := false }), sp := [], full := [], spPoison := [] })))

/-- R98: in a domain other than 0, an instruction of domain 0 is the trap PRIV, with no other effect; here MFC reads a special register of
R132, and MTC writes one that R131 or R132 lets be written. (An MTC whose value sets a reserved bit is PRIV too, where R133 says ILLEGAL in
every domain: the model takes the order of R338, log 64.) -/
def Obligations.PrivilegedInstructionsTrapOutsideDomain0 : Prop :=
  ∀ (s : State) (t : Strand) (h : Hd) (a b : SSrc) (sb : SB) (d : Fin 32) (r : BitVec 12) (next : Bool),
    let traps (i : Instr) : Prop :=
      exec i s = .next (s.taken.raise s.cur t 0x04 0 0 0 0 (t.pc + BitVec.ofNat 64 (h.after 8)) 0)
    let n := r.toNat
    let sect : Prop := 0x110 ≤ n ∧ n ≤ 0x12F
    s.strand s.cur = some t → t.dom ≠ 0 →
      ((0x100 ≤ n ∧ n ≤ 0x10C) ∨ sect → traps (.mfc h d r)) ∧
      (n ∈ [0x008, 0x009, 0x00A, 0x00D, 0x100, 0x101, 0x102, 0x103, 0x104, 0x105, 0x106, 0x108, 0x10A, 0x10C] ∨ sect → traps (.mtc h a r)) ∧ traps (.eret h next) ∧ traps (.tlbiAll h) ∧ traps (.tlbiVa h a) ∧
      traps (.tlbiIpa h a) ∧ traps (.sectTag h a b) ∧ traps (.sectZero h a) ∧ traps (.sectClrp h a) ∧ traps (.creinj h a) ∧
      traps (.snap h) ∧ traps (.idle h d sb) ∧ traps (.resume h a sb)

/-- R319, R320, R322, R340: ERET leaves the handler window: the window below is current with its o registers restored, the depth falls
by one, and the strand is ready to return to the pc, or with N the next pc, of its trap record. With S = 1 it is a safe point, at which a
strand that is asked to suspend is saved and goes on, when it is restored, at that pc; which is log 23's, since R105 does not say where it
goes on. Here both windows are resident, and the record is on a line of the partition in the L2. -/
def Obligations.EretLeavesTheHandler : Prop :=
  ∀ (s : State) (t : Strand) (h : Hd) (next : Bool) (k : Handler) (w w' : Window) (ws : List Window) (l : Leaf) (pa : Nat),
    s.admits t { op h 8 [] with priv := true, falls := false } → t.handler = some k → t.crossings ≤ k.cross → t.depth = k.depth →
    t.lates = [] → s.calm t → (t.atIssue h).wins = w :: w' :: ws → (s.unit s.cur.unit).sb = [] →
    s.taken.zeroPlace (who s.cur t) (k.recd + (if next then 16 else 8)) .read = .ok (l, pa) → paKind pa = .mem → pa % 8 = 0 →
    s.plainLine t.part (lineOf pa) → s.pushHeld (lineOf pa) = false →
      ∃ s' t', exec (.eret h next) s = .next s' ∧ s'.strand s.cur = some t' ∧ t'.handler = none ∧ t'.returning = true ∧ t'.hold = none ∧
        t'.saving = (if h.live.isSome && t.preempt then some t'.pc else none) ∧
        t'.pc = BitVec.ofNat 64 (Memory.readN s.mem pa 8) ∧ t'.wins = w' :: ws ∧ t'.o = w.i ∧ t'.depth = k.depth - 1 ∧
        t'.v = (t.atIssue h).v ∧ t'.k = (t.atIssue h).k ∧ t'.g = (t.atIssue h).g ∧ (∀ q, s'.mem.read q = s.mem.read q)

/-- R220, R341: TLBI invalidates, on every die, the cached translations of the issuer's partition that its kind names, and no other: all,
those of a page or of the block that holds it, and those whose walk used the stage-2 leaf that holds an IPA. Here every access that used a
translation of the partition has been performed. -/
def Obligations.TlbiInvalidates : Prop :=
  ∀ (s : State) (t : Strand) (h : Hd) (a : SSrc),
    let x := (t.atIssue h).rdS a.r
    let page := x.toNat / 65536
    let drops (i : Instr) (o : Op) (hit : TlbEntry → Prop) : Prop :=
      s.admits t o → s.calm t → s.usesLeft t.part = false → ∃ s' t', s.completes i t o s' t' ∧
        ∀ e, e ∈ s'.tlb ↔ e ∈ s.tlb ∧ ¬ (e.part = t.part ∧ hit e)
    drops (.tlbiAll h) (opP h 8 []) (fun _ => True) ∧
    (x.toNat < 2 ^ 55 → drops (.tlbiVa h a) (opP h 8 (SSrc.src a)) (fun e => e.vpage / e.span = page / e.span) ∧
      drops (.tlbiIpa h a) (opP h 8 (SSrc.src a)) (fun e => ∃ y ∈ e.ipas, y.1 / y.2 = page / y.2))

/-- R94, R97, R342: SECT.TAG writes the register of the own scratchpad's section that A lies in, and changes nothing else; SECT.ZERO, here
with no command or access under way that was checked against the section, makes its bytes zero with their full bits clear, and changes
nothing but that and their poison; SECT.CLRP makes a line of device memory zero at its home, and leaves its poison and its L2 entry behind;
no other byte but that of the page's dirty bit (R354), no other line and no scratchpad changes. (That the cleared line joins the strand's
write signature is the model's choice, log 57: R272 does not list it.) -/
def Obligations.SectionsAreTaggedAndCleared : Prop :=
  ∀ (s : State) (t : Strand) (h : Hd) (a b : SSrc) (off : Nat) (n : Fin 32) (l : Leaf) (pa : Nat),
    let u := s.homeUnit t
    let va := (t.atIssue h).rdS a.r
    let v := (t.atIssue h).rdS b.r
    let o1 := opP h 8 (SSrc.src a)
    let o2 := opP h 8 (SSrc.src a ++ SSrc.src b)
    s.calm t →
      (regionOf va = .own off → off < spSize u (s.unit u) → off / 65536 = n.val →
        (s.admits t o2 → v.toNat < 2 ^ 10 → exec (.sectTag h a b) s =
          .next (s.finishIn (s.taken.modUnit u fun x => { x with sect := x.sect.set n (v.setWidth 10) }) t o2 id .seq)) ∧
        (s.admits t o1 → n.val + 1 ≠ spSize u (s.unit u) / 65536 → s.sectBusy (ukey u) n.val = false →
          (∀ e ∈ s.allStrands, e.2.loadingOwn = false ∧ ∀ p, u = .core p → e.2.loadingFar p (65536 * n.val) 65536 = false) →
          ∃ s' t', s.completes (.sectZero h a) t o1 s' t' ∧
          s' = s.finishIn (s.taken.modUnit u fun x => { x with sp := (s'.unit u).sp, full := (s'.unit u).full, spPoison := (s'.unit u).spPoison })
            t o1 id .seq ∧
          (∀ q, s'.spByte u q = if q / 65536 = n.val then 0 else s.spByte u q) ∧
          (∀ q, fullBit (s'.unit u) q = (fullBit (s.unit u) q && 8 * q / 65536 != n.val)) ∧ (∀ q, s'.mem.read q = s.mem.read q))) ∧
      (s.memWf → s.admits t o1 → t.res = none → va.toNat % 128 = 0 → regionOf va = .paged →
        s.taken.check (who s.cur t) va 128 128 .write .plain = .ok (.mem l pa) → paKind pa = .mem → pa % 128 = 0 →
        s.quietLine s.cur.unit t (lineOf pa) → s.hostHas (lineOf pa) fullMask = false →
        s.uncopied (lineOf pa) = true → (s.die (homeDie (lineOf pa))).failed = false →
          ∃ s' t', s.completes (.sectClrp h a) t o1 s' t' ∧
            (∀ q, s'.mem.read q = s.withBit t.part pa q (if lineOf q = lineOf pa then 0 else s.mem.read q)) ∧
            (∀ k, k ≠ lineOf pa → s'.line k = s.line k) ∧ (∀ w q, s'.spByte w q = s.spByte w q) ∧
            s'.line (lineOf pa) = ⟨none, false, false, .key t.part (s.keyGen t.part), none⟩ ∧ t'.wsig = sigAdd t.wsig (lineOf pa))

/-- R344, R369: a source of the common trigger, the host's and the fabric's among them, latches every block when ARM and the source's bit are
set: of all 1,056 cores and kingposts CYCLE, the contexts' pcs and states, and the store buffer's and queues' occupancies, and every
slice's counters. ARM then clears and COUNT rises; otherwise it changes nothing. SNAP, which releases first, does it for its own source
then: ARM clears and a snapshot is there; otherwise it leaves both as they are. (The occupancy of the queues as the sum of the pinned
queue, the inbox and the two engine queues, and the form of a snapshot and of a context's state in it, are log 46's.) -/
def Obligations.SnapshotTriggers : Prop :=
  ∀ (s : State) (t : Strand) (h : Hd) (src : SnapSrc) (v : Word),
    let armed (n : Nat) : Bool := s.snapctl.getLsbD 0 && s.snapctl.getLsbD n
    let latched (n : Nat) (s' : State) : Prop :=
      (armed n = true → s'.snapctl.getLsbD 0 = false ∧ s'.snapctl.toNat / 256 = (s.snapctl.toNat / 256 + 1) % 256 ∧
        s'.snapctl.toNat % 256 = s.snapctl.toNat % 256 - 1 ∧ ∃ x, s'.snaps = some x ∧ x.cnts = s.slices ∧
        x.cores = (List.range 1056).map fun k => let z := s.unit (uref k)
          ⟨k, (s.island (uisland (uref k))).cycle, z.strands.map fun t => ⟨t.1, t.2.pc, s.ctxState ⟨uref k, t.1⟩ t.2⟩, z.sb.length,
            z.pinned.q.length + z.inbox.length + z.mq.length + z.cq.length⟩) ∧
      (armed n = false → s' = s) ∧ s'.units = s.units
    let bit := match src with | .instr => 1 | .host => 2 | .fabric => 3
    (∃ s', exec (.snapshotLatch src) s = .next s' ∧ latched bit s') ∧
    (s.ready = true → v.getLsbD 0 = true → ∃ s', exec (.snaptrig v) s = .next s' ∧ latched 2 s') ∧
    (s.admits t (opP h 8 []) → s.calm t → ∃ s' t', s.completes (.snap h) t (opP h 8 []) s' t' ∧
      (armed 1 = true → s'.snapctl.getLsbD 0 = false ∧ s'.snaps.isSome = true) ∧ (armed 1 = false → s'.snapctl = s.snapctl ∧ s'.snaps = s.snaps))

/-! ### Events of the host, the front end and scheduling -/

/-- R6, R63, R65, R67, R70, R345, R353–R357, R365, R366, R368: what a write of each of these registers does once READY is set, and that
a read of an RC register returns its value and clears it. A read of DBGDATA returns the word that the selected index shows (which word of
a block that is, and the form of tags and states, is the implementation's: log 60), zero for a data word of a partition whose VF's TDI is in
RUN or from a block that is not in the table; it shows no key, and disturbs nothing. (The TDISP transitions are the model's, log 18; what
DEVSTAT.RST leaves at once, memory with nothing listed and the host's memory as it was, is log 46's.) -/
def Obligations.HostRegisterAccesses : Prop :=
  ∀ (s : State) (v : Word) (p n vf fn pcore kp : Nat) (req : TdispReq), s.ready = true →
    -- SLOTUNMAP
    ((s.slot (v.toNat % 64)).st = .idle → exec (.slotunmap v) s = .next (s.setSlot (v.toNat % 64) Slot.reset)) ∧
    ((s.slot (v.toNat % 64)).st ≠ .idle → exec (.slotunmap v) s = .next s) ∧
    -- LNRESV and LNFREE
    (s.fnPart fn = some p →
      let used := s.launches.map Prod.fst ++ s.resvs.map Resv.num
      (v.toNat % 128 = 0 → (∀ r ∈ s.resvs, ¬ (r.part = p ∧ r.va = v)) → 1 ≤ n → n ≤ 16383 → n ∉ used → (∀ m, 1 ≤ m → m < n → m ∈ used) →
        exec (.lnresv fn v) s = .next (({ s with resvs := s.resvs ++ [⟨p, v, n⟩] } : State).modFn fn fun x =>
          { x with resvLatch := BitVec.ofNat 64 (2 ^ 63 + n) })) ∧
      exec (.lnfree fn v) s = .next { s with resvs := s.resvs.filter fun r => !(r.part == p && r.num == v.toNat % 2 ^ 14) }) ∧
    -- CORETAG and KPTAG
    (let x := s.unit (.core pcore)
     (x.idle = true → s.homesHere (.core pcore) = false → ∃ s', exec (.coretagWrite pcore v) s = .next s' ∧
        (s'.unit (.core pcore)).en = v.getLsbD 7 ∧ (s'.unit (.core pcore)).tag = v.toNat % 64 ∧
        (v.toNat % 64 ≠ x.tag → (s'.unit (.core pcore)).l1 = [] ∧ (s'.unit (.core pcore)).ic = [] ∧ (s'.unit (.core pcore)).acqTab = [])) ∧
     (x.idle = false → exec (.coretagWrite pcore v) s = .next s)) ∧
    (((s.unit (.kp kp)).strands.any fun e => decide (e.1 < 4)) = false → ∃ s', exec (.kptagWrite kp v) s = .next s' ∧
      (s'.unit (.kp kp)).en = v.getLsbD 7 ∧ (s'.unit (.kp kp)).tag = v.toNat % 64) ∧
    (((s.unit (.kp kp)).strands.any fun e => decide (e.1 < 4)) = true → exec (.kptagWrite kp v) s = .next s) ∧
    -- MAPINV
    exec (.mapinv v) s = .next { s with mapCache := s.mapCache.filter fun e => e.1 != v.toNat % 64 } ∧
    -- QTBASE, read and written; NOTIFYLOST, read and cleared
    (p < 64 → exec (.rcRegisterRead 0 (0x10_0000 + 8 * p)) s = .next (s.emit (.value (s.part p).qtbase)) ∧
      ∃ s', exec (.registerWrite 0 (0x10_0000 + 8 * p) v) s = .next s' ∧
        (s'.part p).qtbase = BitVec.ofNat 64 (v.toNat % 2 ^ 52 / 2 ^ 14 * 2 ^ 14) ∧ (s'.part p).mode = (s.part p).mode) ∧
    exec (.rcRegisterRead 0 0x10_0608) s = .next (({ s with notifylost := 0 } : State).emit (.value (BitVec.ofNat 64 s.notifylost))) ∧
    -- a wake flag
    (v.toNat % 32 < 20 → ∃ s', exec (.wakeWrite v) s = .next s' ∧
      (s'.unit (.kp (8 * (v.toNat / 32 % 1024 / 256) + v.toNat / 32 % 1024 / 32 % 8))).wake.contains (v.toNat % 32) = true) ∧
    -- TENCTL and KEYCTL
    ((s.part p).tstate ≠ 1 → (∃ s', exec (.tenctlStop p) s = .next s' ∧ (s'.part p).tstate = 1) ∧
      (∃ s', exec (.tenctlRun p) s = .next s' ∧ (s'.part p).tstate = 0) ∧
      (s.tidy → ∃ s', exec (.tenctlSlice p) s = .next s' ∧ ∀ e ∈ s.allStrands, e.2.part = p → e.2.kind ≠ .service →
        ∃ t', s'.strand e.1 = some t' ∧ t'.preempt = true ∧ t'.pc = e.2.pc)) ∧
    (s.tdiRun p = false → exec (.keyGenerate p) s = .next { s with keys := NMap.set s.keys p (true, s.keyGen p + 1) }) ∧
    -- TDISP
    (0 < vf → vf < 64 → ∃ s', exec (.tdispRequest vf req) s = .next s' ∧ (s'.fn vf).tdi = (match (s.fn vf).tdi, req with
      | .unlocked, .lock => .locked | .locked, .start => .run | _, .stop => .unlocked | .locked, .error => .error | .run, .error => .error
      | d, _ => d)) ∧
    -- ISLCTL
    (n < 256 → (6 ≤ v.toNat % 32 → v.toNat % 32 ≤ 27 → ∃ s', exec (.islctlWrite n v) s = .next s' ∧ (s'.island n).req = v.toNat % 32 ∧
        (s'.island n).cur = (s.island n).cur) ∧
      (v.toNat % 32 < 6 ∨ 27 < v.toNat % 32 → exec (.islctlWrite n v) s = .next s)) ∧
    -- DEVSTAT.RST and DBGDATA
    (v.getLsbD 1 = false → exec (.devstatRst v) s = .next s) ∧
    (v.getLsbD 1 = true → ∃ s', exec (.devstatRst v) s = .next s' ∧ s'.phase = 1 ∧ s'.ready = false ∧ s'.launches = [] ∧ s'.units = [] ∧
      s'.keys = [] ∧ s'.slots = [] ∧ s'.mem = [] ∧ s'.hostMem = s.hostMem) ∧
    (let sel := s.dbgsel.toNat
     ∃ (w next : Word), exec (.dbgdataRead v) s = .next { s with dbgsel := next, outs := s.outs ++ [.value w] } ∧
      next.toNat / 2 ^ 56 = sel / 2 ^ 56 ∧ next.toNat % 2 ^ 56 = (sel + 1) % 2 ^ 56 ∧
      (sel / 2 ^ 56 = 0 ∨ 10 < sel / 2 ^ 56 → w = 0) ∧
      (∀ i, Config.dbgLayout (sel / 2 ^ 56) (sel % 2 ^ 56) = some i → i.block = sel / 2 ^ 56 →
        (∀ q, s.dbgOwner i = some q → (∃ x, 0 < x ∧ x < 64 ∧ (s.fn x).bind = q ∧ (s.fn x).tdi = .run) → w = 0) ∧
        (s.dbgOwner i = none → w = s.dbgShow i) ∧
        (∀ c t, s.strand c = some t → (∀ x, 0 < x → x < 64 → (s.fn x).bind = t.part → (s.fn x).tdi ≠ .run) → (i = .pc c → w = t.pc) ∧
          (∀ r, i = .sreg c r → w = t.rdS r) ∧ (∀ r, i = .kreg c r → w = t.rdK r) ∧ (∀ r, i = .mreg c r → w = t.rdM r) ∧
          ∀ r j, i = .vreg c r j → w = (t.rdV r).extractLsb' (64 * j.val) 64)) ∧
      ∀ ks, exec (.dbgdataRead v) { s with keys := ks } = .next { s with keys := ks, dbgsel := next, outs := s.outs ++ [.value w] })

/-- R54, R55, R58–R64, R66, R73, R76, R77: a notify of a mapped queue has its TAIL read again; one of a queue that is not mapped maps it
into the lowest free slot, or joins the pending-notify table with QMISS, or is dropped and counted (the count saturates, log 53), and the
table's oldest entry is mapped likewise; a service turn takes the packet at HEAD, or finds the queue idle; satisfied dependences let the
slot go on; placement makes the launch live and advances HEAD; pinned queues are fed in index order; spilled and waiting entries come
back. -/
def Obligations.QueuesAndPlacement : Prop :=
  ∀ (s : State) (p q i : Nat) (on : Bool) (v : Word) (rest : List (Nat × Nat)) (k : Packet) (l le : Leaf) (cs : List (Nat × Nat)) (launch pcore d n id : Nat)
    (la : Launch) (e : QEntry) (es : List QEntry) (r : QueueRef),
    let field (p q o : Nat) : Nat := Memory.readN s.mem ((s.part p).qtbase.toNat + 64 * q + o) 8
    let maps (s' : State) (p q : Nat) : Prop := (s'.slot i).part = p ∧ (s'.slot i).qnum = q ∧ (s'.slot i).tail = field p q 0x10 ∧
      (s'.slot i).head = field p q 0x18 ∧ (s'.slot i).st = (if field p q 0x10 = field p q 0x18 then .idle else .read) ∧
      (s'.slot i).ring = BitVec.ofNat 64 (field p q 0) ∧ (s'.slot i).log2n = field p q 8 % 32 ∧ (s'.slot i).level = field p q 8 / 2 ^ 8 % 8 ∧
      (s'.slot i).weight = field p q 8 / 2 ^ 12 % 16
    let overfull (p q : Nat) : Prop := 2 ^ (field p q 8 % 32) < outstanding (field p q 0x10) (field p q 0x18)
    (s.ready = true → v.toNat < 256 → s.pend = [] → s.slotOf p v.toNat = some i →
      let x := s.slot i
      let tail := field p v.toNat 0x10
      outstanding tail x.head ≤ 2 ^ x.log2n → exec (.notifyWrite (.door p) v) s = .next (s.setSlot i (if x.st = .idle ∨ x.st = .halt then
        { x with tail := tail, st := if outstanding tail x.head = 0 then .idle else .read, err := if x.st = .halt then 0 else x.err }
        else { x with tail := tail }))) ∧
    (s.ready = true → v.toNat < 256 → s.pend = [] → s.slotOf p v.toNat = none → ¬ overfull p v.toNat → s.freeSlot = some i →
      descBad (s.desc p v.toNat) = false → ∃ s', exec (.notifyWrite (.door p) v) s = .next s' ∧ maps s' p v.toNat) ∧
    (s.ready = true → v.toNat < 256 → s.slotOf p v.toNat = none → ¬ overfull p v.toNat → s.freeSlot = none →
      (∀ j, j < 64 → (s.slot j).st ≠ .idle ∨ (s.slot j).noevict = true) → (p, v.toNat) ∉ s.pend →
      (s.pend.length < 256 → exec (.notifyWrite (.door p) v) s = .next (({ s with pend := s.pend ++ [(p, v.toNat)] } : State).emit .qmiss)) ∧
      (256 ≤ s.pend.length → exec (.notifyWrite (.door p) v) s =
        .next { s with notifylost := min (s.notifylost + 1) (2 ^ 32 - 1), nlost := true })) ∧
    (s.pend = (p, q) :: rest → s.slotOf p q = none → ¬ overfull p q → s.freeSlot = some i → descBad (s.desc p q) = false →
      ∃ s', exec .pendingNotifyMap s = .next s' ∧ s'.pend = rest ∧ maps s' p q) ∧
    (let x := s.slot i
     let va := x.packetVa
     let pa := leafAddr l va
     s.nextTurn = some (i, on) →
      (outstanding (field x.part x.qnum 0x10) x.head = 0 →
        ∃ s', exec .queueServiceTurn s = .next s' ∧ (s'.slot i).st = .idle ∧ NMap.find s'.rrLast x.level = some i) ∧
      (outstanding (field x.part x.qnum 0x10) x.head ≠ 0 → regionOf va = .paged → s.xlate 0 x.part va false [] = .ok l → permOk l .read = true →
        (∀ j, j < 128 → paKind (pa + j) = .mem ∧ s.plainLine x.part (lineOf (pa + j))) → k = packetOf (Memory.readBytes s.mem pa 128) →
        s.packetCheck x.part (Memory.readBytes s.mem pa 128) k = .ok cs → k.kind = 1 → regionOf k.entry = .paged →
        s.xlate 0 x.part k.entry false [] = .ok le → paBacked (leafAddr le k.entry) = true →
          ∃ s', exec .queueServiceTurn s = .next s' ∧ (s'.slot i).st = .depwait ∧ (s'.slot i).packet = some k ∧ (s'.slot i).edom = le.tag ∧
            (s'.slot i).cores = cs)) ∧
    ((s.slot i).st = .depwait → (s.slot i).packet = some k → k.dep2.1 = 0 →
      (k.dep1.1 = 0 → exec (.dependenceEval i) s = .next (s.setSlot i { s.slot i with st := .placewait })) ∧
      (let pa := leafAddr l k.dep1.1
       k.dep1.1 ≠ 0 → regionOf k.dep1.1 = .paged → s.xlate 0 (s.slot i).part k.dep1.1 false [] = .ok l → permOk l .read = true → pa % 8 = 0 →
        paKind pa = .mem → s.plainLine (s.slot i).part (lineOf pa) → exec (.dependenceEval i) s =
          .next (if k.dep1.2.toNat ≤ Memory.readN s.mem pa 8 then s.setSlot i { s.slot i with st := .placewait } else s))) ∧
    (let x := s.slot i
     x.st = .placewait → x.packet = some k → (s.part x.part).tstate = 0 → s.heldBack i = false → (x.cores.all fun e => s.fitsNow k e.2) = true →
      s.launchNo x.part x.packetVa = some n → ∃ s' l', exec (.placementAdmit i) s = .next s' ∧ s'.launch n = some l' ∧ l'.num = n ∧
        l'.part = x.part ∧ l'.pkt = k ∧ l'.cores = x.cores ∧ l'.edom = x.edom ∧ NMap.getD s'.lstat n ⟨0, 0⟩ = ⟨0, 0⟩ ∧
        (s'.slot i).head = (x.head + 1) % 2 ^ 64 ∧ (s'.slot i).packet = none ∧ (s'.slot i).qnum = x.qnum) ∧
    (let c := QueueRef.core pcore
     s.launch launch = some la → la.pkt.kind = 1 → la.isPinned = true → la.coreIdx pcore = some d → la.nextIdx d = some n →
      (s.queue c).ring = [] → (s.tile (pcore / 32)).holds c = false → s.waitsAtHome c = false → (s.queue c).q.length < 64 →
      ∃ s' e' l', exec (.pinnedQueueFeed launch pcore) s = .next s' ∧ (s'.queue c).q = (s.queue c).q ++ [e'] ∧ e'.index = n ∧
        e'.code = la.pkt.entry ∧ e'.frame = la.pkt.args ∧ e'.launch = launch ∧ e'.addr = 0 ∧ s'.launch launch = some l' ∧
        NMap.getD l'.next d d = n + la.cores.length) ∧
    ((s.queue r).ring = e :: es → (s.queue r).q.length < queueCap r →
      ∃ s', exec (.spillRingReturn r) s = .next s' ∧ s'.queue r = ⟨(s.queue r).q ++ [e], es, ((s.queue r).pos + 1) % ringCap r⟩ ∧
        ∀ o, o ≠ r → s'.queue o = s.queue o) ∧
    (NMap.find s.pushWait id = some (r, e) → (∀ w ∈ s.pushWait, w.1 < id → w.2.1 ≠ r) → (s.queue r).ring = [] →
      (s.tile (queueTile r)).holds r = false → (s.queue r).q.length < queueCap r → ∃ s', exec (.overflowPushResume id) s = .next s' ∧
        (s'.queue r).q = (s.queue r).q ++ [e] ∧ NMap.find s'.pushWait id = none)

/-- R42, R75, R78, R79, R297, R307, R331, R371: a context takes a message, a landed capsule, a record or an index as the strand that R42,
R297 and R307 describe; a record with a restore mark begins so and then restores its save area, here one at a physical address with no
deposits, kept store, capsule or accumulators; KPSTART starts a service strand, or leaves 1 in REFUSE where the context is taken. (That a
strand whose launch is not live has CALLER 0 is the model's choice, log 14.) -/
def Obligations.WorkStarts : Prop :=
  ∀ (s : State) (p k n i j : Nat) (m : Message) (cm : Fin 2) (ck : Mort) (r : QueueRef) (e : QEntry) (u : CtxRef) (t : Strand)
    (pos : Option Nat) (la : Launch) (v : Word) (l : Leaf),
    let c : CtxRef := ⟨.core p, k⟩
    let x := s.unit (.core p)
    let takes (w : Work) (is : State → Strand → Prop) : Prop := s.ready = true → x.en = true → (s.part x.tag).tstate = 0 →
      s.freeCtx (.core p) = some k → s.chooseWork p = some w → s.workStore (.core p) w = some n →
      ∃ s' t, exec (.contextTakesWork c) s = .next s' ∧ s'.strand c = some t ∧ t.store = n ∧ t.depth = 0 ∧ t.frames = [] ∧ t.recs = [] ∧
        t.hold = none ∧ t.lates = [] ∧ (∀ b : Fin 32, b.val < 24 → t.rdS b = 0) ∧ (∀ b, t.rdV b = 0 ∨ m.miss.isSome = true) ∧ is s' t
    takes (.message m) (fun s' t => t.kind = .handler ∧ t.pc = m.entry ∧ t.part = m.part ∧ t.launch = m.launch ∧ t.lcore = m.target ∧
      t.nx = m.nx ∧ t.caller = m.dom ∧ t.rdS 24 = m.words[0] ∧ t.rdS 25 = m.words[1] ∧ t.rdS 26 = m.words[2] ∧ t.rdS 27 = m.words[3] ∧
      t.rdS 28 = m.i4 ∧ (s'.unit (.core p)).inbox = dropMessage m x.inbox) ∧
    (let base := mortOff (.core p) x cm.val
     let rd (o n : Nat) : Nat := Memory.readN x.sp (base + o) n
     let stop := rd 0x19 1
     stop < 12 → takes (.capsule cm ck j) (fun s' t => t.kind = .stop ∧ t.pc = BitVec.ofNat 64 (rd (0x40 + 16 * stop) 8) ∧ t.part = ck.part ∧
      t.launch = ck.launch ∧ t.rdS 24 = BitVec.ofNat 64 (rd (0x48 + 16 * stop) 8 / 2 ^ 48) ∧
      t.rdS 25 = BitVec.ofNat 64 (0x7F_FFFF_FFC0_0000 + base) ∧ t.rdS 26 = BitVec.ofNat 64 (rd 0x1C 4) ∧
      (∀ b : Fin 32, 27 ≤ b.val → t.rdS b = 0) ∧ t.nx = decide (rd 0x1A 1 % 2 = 1) ∧ t.caller = BitVec.ofNat 8 (rd 0x1B 1) ∧
      t.cap = some ⟨cm, stop⟩ ∧ t.capId = BitVec.ofNat 64 (rd 0 8) ∧ t.pos = some j ∧
      (s'.unit (.core p)).mort[cm] = some { ck with use := .running t.sid })) ∧
    takes (.entry r e pos) (fun s' t => t.pc = e.code ∧ t.part = e.part ∧ t.launch = e.launch ∧
      t.kind = (match e.saved with
        | none => .record
        | some z => if z.kind = .handler then .handler else if z.pos.isSome then .stop else .record) ∧
      t.pos = pos ∧ t.rdS 24 = BitVec.ofNat 64 e.index ∧ t.rdS 30 = e.frame ∧ t.rdS 31 = e.addr ∧
      t.caller = (match s.launch e.launch with | some l => l.edom | none => 0) ∧
      (s'.queue r).q = (s.queue r).q.tail ∧ t.slot = e.saved.map (fun z => (z.tile, z.slot)) ∧
      ∃ b, t.start = some b ∧ b.entry = true ∧ b.restore = (if e.mark.isSome then some e.frame else none) ∧ b.phys = e.saved.isSome) ∧
    (let f := e.frame.toNat
     let w (o : Nat) : Nat := Memory.readN s.mem (f + o) 8
     let bit (x m : Nat) : Bool := x / 2 ^ m % 2 == 1
     t.lates = [] → (∃ w0, t.wins = [w0]) → (s.unit u.unit).sb = [] → (s.unit u.unit).inbox.length ≤ 64 → f % 256 = 0 →
     (∀ a, a < 0x1400 → paKind (f + a) = .mem ∧ s.plainLine t.part (lineOf (f + a)) ∧ s.pushHeld (lineOf (f + a)) = false) →
     w 0 / 2 ^ 50 % 2 ^ 8 = 0 → w 0x28 % 128 = 0 → w 0x10 / 2 ^ 7 % 2 = 0 → w 0x10 / 2 ^ 31 % 4 ≠ 2 →
      ∃ s' t', s.begin_ u t ⟨false, none, some e.frame, true⟩ = .ok (s', t') ∧ (∀ a, s'.mem.read a = s.mem.read a) ∧ t'.start = none ∧
        t'.slot = none ∧ (∀ z, t.slot = some z → z.2 ∉ (s'.tile z.1).saves) ∧ t'.pc = t.pc ∧ t'.frames = [] ∧
        (∀ m : Fin 32, m.val ≠ 0 → t'.rdS m = if bit (w 0) (2 + m.val) then (if bit (w 0x30) m.val then 0
          else BitVec.ofNat 64 (w (0x100 + 8 * m.val))) else t.rdS m) ∧
        (∀ m : Fin 32, t'.rdV m = if bit (w 0) (34 + m.val / 2) then (if bit (w 0x30) (32 + m.val) then 0
          else BitVec.ofNat 512 (Memory.readN s.mem (f + 0xC00 + 64 * m.val) 64)) else t.rdV m) ∧
        (∀ m : Fin 8, m.val ≠ 0 → t'.rdK m = if bit (w 0) 58 then (if bit (w 0x38) m.val then 0
          else BitVec.ofNat 64 (w (0x200 + 8 * m.val))) else t.rdK m) ∧
        (∀ m : Fin 32, m.val ≠ 0 → bit (w 0) (2 + m.val) = true → bit (w 0x30) m.val = false → (t'.sreg m).pend = bit (w 0x20) m.val) ∧
        t'.nx = bit (w 0x10) 0 ∧ t'.fflags.toNat = w 0x10 / 2 % 32 ∧ t'.strict = bit (w 0x10) 6 ∧ t'.vtime = Nat.max t.vtime (w 0x18) ∧
        t'.caller.toNat = w 0x28 / 2 ^ 16 % 256) ∧
    takes (.index la i j) (fun _ t => t.kind = .record ∧ t.pc = la.pkt.entry ∧ t.part = la.part ∧ t.launch = la.num ∧ t.pos = some j ∧
      t.rdS 24 = BitVec.ofNat 64 i ∧ t.rdS 30 = la.pkt.args ∧ t.rdS 31 = 0 ∧ t.caller = la.edom) ∧
    (let ck : CtxRef := ⟨.kp p, v.toNat % 4⟩
     let y := s.unit (.kp p)
     let va : Word := BitVec.ofNat 64 (v.toNat / 32 * 32)
     let pa := leafAddr l va
     s.ready = true →
      ((s.strand ck).isSome = true → exec (.kpstart p v) s = .next (s.modUnit (.kp p) fun x => { x with refuse := 1 })) ∧
      (s.strand ck = none → y.en = true → regionOf va = .paged → s.xlate 0 y.tag va false [] = .ok l → permOk l .read = true → pa % 32 = 0 →
        paKind pa = .mem → s.plainLine y.tag (lineOf pa) → s.freeStore (.kp p) = some n → ∃ s' t, exec (.kpstart p v) s = .next s' ∧
          s'.strand ck = some t ∧ t.kind = .service ∧ t.pc = BitVec.ofNat 64 (Memory.readN s.mem (pa + 8) 8) ∧ t.store = n ∧ t.part = y.tag ∧
          t.launch = 0 ∧ t.rdS 24 = 0 ∧ t.rdS 30 = BitVec.ofNat 64 (Memory.readN s.mem (pa + 16) 8) ∧ t.rdS 31 = va))

/-- R80, R81, R117, R292–R295, R303, R345, R46: the choice of issue, which goes to the first context in the rotation that is not held; a
pre-emption request for a waiting record; the forecast; a barrier phase that completes; limits that pass; HORIZON; and the end of a
launch, which adds INC at DONE and frees its number. (What holds a launch open is log 13's; that a record asks only once it is back
from its spill ring, and that DONE = 0 completes a launch with no addition, log 53's; how the limits and the clock meet, logs 4 and
41's.) -/
def Obligations.SchedulingEvents : Prop :=
  ∀ (s : State) (u : UnitRef) (c : CtxRef) (t : Strand) (k n x launch group : Nat) (q : QueueRef) (e : QEntry) (es0 es : List QEntry) (l : Launch)
    (lvl : Scope) (w : Nat × Nat) (xs : List Nat) (lf : Leaf),
    (s.pick u = some k → s.strand ⟨u, k⟩ = some t → ∃ s', exec (.issueSelect u) s = .next s' ∧ s'.issuing = true ∧ s'.cur = ⟨u, k⟩ ∧
      s'.strand ⟨u, k⟩ = some { t with hold := none } ∧ (s'.island (uisland u)).cycle = ((s.island (uisland u)).cycle + 1) % 2 ^ 64 ∧
      s.issuable ⟨u, k⟩ t = true ∧
      let turn (j : Nat) : Nat := (j + ((s.unit u).last + 1) * (nctx u - 1)) % nctx u
      (∀ j y, j < nctx u → turn j < turn k → s.strand ⟨u, j⟩ = some y → s.issuable ⟨u, j⟩ y = false)) ∧
    (let may (y : CtxRef × Strand) : Prop := y ∈ s.allStrands ∧ (∃ p ∈ s.eligible q e, y.1.unit = .core p) ∧
       y.2.prio < Nat.min (ctlPrio e.ctl) 7 ∧ y.2.preempt = false ∧ y.2.kind ≠ .service ∧
       ∃ z, s.launch y.2.launch = some z ∧ z.pkt.preempt = true
     (s.queue q).q = es0 ++ e :: es → (∀ y ∈ es0, s.asks q y = none) → (∀ p ∈ s.eligible q e, s.freeCtx (.core p) = none) →
      (∀ y ∈ s.allStrands, e.asked = some y.2.sid → y.2.preempt = false) →
      may (c, t) → (∀ y, may y → y ≠ (c, t) → y.2.startNo < t.startNo) → ∃ s' t', exec (.priorityPreemptRequest q) s = .next s' ∧
        s'.strand c = some t' ∧ t'.preempt = true ∧ t'.pc = t.pc ∧ (s'.queue q).q = es0 ++ { e with asked := some t.sid } :: es) ∧
    (∃ s', exec .activityForecast s = .next s' ∧ ∀ a b, a < 32 → b < 8 → (s'.tile a).actfc.toNat / 2 ^ (8 * b) % 256 = s.quadByte (8 * a + b)) ∧
    (let cores := (l.cores.map Prod.snd).filter fun p => groupOf lvl p == group
     s.launch launch = some l → s.tidy → s.phaseDone l lvl cores = true → (c, t) ∈ s.allStrands → t.launch = launch → t.barPos = true →
      t.arrived = some lvl → (∃ p ∈ cores, (homeOf c t).unit = .core p) → ∃ s' t', exec (.barrierPhaseComplete launch lvl group) s = .next s' ∧
        s'.strand c = some t' ∧ t'.res = some 0 ∧ t'.arrived = none ∧ t'.pc = t.pc ∧ (l.pkt.det = false → t'.vtime = t.vtime)) ∧
    (s.strand c = some t → t.limit = some n → t.res = none →
      (t.hold = some .barrier → s.itsPhaseDone c t = false → ∃ s', exec (.barwTimeout c) s = .next s' ∧
        s'.strand c = some { t with res := some 1, arrived := none }) ∧
      (t.hold = some (.timed (some w)) → s.stillHeld c t = true → ∃ s', exec (.waitfTimeout c) s = .next s' ∧
        s'.strand c = some { t with res := some 1 }) ∧
      (∀ safe, t.hold = some (.idle x k safe) → s.stillHeld c t = true → ∃ s', exec (.idleTimeout c) s = .next s' ∧
        s'.strand c = some { t with res := some 1 })) ∧
    (s.launch launch = some l → l.pkt.det = true → s.floorOf l = x :: xs → ∃ s' l', exec (.horizonPublish launch) s = .next s' ∧
      s'.launch launch = some l' ∧ l'.horizon = Nat.max l.horizon (xs.foldl Nat.min x + 1)) ∧
    (s.launch launch = some l → l.num = launch → l.exhausted = true → s.launchBusy launch = false → (s.part l.part).tstate ≠ 2 →
      s.usesLeft l.part = false → s.invs = [] → s.flights = [] →
      (l.pkt.done = 0 → ∃ s', exec (.completionAddition launch) s = .next s' ∧ s'.launch launch = none ∧ (∀ a, s'.mem.read a = s.mem.read a)) ∧
      (let pa := leafAddr lf l.pkt.done
       s.memWf → regionOf l.pkt.done = .paged → l.pkt.done ≠ 0 → s.xlate 0 l.part l.pkt.done true [] = .ok lf → permOk lf .both = true →
        paKind pa = .mem → pa % 8 = 0 → s.plainLine l.part (lineOf pa) → s.pushHeld (lineOf pa) = false →
          ∃ s', exec (.completionAddition launch) s = .next s' ∧ s'.launch launch = none ∧ ∀ a, s'.mem.read a = s.withBit l.part pa a
            (if pa ≤ a ∧ a < pa + 8 then byteOf (BitVec.ofNat 64 (Memory.readN s.mem pa 8) + l.pkt.inc).toNat (a - pa) else s.mem.read a)))

/-! ### Events of memory, translation, faults and traps -/

/-- R199, R200, R204, R206, R207, R221, R273, R274, R279: fills, replicas, invalidations, evictions, epochs and acquire replies, which
arrive in order from each slice. An acquire reply of the generation that the table holds drops the L1 lines that hit its signature (which
names lines of device memory only) and keeps the rest; another drops every line that is not read-only. None changes a byte of memory. -/
def Obligations.CachesAndReplicas : Prop :=
  ∀ (s : State) (u : UnitRef) (i line die n : Nat) (f : Fill) (rf : RepFill) (v : Inval) (r : AcqReply) (c : CtxRef) (t : Strand) (g : Region),
    let same (s' : State) : Prop := s'.mem = s.mem ∧ s'.hostMem = s.hostMem ∧ ∀ w a, s'.spByte w a = s.spByte w a
    ((s.unit u).fills[i]? = some f → ∃ s', exec (.l1Fill u i) s = .next s' ∧ same s' ∧ (s'.unit u).fills = (s.unit u).fills.eraseIdx i ∧
      (f.live = true → ∃ y ∈ (s'.unit u).l1, y.line = f.line ∧ y.host = false ∧ y.ro = f.ro ∧ y.data = sbOver (s.unit u).sb f.line f.data) ∧
      (f.live = false → (s'.unit u).l1 = (s.unit u).l1)) ∧
    (s.repFills[i]? = some rf → ∃ s', exec (.replicaFill i) s = .next s' ∧ same s' ∧
      s'.repFills = (s.repFills.take i).map (fun g => if rf.live ∧ g.die = rf.die ∧ g.line = rf.line then { g with live := false } else g) ++
        s.repFills.drop (i + 1) ∧
      (rf.live = true → ∀ x, x ∈ s'.reps ↔ x = ⟨rf.die, rf.line, rf.owner, rf.chased, rf.data⟩ ∨ (x ∈ s.reps ∧ ¬ (x.die = rf.die ∧ x.line = rf.line))) ∧
      (rf.live = false → s'.reps = s.reps)) ∧
    (s.invs[i]? = some v → ∃ s', exec (.replicaInvalidation i) s = .next s' ∧ same s' ∧ s'.invs = s.invs.eraseIdx i ∧
      ∀ x, x ∈ s'.reps ↔ x ∈ s.reps ∧ ¬ (x.die = v.die ∧ x.line = v.line ∧ x.chased = true)) ∧
    (∀ q, (s.line line).owner = some q → ∃ s', exec (.homeEviction line) s = .next s' ∧ same s' ∧
      s'.line line = ⟨none, false, false, if (s.line line).dirty then (if (s.line line).poison then .poisoned else .key q (s.keyGen q))
        else (s.line line).dram, none⟩ ∧ NMap.find s'.dir line = none ∧ ∀ x ∈ s'.reps, x.line ≠ line) ∧
    ((s.regions.map Prod.fst).Nodup → (n, g) ∈ s.regions → n / 2 ^ 19 % 4 = die → ∃ s', exec (.replicaEpoch die) s = .next s' ∧ same s' ∧
      s'.region n = ⟨if s.repldown.toNat < g.wcol ∧ 0 < g.deg.toNat then g.deg - 1
        else if s.replup.toNat ≤ g.rmiss ∧ g.wcol ≤ s.replwmax.toNat ∧ g.deg.toNat < 2 then g.deg + 1 else g.deg, 0, 0⟩) ∧
    (die < 4 → NMap.find s.regions n = none → n / 2 ^ 19 % 4 = die → ∃ s', exec (.replicaEpoch die) s = .next s' ∧ same s' ∧
      s'.region n = ⟨if s.replup = 0 ∧ (s.region n).deg.toNat < 2 then (s.region n).deg + 1 else (s.region n).deg, 0, 0⟩) ∧
    (s.tidy → (s.unit u).replies[i]? = some r → (∀ y ∈ (s.unit u).replies.take i, sliceNo y.info.line ≠ sliceNo r.info.line) →
      s.findSid r.sid = some (c, t) → ∃ s' t', exec (.acquireReply u i) s = .next s' ∧ same s' ∧
      s'.strand c = some t' ∧ t'.acq = none ∧ t'.pc = t.pc ∧
      let held := (s.unit u).acqTab.find? fun y => y.1 == r.info.line
      let full := r.info.sat = true ∨ held ≠ some (r.info.line, r.info.gen)
      (full → t'.wsig = BitVec.allOnes 2048 ∧ ∀ y, y ∈ (s'.unit u).l1 ↔ y ∈ (s.unit u).l1 ∧ y.ro = true) ∧
      (¬ full → t'.wsig = t.wsig ||| r.info.cum ∧ ∀ y, y ∈ (s'.unit u).l1 ↔ y ∈ (s.unit u).l1 ∧
        (y.ro = true ∨ y.host = true ∨ sigHit r.info.cum y.line = false)) ∧
      (r.info.sat = false → (s'.unit u).acqTab.head? = some (r.info.line, r.info.gen)) ∧
      (r.info.sat = true → ∀ y ∈ (s'.unit u).acqTab, y.1 ≠ r.info.line))

/-- R202, R206, R243, R284, R285, R354: a contribution performed at its home, after earlier ones of its core to the word, opens a slot under
its key, and memory does not change but for the page's bit in the dirty bitmap; the host reads and writes visible memory at the home; a write of the host's own memory drops every cached copy; a half that the host gives up
returns with its bytes. (Which halves the host holds is the model's record, log 19.) -/
def Obligations.HomesServeContributionsAndTheHost : Prop :=
  ∀ (s : State) (id off size line : Nat) (r : HomeReq) (bs : List Byte) (addr : Nat) (half : Bool) (d : BitVec 512),
    let pa := paOfVisible off
    let F : Fmt := if r.f64 then .f64 else .f32
    let w : Nat := if r.f64 then 64 else 32
    (NMap.find s.homeReqs id = some r → r.rel = none →
      (∀ e ∈ s.homeReqs, e.1 < id → (e.2.sid = r.sid → lineOf e.2.pa ≠ lineOf r.pa) ∧ (e.2.key = r.key → e.2.pa ≠ r.pa)) → paKind r.pa = .mem →
      s.memWf → s.plainLine r.part (lineOf r.pa) → s.pushHeld (lineOf r.pa) = false →
      (∀ y ∈ s.reds, y.addr + 8 ≤ r.pa ∨ r.pa + 8 ≤ y.addr) → s.slotWords (sliceNo (lineOf r.pa)) < 256 → ∃ s' x, exec (.atomicAtHome id) s = .next s' ∧ NMap.find s'.homeReqs id = none ∧
        (∀ a, s'.mem.read a = s.withBit r.part r.pa a (s.mem.read a)) ∧ x ∈ s'.reds ∧ x.addr = r.pa ∧ x.f64 = r.f64 ∧
        x.slots = [(r.key, BitVec.ofNat 64 (F.add .rne (F.signBit true) (r.x.toNat % 2 ^ w)).bits)]) ∧
    (s.ready = true → visibleOk off size = true → (∀ L, s.pushHeld L = false) →
      (∀ i, i < size → paKind (pa + i) = .mem ∧ s.hasSlots (lineOf (pa + i)) = false ∧ (s.line (lineOf (pa + i))).poison = false ∧
        (s.line (lineOf (pa + i))).dram ≠ .poisoned ∧ s.stale (s.line (lineOf (pa + i))) = false ∧
        (s.die (homeDie (lineOf (pa + i)))).failed = false) →
      ∃ s', exec (.cxlMemRead off size) s = .next s' ∧ s'.mem = s.mem ∧ s'.outs = s.outs ++ [.bytes (Memory.readBytes s.mem pa size) false]) ∧
    (s.ready = true → s.memWf → visibleOk off bs.length = true → (∀ L, s.pushHeld L = false) →
      (∀ i, i < bs.length → paKind (pa + i) = .mem ∧ (s.die (homeDie (lineOf (pa + i)))).failed = false) →
      ∃ s', exec (.cxlMemWrite off bs) s = .next s' ∧
        ∀ a, s'.mem.read a = if pa ≤ a ∧ a < pa + bs.length then bs.getD (a - pa) 0 else s.mem.read a) ∧
    (s.memWf → ∃ s', exec (.hostSnoop addr bs) s = .next s' ∧ s'.mem = s.mem ∧
      (∀ a, s'.hostMem.read a = if addr ≤ a ∧ a < addr + bs.length then bs.getD (a - addr) 0 else s.hostMem.read a) ∧
      ∀ u, ∀ y ∈ (s'.unit u).l1, y.host = true → ¬ (y.line * 64 < addr + bs.length ∧ addr < y.line * 64 + 64)) ∧
    (s.memWf → s.snoops.contains ⟨line, half⟩ = true → paKind (128 * line) = .mem → (s.die (homeDie line)).failed = false →
      let o := if half then 64 else 0
      (∃ s', exec (.backInvalidateResponse line half none) s = .next s' ∧ s'.mem = s.mem ∧ (line, half) ∉ s'.hostOwn) ∧
      ∃ s', exec (.backInvalidateResponse line half (some d)) s = .next s' ∧ (line, half) ∉ s'.hostOwn ∧ ∀ a, s'.mem.read a =
        if 128 * line + o ≤ a ∧ a < 128 * line + o + 64 then byteOf d.toNat (a - (128 * line + o)) else s.mem.read a)

/-- R212, R216–R220, R341: a walk that has a walker and ends fills the translation, with A set at its entry's home and D with it for a
write, and the bit of the entry's page in the dirty bitmap (R354) where the entry is written; or tells the strand that its page is absent
and sets nothing; a restarted walk begins from the root; a write of TLBIW and an ATS invalidation drop what they name, and no other: a block
that holds the page named goes as a whole. (That an ATS invalidation also discards the requests on their way for a page it covers, and that a
translation covers the aligned block of its size, are log 35's.) -/
def Obligations.TranslationEvents : Prop :=
  ∀ (s : State) (id a sid fn pasid page log2 hpa span : Nat) (w : Walk) (l : Leaf) (ipas : List (Nat × Nat)) (f : WalkFault) (c : CtxRef) (t : Strand) (v : Word)
    (q : AtsReq) (rd wr : Bool),
    (NMap.find s.walks id = some w →
      (s.hasWalker id w.die = true → (s.part w.part).tstate ≠ 2 → (w.res = .leaf l span ipas → (w.dSet = [] ∨ w.dSet = w.aSet) →
          (w.aSet = [] ∨ (w.aSet = [a] ∧ paKind a = .mem ∧ a % 8 = 0 ∧ s.plainLine w.part (lineOf a) = true)) →
          let pte := s.mem.read a
          let sets : Prop := w.aSet = [a] ∧ (pte.getLsbD 4 = false ∨ (w.dSet ≠ [] ∧ pte.getLsbD 5 = false))
          s.memWf → s.bitOff w.part a (lineOf a) → ∃ s', exec (.walk id) s = .next s' ∧ NMap.find s'.walks id = none ∧
            (∀ e, e ∈ s'.tlb ↔ e = ⟨w.die, w.part, w.vpage, span, ipas, l⟩ ∨
              (e ∈ s.tlb ∧ ¬ (e.die = w.die ∧ e.part = w.part ∧ e.vpage = w.vpage))) ∧
            (∀ b, (w.aSet = [a] ∧ b = a → s'.mem.read b = pte ||| 0x10 ||| (if w.dSet = [] then 0 else 0x20)) ∧
              (¬ (w.aSet = [a] ∧ b = a) → (sets → s'.mem.read b = s.withBit w.part a b (s.mem.read b)) ∧ (¬ sets → s'.mem.read b = s.mem.read b)))) ∧
        (w.res = .fault f ipas → w.who = [.strand sid] → s.findSid sid = some (c, t) →
          ∃ s', exec (.walk id) s = .next s' ∧ NMap.find s'.walks id = none ∧ s'.tlb = s.tlb ∧ s'.mem = s.mem ∧
            s'.strand c = some { t with wfaults := t.wfaults ++ [(w.vpage, f)] })) ∧
      (∃ s' w', exec (.walkRestart id) s = .next s' ∧ NMap.find s'.walks id = some w' ∧ w'.vpage = w.vpage ∧ w'.who = w.who ∧
        w'.res = (s.walkAll w.part (w.vpage * 65536) w.write).2.1)) ∧
    (let p := v.toNat % 64
     let kind := v.toNat / 2 ^ 8 % 4
     s.ready = true → kind ≠ 3 → s.usesLeft p = false → ∃ s', exec (.tlbiw v) s = .next s' ∧ ∀ e, e ∈ s'.tlb ↔ e ∈ s.tlb ∧
      ¬ (e.part = p ∧ (kind = 0 ∨ (kind = 1 ∧ e.vpage / e.span = v.toNat / 65536 / e.span) ∨
        (kind = 2 ∧ ∃ y ∈ e.ipas, y.1 / y.2 = v.toNat / 65536 / y.2)))) ∧
    (let meets (q k : Nat) : Prop := q * 4096 / 2 ^ Nat.max k log2 = page * 4096 / 2 ^ Nat.max k log2
     ∃ s', exec (.atsInvalidation fn pasid page log2) s = .next s' ∧
      (∀ e, e ∈ s'.atc ↔ e ∈ s.atc ∧ ¬ (e.fn = fn ∧ e.pasid = pasid ∧ meets e.page e.log2)) ∧
      ∀ e ∈ s'.atsReqs, ¬ (e.2.fn = fn ∧ e.2.pasid = pasid ∧ meets e.2.page 12)) ∧
    (NMap.find s.atsReqs id = some q → (∃ s' e, exec (.atsTranslationCompletion id (.ok hpa 12 rd wr)) s = .next s' ∧
        NMap.find s'.atsReqs id = none ∧ s'.atcFind q.die q.fn q.pasid (4096 * q.page) = some e ∧ e.hpa = hpa / 4096 * 4096 ∧ e.r = rd ∧ e.w = wr) ∧
      (q.sid = .strand sid → sid ≠ 0 → s.findSid sid = some (c, t) → ∃ s', exec (.atsTranslationCompletion id .absent) s = .next s' ∧
        NMap.find s'.atsReqs id = none ∧ s'.strand c = some { t with wfaults := t.wfaults ++ [(2 ^ 60 + q.page, ⟨none, false, 3, false, 0, false⟩)] }))

/-- R212, R324, R326, R327, R346: RESUME, RESUMEW and a PRG response answer a fault: it is outstanding no more, and a strand parked on
it alone goes on, the access replayed under a grant or denied. A held fault takes a place in its buffer when there is one. -/
def Obligations.FaultsAreAnswered : Prop :=
  ∀ (s : State) (t p : Strand) (h : Hd) (a : SSrc) (b : SB) (f : FaultRec) (c : CtxRef) (v : Word) (fid : Nat),
    let o := opP h 8 (SSrc.src a ++ SB.src b)
    let st := (match b with | .reg x => (t.atIssue h).rdS x.r | .imm v => v.setWidth 64).toNat
    let gone (s' : State) : Prop := ∀ g, g ∈ s'.faults → g ∈ s.faults ∧ g.id ≠ f.id
    let parked : Prop := f.who = .strand p.sid ∧ s.findSid p.sid = some (c, p) ∧ p.faults = [f.id] ∧ p.trap = none ∧ p.denied = none
    let goes (s' : State) (deny : Bool) : Prop := ∃ p', s'.strand c = some p' ∧ p'.hold = none ∧ p'.faults = [] ∧ p'.pc = p.pc ∧
      p'.denied = if deny then some (f.acc + 1, f.words[0], f.lanes) else none
    (s.admits t o → s.calm t → (∀ g ∈ s.faults, g.fid ≠ some ((t.atIssue h).rdS a.r).toNat) →
      exec (.resume h a b) s = .next (s.finish t o id .seq)) ∧
    (s.admits t o → s.calm t → s.faultOf ((t.atIssue h).rdS a.r).toNat = some f → f.part = t.part → (f.vf = 0 ∨ f.stage = true) →
      f.host = false → st ≤ 1 → ∃ s' t', s.completes (.resume h a b) t o s' t' ∧ gone s' ∧
        (s.tidy → parked → ukey c.unit ≠ ukey s.cur.unit → goes s' (st == 1))) ∧
    (s.ready = true → s.faultOf (v.toNat % 2 ^ 32) = some f → (f.vf = 0 ∨ f.stage = true) → f.host = false → v.toNat / 2 ^ 32 % 4 ≤ 1 →
      ∃ s', exec (.resumew 0 v) s = .next s' ∧ gone s' ∧ (parked → goes s' (v.toNat / 2 ^ 32 % 4 == 1))) ∧
    (s.faultOf fid = some f → f.host = true →
      (∃ s', exec (.prgResponse fid .success) s = .next s' ∧ gone s' ∧ (parked → goes s' false)) ∧
      (∃ s', exec (.prgResponse fid .invalid) s = .next s' ∧ gone s' ∧ (parked → goes s' true)) ∧
      (∃ s', exec (.prgResponse fid .failure) s = .next s' ∧ gone s' ∧ (s'.fn f.vf).priOff = true)) ∧
    ((s.faults.find? fun g => g.id == fid && g.fid.isNone) = some f → f.vf = 0 → f.die < 4 →
      (f.host = true → s.pfRequests < 64) → ((s.die f.die).fbtail - (s.die f.die).fbhead).toNat < 4096 → ∃ s', exec (.heldFaultRetry fid) s = .next s' ∧
        (s'.die f.die).fbtail = (s.die f.die).fbtail + 1 ∧
        { f with fid := some (f.die * 2 ^ 29 + (s.die f.die).fbtail.toNat % 2 ^ 29) } ∈ s'.faults)

/-- R319–R322, R328, R329, R332–R334: a pending trap migrates as a deliberate one does; a trap in a handler window ends the strand, once what it
has issued is performed, with LSTAT.CODE 3; a strand that has left its handler comes home; a strand at a safe point leaves its context, its marked record in a
queue; the expiry of PGRACE ends the launch with CODE 1; an uncorrectable error poisons, and what a failed die held is answered as
poisoned. (That a mark keeps what R371 gives back, that a safe point waits as R328 says and where its record is placed, and that no
line of a failed die is kept, are logs 23, 34, 49, 55 and 56.) -/
def Obligations.TrapsSavesAndPoison : Prop :=
  ∀ (s : State) (c hc : CtxRef) (t : Strand) (i : TrapInfo) (hd : Handler) (l : Leaf) (pa k launch n : Nat) (pc : Word) (m : BitVec 59)
    (la : Launch) (r : Fin 32) (u : UnitRef) (av : Fin 8) (d : Fin 4),
    let st (x : Nat) : Lstat := NMap.getD s.lstat x ⟨0, 0⟩
    (s.strand c = some t → t.trap = some i → t.faults = [] → (s.part t.part).tstate ≠ 2 → s.canMigrate c t l pa → ∃ s' t', exec (.trapMigration c) s = .next s' ∧
      s'.strand (if isKp c.unit then c else ⟨.kp (utile c.unit), 4⟩) = some t' ∧ (isKp c.unit = false → s'.strand c = none) ∧
      t'.pc = (s.tile (utile c.unit)).trapbase + BitVec.ofNat 64 (256 * i.cause) ∧ t'.rdS 16 = BitVec.ofNat 64 i.cause ∧ t'.trap = none ∧
      t'.handler.isSome = true ∧ Memory.readN s'.mem pa 1 = i.cause % 256 ∧ BitVec.ofNat 64 (Memory.readN s'.mem (pa + 8) 8) = i.pc ∧
      BitVec.ofNat 64 (Memory.readN s'.mem (pa + 16) 8) = i.next ∧ BitVec.ofNat 64 (Memory.readN s'.mem (pa + 24) 8) = i.addr ∧
      (∀ q, ¬ (pa ≤ q ∧ q < pa + 64) → s'.mem.read q = s.withBit t.part pa q (s.mem.read q))) ∧
    (s.strand c = some t → t.trap = some i → t.handler = some hd → t.cap = none → t.loading = false → ∃ s', exec (.doubleTrap c) s = .next s' ∧
      s'.strand c = none ∧ NMap.getD s'.lstat t.launch ⟨0, 0⟩ = ⟨3, Nat.min ((st t.launch).ended + 1) (2 ^ 32 - 1)⟩) ∧
    (s.strand c = some t → t.returning = true → t.home = some hc → ukey hc.unit ≠ ukey c.unit → s.freeCtx hc.unit = some k →
      ∃ s', exec (.eretReturn c) s = .next s' ∧ s'.strand c = none ∧
        s'.strand ⟨hc.unit, k⟩ = some { t with returning := false, hold := none, home := none }) ∧
    (s.strand c = some t → t.saving = some pc → t.mask = some m → t.faults = [] → (s.part t.part).tstate ≠ 2 →
      t.returning = false → (s.unit c.unit).sb = [] → s.calmAt c.unit t → t.lates = [] → t.cmdBusy = false → t.depth = 0 →
      t.frames = [] → t.kind = .record → t.cap = none → s.freeSave (utile c.unit) = some k → s.pushWait = [] →
      (∀ i, i < 0xA000 → s.hostHas (lineOf (s.saveSlot (utile c.unit) k + i)) fullMask = false) →
      (∀ q, (s.queue q).q = [] ∧ (s.queue q).ring = []) → (∀ x, (s.tile x).ovf = []) → ∃ s' q e, exec (.safePointSave c) s = .next s' ∧
        s'.strand c = none ∧ (s'.queue q).q = [e] ∧ e.code = pc ∧ e.frame = BitVec.ofNat 64 (s.saveSlot (utile c.unit) k) ∧
        (∃ k, e.mark = some k ∧ k.born = t.born ∧ k.sid = t.sid) ∧ e.part = t.part ∧ k ∈ (s'.tile (utile c.unit)).saves) ∧
    (s.launch launch = some la → (c, t) ∈ s.allStrands → t.launch = launch → t.preempt = true → t.faults = [] →
      (∀ e ∈ s.allStrands, e.2.loadingOwn = false ∧ (e.2.launch = launch → e.2.loading = false)) →
      ∃ s' l', exec (.pgraceExpiry launch) s = .next s' ∧ s'.launch launch = some l' ∧ l'.killed = true ∧
        (NMap.getD s'.lstat launch ⟨0, 0⟩).code = 1 ∧ (∀ a, s'.mem.read a = s.mem.read a)) ∧
    (∃ s', exec (.poisonEvent (.spWord u n)) s = .next s' ∧ spPoisoned (s'.unit u) (8 * n) 1 = true ∧ ∀ a, s'.spByte u a = s.spByte u a) ∧
    ((s.line n).owner.isSome = true → (s.line n).dirty = true → ∃ s', exec (.poisonEvent (.line n)) s = .next s' ∧ (s'.line n).poison = true) ∧
    ((s.line n).owner = none → ∃ s', exec (.poisonEvent (.line n)) s = .next s' ∧ (s'.line n).dram = .poisoned) ∧
    (s.strand c = some t → (r.val ≠ 0 → ∃ s' t', exec (.poisonEvent (.sreg c r)) s = .next s' ∧ s'.strand c = some t' ∧
        t'.poisonedReg (.s r) = true ∧ t'.rdS r = t.rdS r) ∧
      ∃ s' t', exec (.poisonEvent (.vreg c r)) s = .next s' ∧ s'.strand c = some t' ∧ t'.poisonedReg (.v r) = true ∧ t'.rdV r = t.rdV r) ∧
    (n < 1024 → ∃ s', exec (.poisonEvent (.accWord u av n)) s = .next s' ∧ ∀ j, j < 1024 →
      accWord (NMap.getD (s'.unit u).acc av.val 0) j = if j = n then 0x7FC0_0000 else accWord (NMap.getD (s.unit u).acc av.val 0) j) ∧
    ∃ s', exec (.poisonEvent (.die d)) s = .next s' ∧ (s'.die d.val).failed = true ∧
      ∀ p line, homeDie line = d.val → paKind (128 * line) = .mem → (s'.homeRead (some p) line).2.2 = .poisoned

/-! ### Events of the fabric, the engines, tenants and power -/

/-- R50, R303, R305, R312, R335, R354: a capsule that has waited for a park slot takes one; the front end makes the next capsule of a batch,
which enters the fabric, or parks with its prefix where its image is not aligned; a capsule takes a free mortise, its prefix at the mortise's start with NEXT the stop and its payload from offset 256; a retirement
writes the payload to EXIT, and one with DONE = 0 is then over. (That the batch's CREATOR and FLAGS[0] are written in the capsule alone is
log 62; what of a misaligned or unreadable image stands in it is log 16, and the order of landings and parks log 40.) -/
def Obligations.CapsulesTravel : Prop :=
  ∀ (s s2 s3 : State) (id k launch n pa : Nat) (w : ParkWait) (m : Fin 2) (r : Retire) (l : Launch) (bs pfx payload : List Byte) (tag : Dom)
    (lf : Leaf) (core lcore stop : Nat) (c : Capsule),
    (NMap.find s.parkWait id = some w → (s.part w.cap.part).tstate ≠ 2 → (∀ e ∈ s.parkWait, e.1 < id → e.2.cap.part ≠ w.cap.part) → s.freePark w.cap.part = some k →
      ∃ s', exec (.capsulePark id) s = .next s' ∧ NMap.find s'.parkWait id = none ∧
        (s'.part w.cap.part).parks = (s.part w.cap.part).parks ++ [⟨k, w.cap.launch, w.cap.ts⟩]) ∧
    (let i := NMap.getD l.next 0 0
     s.launch launch = some l → l.pkt.kind = 2 → l.exhausted = false → (s.part l.part).tstate ≠ 2 →
      (s.modLaunch launch fun l => { l with next := NMap.set l.next 0 (i + 1) }).feRead l.part (l.pkt.args + BitVec.ofNat 64 (8 * i)) 8 = (s2, .ok bs) →
      s2.batchImage l.part (BitVec.ofNat 64 (natOfBytes bs)) = (s3, tag, pfx, payload) →
        let c : Capsule := ⟨pfx, payload, launch, l.part, if l.pkt.det then 1 else 0, none⟩
        let c' := (c.put 0x1B 1 tag.toNat).put 0x1A 1 (c.get 0x1A 1 / 2 * 2)
        exec (.capsuleInject launch) s = .next (if natOfBytes bs % 256 = 0 then s3.enterFabric c'
          else s3.park c' cCAPSULE 0 false 0 c'.next none)) ∧
    (let u := UnitRef.core core
     let o := mortOff u (s.unit u) m.val
     NMap.find s.flights id = some (.hop core lcore stop c) → s.memWf → (s.part c.part).tstate = 0 → s.coreAt c.part lcore = some (s.pkgNo, core) →
      (s.tile (core / 32)).ovf = [] → freeMort (s.unit u) = some m → c.pfx.length = 256 → ∃ s', exec (.capsuleLand id) s = .next s' ∧
        NMap.find s'.flights id = none ∧ (s'.unit u).mort[m] = some ⟨c.launch, c.part, c.ts, 0, .landed⟩ ∧ (s'.unit u).lcore = lcore ∧
        s'.spByte u (o + 0x19) = BitVec.ofNat 8 stop ∧ (∀ j, j < 256 → j ≠ 0x19 → s'.spByte u (o + j) = c.pfx.getD j 0) ∧
        (∀ j, j < c.payload.length → s'.spByte u (o + 256 + j) = c.payload.getD j 0) ∧
        (∀ a, ¬ (o ≤ a ∧ a < o + 256 + c.payload.length) → s'.spByte u a = s.spByte u a)) ∧
    (NMap.find s.retires id = some r → r.id = id → r.faults = [] → (s.part r.cap.part).tstate ≠ 2 →
      (r.cap.payload.length ≤ r.pos → r.cap.done = 0 → ∃ s', exec (.capsuleRetirement id) s = .next s' ∧ NMap.find s'.retires id = none ∧
        s'.mem = s.mem) ∧
      (let va := r.cap.exit + BitVec.ofNat 64 r.pos
       r.pos < r.cap.payload.length → n = Nat.min (128 - va.toNat % 128) (r.cap.payload.length - r.pos) → (s.asReached r.at_).engPlace r.who va n .write = .ok (.mem lf pa) →
        paKind pa = .mem → pa % 128 = va.toNat % 128 → s.plainLine r.cap.part (lineOf pa) → s.pushHeld (lineOf pa) = false → s.memWf → ∃ s' r', exec (.capsuleRetirement id) s = .next s' ∧ NMap.find s'.retires id = some r' ∧
          r'.pos = r.pos + n ∧ r'.cap = r.cap ∧ ∀ a, s'.mem.read a = s.withBit r.cap.part pa a
            (if pa ≤ a ∧ a < pa + n then r.cap.payload.getD (r.pos + (a - pa)) 0 else s.mem.read a)))

/-- R129, R211, R281–R283, R290, R296, R298–R300: a message enters its inbox and is acknowledged; a deposit fills its empty mail register,
or is refused where no strand runs; an acknowledgement lowers UNACK; a remote access is checked and performed at its core's bank; a
message to the host takes an entry of its queue, or is refused; HSREPLY sends a deposit. -/
def Obligations.MessagesAndRemoteAccessesArrive : Prop :=
  ∀ (s : State) (id sid pcore lcore lane fn q n rj p core : Nat) (m : Message) (d : Deposit) (t : Strand) (w v : Word) (va : Word) (dom : Dom)
    (ext : RemoteReply) (fl : Option (Nat × Word × Nat)) (c : CtxRef),
    let u := UnitRef.core pcore
    let x := s.unit u
    let told (s' : State) (r : Nat) : Prop := NMap.find s'.flights id = some (.ack sid r none)
    (∀ e ∈ s.flights, id ≤ e.1) →
      (NMap.find s.flights id = some (.message sid s.pkgNo pcore m) → x.inbox.length < 64 → (s.tile (pcore / 32)).ovf = [] →
        ∃ s', exec (.messageDelivery id) s = .next s' ∧ told s' 0 ∧ (s'.unit u).inbox = x.inbox ++ [.msg m]) ∧
      (NMap.find s.flights id = some (.deposit sid s.pkgNo pcore d) →
        (s.strand ⟨u, d.ctx⟩ = none → exec (.depositArrival id) s = .next (s.ackFlight id sid 4 none)) ∧
        (s.strand ⟨u, d.ctx⟩ = some t → s.mayLand x t { d with id := s.nextId, sid := some t.sid } = true →
          ∃ s', exec (.depositArrival id) s = .next s' ∧ told s' 0 ∧ s'.strand ⟨u, d.ctx⟩ =
            some { t with mail := t.mail.set d.mreg (some ⟨d.word, d.nx, d.ts⟩) })) ∧
      (NMap.find s.flights id = some (.ack sid rj fl) → s.findSid sid = some (c, t) → ∃ s' t', exec (.requestAck id) s = .next s' ∧
        NMap.find s'.flights id = none ∧ s'.strand c = some t' ∧ t'.unack = t.unack - 1 ∧ t'.pc = t.pc ∧
        t'.reject = (if rj = 0 then t.reject else BitVec.ofNat 8 rj) ∧ (t.fail = none → t'.fail = fl.map fun f => ⟨f.1, f.2.1, f.2.2, 1⟩) ∧
        (fl = none → t'.fail = t.fail)) ∧
      (let off := va.toNat % 2 ^ 22
       NMap.find s.flights id = some (.access sid lane s.pkgNo pcore lcore va dom (.load n)) → sid ≠ 0 →
        (checkSect u x off n .read dom = true → spPoisoned x off n = false → s.tidy → s.findSid sid = some (c, t) →
          ∃ s', exec (.remoteAccessAtTarget id ext) s = .next s' ∧ NMap.find s'.flights id = none ∧ s'.mem = s.mem ∧
            s'.strand c = some { t with rem := t.rem.map fun y =>
              if y.id = id then { y with reply := some (.ok (BitVec.ofNat 64 (Memory.readN x.sp off n))) } else y }) ∧
        (checkSect u x off n .read dom = false → s.findSid sid = some (c, t) →
          ∃ s', exec (.remoteAccessAtTarget id ext) s = .next s' ∧ NMap.find s'.flights id = none ∧
            s'.strand c = some { t with rem := t.rem.map fun y => if y.id = id then { y with reply := some .rights } else y })) ∧
      (let off := va.toNat % 2 ^ 22
       NMap.find s.flights id = some (.access sid lane s.pkgNo pcore lcore va dom (.store n w false)) → sid ≠ 0 → s.memWf →
        (checkSect u x off n .write dom = true → ∃ s', exec (.remoteAccessAtTarget id ext) s = .next s' ∧ told s' 0 ∧
          ∀ a, s'.spByte u a = if off ≤ a ∧ a < off + n then byteOf w.toNat (a - off) else s.spByte u a) ∧
        (checkSect u x off n .write dom = false → exec (.remoteAccessAtTarget id ext) s =
          .next (s.ackFlight id sid 0 (some (cRIGHTS, va, 2))))) ∧
      (let h := NMap.getD (s.fn fn).hsq q HostQ.reset
       NMap.find s.flights id = some (.hostMsg sid fn q m) →
        (h.en = false → exec (.hostQueueEntry id) s = .next (s.ackFlight id sid 3 none)) ∧
        (h.en = true → (h.tail.toNat + 2 ^ 64 - h.head.toNat) % 2 ^ 32 ≠ 2 ^ h.log2n → s.memWf →
          let at_ := h.ring.toNat + 64 * (h.tail.toNat % 2 ^ h.log2n)
          ∃ s', exec (.hostQueueEntry id) s = .next s' ∧ told s' 0 ∧ (NMap.getD (s'.fn fn).hsq q HostQ.reset).tail = h.tail + 1 ∧
            ∀ a, s'.hostMem.read a = if at_ ≤ a ∧ a < at_ + 64 then (hostEntry q m).getD (a - at_) 0 else s.hostMem.read a)) ∧
      (s.ready = true → s.fnPart fn = some p → s.coreAt p (v.toNat % 2 ^ 18) = some (n, core) → exec (.hsreply fn v) s =
        .next (s.send (.deposit 0 n core ⟨0, ⟨v.toNat / 2 ^ 21 % 8, Nat.mod_lt _ (by decide)⟩, v.toNat / 2 ^ 18 % 8,
          BitVec.ofNat 64 (v.toNat / 2 ^ 32), false, 0, 0, 0, 0, 0, none⟩)))

/-- R290, R360–R363, R369: the switch refuses a contribution to a group it does not know, keeps one of a member, and closes a round that
times out, noting once more who is missing; a flit that is a whole packet is delivered on its port, and does what it says; and one that may not
come next is discarded. (What the bytes of a packet say is left open by R360: it is a free value, log 58. That no flit is taken from a
port that is down, and the port noted for a discarded flit, are log 45.) -/
def Obligations.SwitchAndLinks : Prop :=
  ∀ (s : State) (id sid group op dst k die port : Nat) (m : Message) (g : Group) (f : BitVec 256)
    (pcore lcore : Nat) (va : Word) (dom : Dom) (o : RemOp) (r : RemoteReply) (lane pkg from_ : Nat),
    (NMap.find s.flights id = some (.collective sid group op dst m) →
      (NMap.find s.groups group = none → exec (.collectiveContribution id) s = .next (s.ackFlight id sid 5 none)) ∧
      (NMap.find s.groups group = some g → op ≤ 3 →
        ((List.range g.members.length).find? fun k => g.members.getD k (0, 0) == (s.pkgNo, m.key)) = some k → k ∉ g.late →
        (∀ c ∈ g.got, c.idx ≠ k) → (∃ j, j < g.members.length ∧ j ≠ k ∧ ∀ c ∈ g.got, c.idx ≠ j) → ∃ s' g', exec (.collectiveContribution id) s = .next s' ∧
          NMap.find s'.flights id = some (.ack sid 0 none) ∧ NMap.find s'.groups group = some g' ∧ g'.got = g.got ++ [⟨k, dst, m⟩] ∧
          g'.op = (if g.got = [] then op else g.op) ∧ g'.members = g.members)) ∧
    (NMap.find s.groups group = some g → (g.got = [] → exec (.ctimeout group) s = .next s) ∧
      (g.got ≠ [] → ∃ s' g', exec (.ctimeout group) s = .next s' ∧ NMap.find s'.groups group = some g' ∧ g'.got = [] ∧
        g'.members = g.members ∧ ∀ j, g'.late.count j = g.late.count j +
          if j < g.members.length ∧ ∀ c ∈ g.got, c.idx ≠ j then 1 else 0)) ∧
    (let chan := f.toNat % 8
     s.ready = true → die < 4 → port < 18 → s.portDown die port = false →
      (f.getLsbD 3 = true → f.getLsbD 4 = true → chan ≠ 6 → (∀ p ∈ s.gw, ¬ (p.die = die ∧ p.port = port)) →
        let s1 := s.emit (.flit die port chan (flitBytes f))
        exec (.gweikFlit die port f) s = .next (s1.gwIn chan (Config.gwDecode chan (flitBytes f))) ∧
        (Config.gwDecode chan (flitBytes f) = none → exec (.gweikFlit die port f) s = .next s1) ∧
        (Config.gwDecode chan (flitBytes f) = some (.access from_ pcore lcore va dom o) → chan = 1 → pcore < 1024 →
          exec (.gweikFlit die port f) s = .next (s1.send (.access 0 from_ s.pkgNo pcore lcore va dom o))) ∧
        (Config.gwDecode chan (flitBytes f) = some (.message pcore m) → chan = 2 → pcore < 1024 →
          exec (.gweikFlit die port f) s = .next (s1.send (.message 0 s.pkgNo pcore { m with born := 0 }))) ∧
        (Config.gwDecode chan (flitBytes f) = some (.reply id r) → chan = 4 → pkg ≠ s.pkgNo →
          NMap.find s.flights id = some (.access sid lane pkg pcore lcore va dom o) →
          exec (.gweikFlit die port f) s = .next (s1.replied id sid va o r))) ∧
      (f.getLsbD 3 = false → (∀ p ∈ s.gw, ¬ (p.die = die ∧ p.port = port)) →
        ∃ s', exec (.gweikFlit die port f) s = .next s' ∧ s'.outs = s.outs ∧ s'.gw = s.gw ∧ (die, port) ∈ s'.gwErr))

/-- R248, R252–R261: the head of a queue starts where its engine or channel is free. A matrix command that completes leaves its
accumulator: every element of an MMA is the old one with each group's exact sum added in turn and rounded once, or clamped or wrapped;
MSTA leaves each row's bytes, the higher row's where rows overlap; MOVA writes its sixteen lanes. A channel, once what its strand did before
the command is performed, reaches its page or section, whose translation or tag it then keeps (R92), or stops with error 0x05; it delivers bytes, of a fill, a copy, a row of a 2D copy or a gathered row; and it completes, which the strand sees.
(That a scale which overlaps the rows is written after its own row is log 63.) -/
def Obligations.EnginesRun : Prop :=
  ∀ (s : State) (u : UnitRef) (ch : Fin 4) (k : MCmd) (ks : List MCmd) (g : CCmd) (gs : List CCmd) (c : CtxRef) (t : Strand) (a off stride n : Nat)
    (d pat : Word) (len : Nat) (ty : MTy) (st : StTy) (sat nx : Bool) (sa b sb e0 e1 r o1 oi pa count : Nat) (v : Fin 32) (src idx ss ds : Word)
    (lf : Leaf),
    let x := s.unit u
    let y := x.chan[ch]
    let old (i : Nat) : Nat := accWord (NMap.getD x.acc a 0) i
    (x.mrun = none → x.mq = k :: ks → exec (.engineCommandStart u .matrix) s = .next (s.setUnit u { x with mrun := some k, mq := ks })) ∧
    (x.cq = g :: gs → x.chan[g.ch].cmd = none → ∃ s', exec (.engineCommandStart u .copy) s = .next s' ∧
      (s'.unit u).cq = gs ∧ (s'.unit u).chan[g.ch].cmd = some g ∧ (s'.unit u).chan[g.ch].pos = 0 ∧ (s'.unit u).chan[g.ch].wptr = g.op.base ∧
      (s'.unit u).chan[g.ch].ready = false ∧ (s'.unit u).chan[g.ch].at_ = []) ∧
    (x.mrun = some k →
      (k.op = .zero a → ∃ s', exec (.matrixCommandComplete u) s = .next s' ∧ (s'.unit u).mrun = none ∧
        ∀ i, i < 1024 → accWord (NMap.getD (s'.unit u).acc a 0) i = 0) ∧
      (k.op = .lda a off stride → ∃ s', exec (.matrixCommandComplete u) s = .next s' ∧ (s'.unit u).mrun = none ∧
        ∀ i, i < 1024 → accWord (NMap.getD (s'.unit u).acc a 0) i = Memory.readN x.sp (off + stride * (i / 32) + 4 * (i % 32)) 4) ∧
      (let el (base stride : Nat) (i k : Nat) : Nat := tileEl x.sp base stride (mmaForm nx ty).2.2.1 i k
       k.op = .mma ty sat nx a off sa b sb → ∃ s', exec (.matrixCommandComplete u) s = .next s' ∧ (s'.unit u).mrun = none ∧
        (∀ b, s'.spByte u b = s.spByte u b) ∧ (∀ d, d ≠ a → NMap.getD (s'.unit u).acc d 0 = NMap.getD x.acc d 0) ∧
        ∀ n, n < 1024 → if ty = .int8 then
            let part (q : Nat) : Int := ((List.range 8).map fun k => (BitVec.ofNat 8 (el off sa (n / 32) (8 * q + k))).toInt *
              (BitVec.ofNat 8 (el b sb (8 * q + k) (n % 32))).toInt).sum
            (BitVec.ofNat 32 (accWord (NMap.getD (s'.unit u).acc a 0) n)).toInt =
              (List.range 8).foldl (fun acc q => intAccStep sat acc (part q)) (BitVec.ofNat 32 (old n)).toInt
          else
            let (gs, g, _, f) := mmaForm nx ty
            isAccChain gs (fun q => isDotGroup g (fun k => f.value (el off sa (n / 32) (g * q + k)))
              (fun k => f.value (el b sb (g * q + k) (n % 32)))) (old n) (accWord (NMap.getD (s'.unit u).acc a 0) n)) ∧
      (k.op = .bx4 a off sa b sb e0 e1 → ∃ s', exec (.matrixCommandComplete u) s = .next s' ∧ (s'.unit u).mrun = none ∧
        (∀ b, s'.spByte u b = s.spByte u b) ∧
        ∀ n, n < 1024 → isAccChain 8 (fun q sum => ∃ s0 s1,
            isDotGroup 16 (fun k => Fmt.e2m1.value (tileEl x.sp off sa 4 (n / 32) (16 * q + k)))
              (fun k => Fmt.e2m1.value (tileEl x.sp b sb 4 (16 * q + k) (n % 32))) s0 ∧
            isProduct s0 (Fmt.f32.value (Memory.readN x.sp (e0 + 16 * (n / 32) + 4 * (q / 2)) 4)) s1 ∧
            isProduct s1 (Fmt.f32.value (Memory.readN x.sp (e1 + 128 * (q / 2) + 4 * (n % 32)) 4)) sum)
          (old n) (accWord (NMap.getD (s'.unit u).acc a 0) n)) ∧
      (let rb := match st with | .i32 | .f32 => 128 | .bf16 => 64 | .e4m3 => 32 | .bx4 => 16
       let inRow (q i : Nat) : Prop := i < 32 ∧ off + sa * i ≤ q ∧ q < off + sa * i + rb
       k.op = .sta st sat nx a off sa b → s.memWf → (st = .bx4 → ∀ q, b ≤ q → q < b + 128 → ∀ i, ¬ inRow q i) →
        ∃ (s' : State) (scale : Nat → Nat) (codes : Nat → List Nat), exec (.matrixCommandComplete u) s = .next s' ∧ (s'.unit u).mrun = none ∧
          (s'.unit u).acc = x.acc ∧ (s'.unit u).full = x.full ∧
          (∀ i, i < 32 → ∃ fl, isQuantBX4 ((List.range 32).map fun j => old (32 * i + j)) (scale i) (codes i) fl) ∧
          (∀ q i, inRow q i → (∀ j, i < j → ¬ inRow q j) →
            s'.spByte u q = mstaByte st sat nx (fun j => old (32 * i + j)) (codes i) (q - (off + sa * i))) ∧
          (st = .bx4 → ∀ i, i < 32 → Memory.readN (s'.unit u).sp (b + 4 * i) 4 = scale i) ∧
          (∀ q, (∀ i, ¬ inRow q i) → (st = .bx4 → ¬ (b ≤ q ∧ q < b + 128)) → s'.spByte u q = s.spByte u q)) ∧
      (k.op = .mova a r v → s.tidy → s.findSid k.sid = some (c, t) → ∃ s' t', exec (.matrixCommandComplete u) s = .next s' ∧
        (s'.unit u).mrun = none ∧ s'.strand c = some t' ∧ (∀ w, w ≠ v → t'.rdV w = t.rdV w) ∧
        ∀ n, n < 16 → laneGet 32 (t'.rdV v) n = old (32 * (r / 2) + 16 * (r % 2) + n))) ∧
    (y.cmd = some g → g.op = .fill d pat len → s.chanStands g = false → y.pos < len →
      let at_ := d + BitVec.ofNat 64 y.pos
      n = Nat.min (128 - at_.toNat % 128) (len - y.pos) →
        (y.ready = false → y.faults = [] → s.copyWaits g = false → s.chanPlace u g y at_ n .write = .ok (.own off) →
          exec (.copyPageReach u ch) s = .next (s.modChan u ch fun c => { c with ready := true, at_ := s.reachOf u g.part y.at_ at_ (.own off) })) ∧
        (y.ready = false → y.faults = [] → s.copyWaits g = false → s.chanPlace u g y at_ n .write = .error (.trap cRIGHTS) →
          ∃ s', exec (.copyPageReach u ch) s = .next s' ∧ (s'.unit u).chan[ch].cmd = none ∧ (s'.unit u).chan[ch].err = 0x05) ∧
        (y.ready = true → s.memWf → s.chanPlace u g y at_ n .write = .ok (.own off) → ∃ s', exec (.copyDelivery u ch) s = .next s' ∧
          (s'.unit u).chan[ch].pos = y.pos + n ∧ (s'.unit u).chan[ch].wptr = at_ + BitVec.ofNat 64 n ∧
          ∀ b, s'.spByte u b = if off ≤ b ∧ b < off + n then byteOf pat.toNat ((at_.toNat + (b - off)) % 8) else s.spByte u b)) ∧
    (let delivers (from_ at_ : Word) (left : Nat) : Prop :=
      n = Nat.min (128 - at_.toNat % 128) left → n ≤ 128 - from_.toNat % 128 → s.chanPlace u g y at_ n .write = .ok (.own off) →
        (s.chanPlace u g y from_ n .read = .ok (.own o1) → spPoisoned x o1 n = false → (o1 + n ≤ off ∨ off + n ≤ o1) →
          (∀ j, j < n → NMap.find y.old ((Place.own (o1 + j)).key u) = none) → ∃ s', exec (.copyDelivery u ch) s = .next s' ∧
            (s'.unit u).chan[ch].pos = y.pos + n ∧ (s'.unit u).chan[ch].wptr = at_ + BitVec.ofNat 64 n ∧
            ∀ b, s'.spByte u b = if off ≤ b ∧ b < off + n then s.spByte u (o1 + (b - off)) else s.spByte u b) ∧
        (s.chanPlace u g y from_ n .read = .ok (.mem lf pa) → paKind pa = .mem → pa % 128 = from_.toNat % 128 →
          s.plainLine g.part (lineOf pa) = true → (∀ j, j < n → NMap.find y.old ((Place.mem lf (pa + j)).key u) = none) →
          pa + n ≤ 2 ^ 62 → ∃ s', exec (.copyDelivery u ch) s = .next s' ∧ (s'.unit u).chan[ch].pos = y.pos + n ∧
            ∀ b, s'.spByte u b = if off ≤ b ∧ b < off + n then s.mem.read (pa + (b - off)) else s.spByte u b)
     y.cmd = some g → s.chanStands g = false → y.ready = true → s.memWf → y.pos < g.op.total →
      (g.op = .cpy d src len → delivers (src + BitVec.ofNat 64 y.pos) (d + BitVec.ofNat 64 y.pos) (len - y.pos)) ∧
      (g.op = .cpy2 d src count ss ds len → delivers (src + BitVec.ofNat 64 (y.pos / len) * ss + BitVec.ofNat 64 (y.pos % len))
        (d + BitVec.ofNat 64 (y.pos / len) * ds + BitVec.ofNat 64 (y.pos % len)) (len - y.pos % len)) ∧
      (g.op = .cpyg d src idx count ss len → s.chanPlace u g y (idx + BitVec.ofNat 64 (4 * (y.pos / len))) 4 .read = .ok (.own oi) →
        spPoisoned x oi 4 = false →
        delivers (src + BitVec.ofNat 64 (Memory.readN x.sp oi 4) * ss + BitVec.ofNat 64 (y.pos % len)) (d + BitVec.ofNat 64 y.pos)
          (len - y.pos % len))) ∧
    (y.cmd = some g → g.op.total ≤ y.pos → ∃ s', exec (.copyComplete u ch) s = .next s' ∧ (s'.unit u).chan[ch].cmd = none ∧
      (s.tidy → s.findSid g.sid = some (c, t) → ∃ t', s'.strand c = some t' ∧ t'.pc = t.pc ∧
        ∀ z ∈ t'.cmds, z.id = g.id → z.st = .done ∧ z.bytes = g.op.total))

/-- R356, R359, R364, R366, R367: retiring a key slot destroys its keys and drops its lines; a VF's reset unmaps its partition's queues,
ends its strands, its launches with LSTAT.CODE 2, and what travels to it, frees their numbers, completes its service queues' requests with
RESET and disables them, and retires the key slot; bring-up goes through its phases to READY, or stops with the failure of a phase; an
island follows REQ and CAP; CAP follows power and temperature. (That a reset also discards the partition's pending notifies and reserved
launch numbers is log 44; that each phase of bring-up is one step, what phase 1 leaves already, and that a power-on of a device that is ready
begins at phase 1, are log 46.) -/
def Obligations.TenantsAndPower : Prop :=
  ∀ (s : State) (slot vf p n die power junction : Nat) (down : BitVec 72) (d : BitVec 4),
    let fails (r : BringUp) (code : BitVec 8) : Prop := ∃ s', exec (.powerOn r) s = .next s' ∧ s'.ready = false ∧ s'.phase = 0xF ∧
      s'.failCode = code ∧ s'.failDie = d
    let goes (s' : State) (ph : BitVec 4) : Prop := exec (.powerOn (.ok down)) s = .next s' ∧ s'.ready = false ∧ s'.phase = ph
    (s.ready = true → s.tdiRun slot = false → ∃ s', exec (.keyRetire slot) s = .next s' ∧ NMap.find s'.keys slot = some (false, s.keyGen slot + 1) ∧
      (∀ e ∈ s'.side, e.2.part ≠ slot) ∧ ∀ line, (s'.line line).owner ≠ some slot) ∧
    (s.ready = true → 0 < vf → vf ≤ 63 → (s.fn vf).bind = p → s.tidy → ∃ s', exec (.vfReset vf) s = .next s' ∧
      (∀ i, i < 64 → (s'.slot i).st = .free ∨ (s'.slot i).part ≠ p) ∧ (∀ e ∈ s'.pend, e.1 ≠ p) ∧ (∀ r ∈ s'.resvs, r.part ≠ p) ∧
      (∀ e ∈ s'.allStrands, e.2.part ≠ p) ∧ (∀ e ∈ s'.flights, e.2.inPart p = false) ∧ (∀ e ∈ s'.retires, e.2.cap.part ≠ p) ∧
      (s'.part p).parks = [] ∧ (∀ f ∈ s'.faults, f.part ≠ p) ∧ (s'.fn vf).prqUsed = [] ∧
      (∀ k l, s.launch k = some l → l.part = p → l.num = k → s'.launch k = none ∧ (NMap.getD s'.lstat k ⟨0, 0⟩).code = 2) ∧
      (∀ q, let h := NMap.getD (s.fn vf).hsq q HostQ.reset
        let h' := NMap.getD (s'.fn vf).hsq q HostQ.reset
        h'.en = false ∧ h'.st = if h.en = true ∧ (h.tail.toNat + 2 ^ 64 - h.head.toNat) % 2 ^ 32 ≠ 0 then 2 else h.st) ∧
      (NMap.getD s'.keys p (false, 0)).1 = false ∧ (∀ line, (s'.line line).owner ≠ some p) ∧ (s'.fn vf).tdi = .unlocked) ∧
    (s.ready = false → s.phase = 1 → fails (.boundary d) 1 ∧ fails (.lpddrTraining d) 2 ∧
      ∃ s', goes s' 2 ∧ s'.gwdown = down ∧ s'.mem = [] ∧ s'.units = []) ∧
    (s.ready = false → s.phase = 2 → fails (.sram d) 3 ∧ goes { s with phase := 3 } 3) ∧
    (s.ready = false → s.phase = 3 → fails (.lpddrCal d) 4 ∧ goes { s with phase := 4 } 4) ∧
    (s.ready = false → s.phase = 4 → fails (.zeroing d) 5 ∧
      ∃ s', goes s' 5 ∧ s'.gwdown = s.gwdown ∧ s'.mem = [] ∧ s'.units = [] ∧ s'.tlb = [] ∧ s'.lines = [] ∧ s'.side = []) ∧
    (s.ready = false → s.phase = 5 → exec (.powerOn (.ok down)) s = .next { s with ready := true }) ∧
    (s.ready = true → ∃ s', goes s' 1) ∧
    (n < 256 → ∃ s', exec (.islandFrequencyChange n) s = .next s' ∧ (s'.island n).cur = Nat.min (s.island n).req (s.die (n / 64)).cap ∧
      (s'.island n).req = (s.island n).req ∧ (s'.island n).cycle = (s.island n).cycle) ∧
    (s.ready = true → die < 4 → ∃ s', exec (.capAdjust die power junction) s = .next s' ∧
      (let cap := (s.die die).cap
       (s'.die die).cap = if 115 ≤ junction then 6 else if s.plimit.toNat < power ∨ 105 ≤ junction then Nat.max 6 (cap - 1)
        else if power * 100 ≤ s.plimit.toNat * 95 ∧ junction < 100 then Nat.min 27 (cap + 1) else cap) ∧
      (s'.outs = if 115 ≤ junction then s.outs ++ [.thermtrip die] else s.outs))

/-! ### The machine -/

/-- R24, R102, R128, R129: a register reads what was written to it last and no other register changes; g0 reads as zero and k0 as all
ones whatever is written to them; a freed register reads as zero; and a mail register empties when it is freed. -/
def Obligations.RegistersReadAndWrite : Prop :=
  ∀ (t : Strand) (d r : Fin 32) (k q m n : Fin 8) (v : Word) (x : Vec),
    t.rdS 0 = 0 ∧ t.rdK 0 = BitVec.allOnes 64 ∧ t.wrS 0 v = t ∧ t.wrK 0 v = t ∧
    (t.wrS d v).rdS r = (if r = d ∧ d.val ≠ 0 then v else t.rdS r) ∧ (t.wrV d x).rdV r = (if r = d then x else t.rdV r) ∧
    (t.wrK k v).rdK q = (if q = k ∧ k.val ≠ 0 then v else t.rdK q) ∧ (t.wrM m v).rdM n = (if n = m then v else t.rdM n) ∧
    (t.wrS d v).v = t.v ∧ (t.wrS d v).k = t.k ∧ (t.wrS d v).mail = t.mail ∧ (t.wrS d v).wins.tail = t.wins.tail ∧
    (∀ y, (t.wrV d x).rdS y = t.rdS y) ∧ (∀ y, (t.wrK k v).rdS y = t.rdS y) ∧ (∀ y, (t.wrM m v).rdS y = t.rdS y) ∧
    (t.wrV d x).k = t.k ∧ (t.wrV d x).mail = t.mail ∧ (t.wrK k v).v = t.v ∧ (t.wrK k v).mail = t.mail ∧ (t.wrM m v).v = t.v ∧ (t.wrM m v).k = t.k ∧
    (t.free (.s d)).v = t.v ∧ (t.free (.s d)).k = t.k ∧ (t.free (.s d)).mail = t.mail ∧ (t.free (.s d)).wins.tail = t.wins.tail ∧
    (∀ y, (t.free (.v d)).rdS y = t.rdS y) ∧ (t.free (.v d)).k = t.k ∧ (t.free (.v d)).mail = t.mail ∧
    (∀ y, (t.free (.k k)).rdS y = t.rdS y) ∧ (t.free (.k k)).v = t.v ∧ (t.free (.k k)).mail = t.mail ∧
    (∀ y, (t.free (.m m)).rdS y = t.rdS y) ∧ (t.free (.m m)).v = t.v ∧ (t.free (.m m)).k = t.k ∧
    (t.free (.s d)).rdS r = (if r = d then 0 else t.rdS r) ∧ (t.free (.v d)).rdV r = (if r = d then 0 else t.rdV r) ∧
    (t.free (.k k)).rdK q = (if q = k ∧ k.val ≠ 0 then 0 else t.rdK q) ∧ (t.free (.m m)).mail[n] = (if n = m then none else t.mail[n])

/-- R364–R367, R205, R207, R222, R328, R363: the state after reset: bring-up in phase 1 and not READY, no strand, every queue slot free,
every byte zero and every line clear, the registers at the values their rules give, and the memories in canonical form. (That phase 1 leaves
every byte zero and every line clear already, where R364 zeroes in phase 4, is logs 1's and 46's. The agenda and the issue slot are the
model's own, log 2; that the product fixes PLIMIT is log 5; the zero at which an island counts cycles, and the
degree of a region that nothing has read, are log 6; and the canonical form is log 20.) -/
def Obligations.ResetState : Prop :=
  let s := State.reset
  s.canonical = true ∧ s.ready = false ∧ s.phase = 1 ∧ s.failCode = 0 ∧ s.issuing = false ∧ s.agenda = [] ∧ s.pgrace = 1000 ∧ s.replup = 64 ∧
    s.replwmax = 8 ∧ s.repldown = 32 ∧ s.snapctl = 0 ∧ s.ctimeout = 100 ∧ s.plimit = (if Config.isModule then 3200 else 1000) ∧
    (∀ a, s.mem.read a = 0) ∧ (∀ u a, s.spByte u a = 0) ∧ (∀ c, s.strand c = none) ∧ (∀ n, s.launch n = none) ∧ (∀ i, (s.slot i).st = .free) ∧
    (∀ n, (s.line n).owner = none ∧ (s.line n).dram = .clear) ∧ (∀ n, (s.island n).req = 10 ∧ (s.island n).cur = 10 ∧ (s.island n).cycle = 0) ∧
    (∀ d, d < 4 → (s.die d).cap = 27) ∧ (∀ n, (s.region n).deg = 0) ∧ (∀ u, (s.unit u).en = false ∧ (s.unit u).full = [])

/-- Every step keeps the canonical form: the memories hold no two entries for an address, none out of order and none that is zero, and the
units and their contexts stand once each and in order. (The form is the model's own, log 20.) -/
def Obligations.StepKeepsCanonicalForm : Prop :=
  ∀ (s s' : State), s.canonical = true → step s = .next s' → s'.canonical = true

/-- R99–R116, R134, R150, R176, R183, R188–R190, R224, R247, R289, R337: every well-formed instruction has an encoding, and it decodes to that
instruction and its length, whatever follows it; and bytes that decode are the encoding of what they decode to, which is well-formed. -/
def Obligations.DecodeAndEncodeAgree : Prop :=
  (∀ (i : Instr) (rest : List Byte), i.wf = true → i.isEvent = false →
    ∃ bs, encode i = some bs ∧ decode (bs ++ rest) = .ok (i, bs.length)) ∧
  (∀ (bs : List Byte) (i : Instr) (n : Nat), decode bs = .ok (i, n) → i.wf = true ∧ i.isEvent = false ∧ encode i = some (bs.take n))

/-- R99–R108: words that the spec prints decode to the instructions that it prints with them. -/
def Obligations.PrintedWordsDecode : Prop :=
  let h : Hd := ⟨false, none⟩
  decodeTableWord 64 0x0084_027F_3250_D810 = some (.st h .d true .pkg 20 ⟨⟨25, false⟩, .imm 8⟩) ∧
  decodeTableWord 64 0x0016_01FF_3014_D8A0 = some (.aadd h true .ar .die 5 ⟨24, false⟩ (.imm 1)) ∧
  decodeTableWord 64 0x0004_0200_2400_D940 = some (.adec h .rel .pkg 0 ⟨18, false⟩) ∧
  decodeTableWord 64 0x0004_0280_0000_1860 = some (.fence h .rel .sys) ∧
  decodeTableWord 64 0xFFA0_0000_3200_4010 = some (.br h .ne ⟨25, false⟩ ⟨0, false⟩ 0xFFA) ∧
  decodeTableWord 64 0x0010_0013_2560_0120 = some (.graft h 0 ⟨18, false⟩ ⟨19, false⟩ 1) ∧
  decodeTableWord 96 0x0000_0010_0640_007F_3200_8021 = some (.bri h .lt ⟨25, false⟩ 100 16) ∧
  decodeTableWord 64 0x0004_9222_428D_A090 = some (.vfma h .f32 2 3 ⟨1, false⟩ ⟨2, true⟩ ⟨4, false⟩) ∧
  decodeTableWord 128 0x0000_0003_0000_0403_0010_007F_1020_0808 = some (.add ⟨false, some 0xC0000100⟩ false (.s 8) (.s 8 false) (.imm 1)) ∧
  decodeTableWord 128 0x0010_0040_0000_0E9C_0000_001B_3526_A802 = some (.mmaBx4 h 1 ⟨26, false⟩ ⟨27, false⟩ ⟨28, false⟩ ⟨29, false⟩ 64 16) ∧
  decodeTableWord 128 0x0123_4567_89AB_CDEF_0000_0000_0020_09E2 = some (.liX h (.s 8) 0x0123_4567_89AB_CDEF)

/-- R61, R64, R82, R84, R99, R115, R234: where the issuing strand's start and its fetch pass their checks and the bytes at its pc, or, of an
instruction that has issued and waits, those it was fetched with, decode to an instruction, a step is the execution of that instruction in
the fetch domain of its page; where nothing issues, a step is the event at the head of the agenda; and where there is none, it is a phase of bring-up, an event that is due at once, one of the events that may come
next, whichever one, or the next event that the progress promise owes. After it the front end evaluates the dependences that wait and
maps pending notifies, at once. (The agenda, the free choice and the turns of the promise are the model's, logs 2 and 54.) -/
def Obligations.StepRunsTheDecodedInstruction : Prop :=
  ∀ (s s1 s2 s' : State) (t t2 : Strand) (b : Start) (x : ILine) (i : Instr) (n : Nat) (es : List Instr),
    let o := t2.pc.toNat % 32
    let v := x.data.toNat / 2 ^ (8 * (t2.pc.toNat % 64)) % 2 ^ (8 * (32 - o))
    let settled (r : Host.Outcome State Fault Refusal) : Host.Outcome State Fault Refusal :=
      match r with
      | .next s' => .next (State.settleFront s s')
      | r => r
    (s.issuing = true → s.strand s.cur = some t → t.denied = none →
      ((t.start = none ∧ s2 = s ∧ t2 = t) ∨ (t.start = some b ∧ s.begin_ s.cur t b = .ok (s2, t2))) → t2.denied = none →
      t2.pc.toNat % 4 = 0 → o ≤ 24 → regionOf t2.pc = .paged → s2.lineFor s.cur t2 = .ok (s1, x) → x.x = true →
      (t2.permit = true ∨ x.tag = t2.dom) → n ≤ 32 - o → decode (natToBytes (32 - o) v) = .ok (i, n) →
        step s = settled (exec i (s1.setStrand s.cur { t2 with dom := x.tag, permit := true }))) ∧
    (s.issuing = false → s.agenda = i :: es → step s = settled (exec i { s with agenda := es })) ∧
    (let s0 : State := { s with freeCtr := s.freeCtr + 1 }
     s.issuing = false → s.agenda = [] →
      (s.ready = false → s.phase ≠ 0xF → step s = settled (exec (.powerOn (Config.bringUp s.freeCtr)) s0)) ∧
      (s.ready = true → s0.urgentEvents.findSome? s0.moveOf = some s' → step s = .next (State.settleFront s s')) ∧
      (s.ready = true → s0.urgentEvents.findSome? s0.moveOf = none →
        (let s3 : State := { s0 with patience := n }
         s.patience = n + 1 → (s3.moves = [] → step s = .next (State.settleFront s s3)) ∧
          (s3.moves ≠ [] → ∃ s' ∈ s3.moves, step s = .next (State.settleFront s s'))) ∧
        (s.patience = 0 → s.duty = [] →
          step s = .next (State.settleFront s { s0 with duty := s0.owed, patience := Config.patience s.freeCtr })) ∧
        (s.patience = 0 → s.duty = i :: es →
          step s = settled (exec i { s0 with duty := es, patience := Config.patience s.freeCtr }))))
end

