-- ==== Sys2Proof/Laws/Maps.lean ====
section
/-! SUPPORT. The laws of maps and memories: reading what was written, leaving every other key alone, and the canonical form, which
every memory operation keeps. -/
namespace Sys2Proof.Machine

/-! ### Finite maps -/

variable {β : Type}

theorem NMap.find_set_self (m : NMap β) (n : Nat) (x : β) : NMap.find (NMap.set m n x) n = some x := by
  induction m with
  | nil => simp [NMap.set, NMap.find]
  | cons e m ih =>
    obtain ⟨k, y⟩ := e
    unfold NMap.set
    split
    · simp [NMap.find]
    · split
      · simp [NMap.find]
      · simp only [NMap.find]
        rw [if_neg (by omega)]
        exact ih

theorem NMap.find_set_ne (m : NMap β) {n k : Nat} (x : β) (h : k ≠ n) : NMap.find (NMap.set m n x) k = NMap.find m k := by
  induction m with
  | nil => simp [NMap.set, NMap.find, h.symm]
  | cons e m ih =>
    obtain ⟨j, y⟩ := e
    unfold NMap.set
    split
    · simp [NMap.find, h.symm]
    · split
      · subst j; simp [NMap.find, h.symm]
      · simp only [NMap.find, ih]

/-- A map after a change of one key. -/
theorem NMap.find_set (m : NMap β) (n k : Nat) (x : β) : NMap.find (NMap.set m n x) k = if k = n then some x else NMap.find m k := by
  split
  · subst k; exact NMap.find_set_self m n x
  · exact NMap.find_set_ne m x ‹_›

theorem NMap.getD_set (m : NMap β) (n k : Nat) (x d : β) : NMap.getD (NMap.set m n x) k d = if k = n then x else NMap.getD m k d := by
  unfold NMap.getD
  rw [NMap.find_set]
  split <;> rfl

/-- A map after the removal of one key. -/
theorem NMap.find_del (m : NMap β) (n k : Nat) : NMap.find (NMap.del m n) k = if k = n then none else NMap.find m k := by
  induction m with
  | nil => simp [NMap.del, NMap.find]
  | cons e m ih =>
    obtain ⟨j, y⟩ := e
    unfold NMap.del at ih ⊢
    by_cases hj : j = n
    · subst j
      simp only [List.filter_cons, bne_self_eq_false, Bool.false_eq_true, if_false, ih, NMap.find]
      split
      · rfl
      · rw [if_neg (fun h => ‹¬ k = n› h.symm)]
    · simp only [List.filter_cons, bne_iff_ne, ne_eq, hj, not_false_eq_true, if_true, NMap.find, ih]
      by_cases hk : j = k
      · subst k; simp [hj]
      · simp [hk]

theorem NMap.find_some_mem {m : NMap β} {n : Nat} {x : β} (h : NMap.find m n = some x) : (n, x) ∈ m := by
  induction m with
  | nil => simp [NMap.find] at h
  | cons e m ih =>
    obtain ⟨k, y⟩ := e
    simp only [NMap.find] at h
    split at h
    · subst k; cases h; exact List.mem_cons_self
    · exact List.mem_cons_of_mem _ (ih h)

theorem NMap.mem_set {m : NMap β} {n : Nat} {x : β} {e : Nat × β} (h : e ∈ NMap.set m n x) : e = (n, x) ∨ e ∈ m := by
  induction m with
  | nil => simpa [NMap.set] using h
  | cons f m ih =>
    obtain ⟨k, y⟩ := f
    unfold NMap.set at h
    split at h
    · simpa using h
    · split at h
      · rcases List.mem_cons.mp h with h | h
        · exact .inl h
        · exact .inr (List.mem_cons_of_mem _ h)
      · rcases List.mem_cons.mp h with h | h
        · exact .inr (h ▸ List.mem_cons_self)
        · exact (ih h).imp_right (List.mem_cons_of_mem _)

/-- The first key of a map is above `lo`. -/
def NMap.above (lo : Nat) : NMap β → Prop
  | [] => True
  | (k, _) :: _ => lo < k

theorem NMap.rising_cons {k : Nat} {x : β} {m : NMap β} : NMap.rising ((k, x) :: m) = true ↔ NMap.above k m ∧ NMap.rising m = true := by
  cases m with
  | nil => simp [NMap.rising, NMap.above]
  | cons e m => obtain ⟨n, y⟩ := e; simp [NMap.rising, NMap.above]

theorem NMap.above_set {lo n : Nat} {x : β} {m : NMap β} (h : NMap.above lo m) (hn : lo < n) : NMap.above lo (NMap.set m n x) := by
  cases m with
  | nil => exact hn
  | cons e m =>
    obtain ⟨k, y⟩ := e
    unfold NMap.set
    split
    · exact hn
    · split
      · exact hn
      · exact h

theorem NMap.rising_set {m : NMap β} {n : Nat} {x : β} (h : NMap.rising m = true) : NMap.rising (NMap.set m n x) = true := by
  induction m with
  | nil => rfl
  | cons e m ih =>
    obtain ⟨k, y⟩ := e
    have hh := NMap.rising_cons.mp h
    unfold NMap.set
    split
    · exact NMap.rising_cons.mpr ⟨‹n < k›, h⟩
    · split
      · subst k; exact NMap.rising_cons.mpr hh
      · exact NMap.rising_cons.mpr ⟨NMap.above_set hh.1 (by omega), ih hh.2⟩

theorem NMap.above_mono {a b : Nat} {m : NMap β} (h : NMap.above b m) (hab : a < b) : NMap.above a m := by
  cases m with
  | nil => trivial
  | cons e m => exact Nat.lt_trans hab h

theorem NMap.above_filter {lo : Nat} {m : NMap β} {p : Nat × β → Bool} (h : NMap.above lo m) (hr : NMap.rising m = true) :
    NMap.above lo (m.filter p) := by
  induction m generalizing lo with
  | nil => exact h
  | cons e m ih =>
    obtain ⟨k, y⟩ := e
    have hh := NMap.rising_cons.mp hr
    rw [List.filter_cons]
    split
    · exact h
    · exact ih (NMap.above_mono hh.1 h) hh.2

/-- A map that keeps some of its entries still rises. -/
theorem NMap.rising_filter {m : NMap β} {p : Nat × β → Bool} (h : NMap.rising m = true) : NMap.rising (m.filter p) = true := by
  induction m with
  | nil => rfl
  | cons e m ih =>
    obtain ⟨k, y⟩ := e
    have hh := NMap.rising_cons.mp h
    rw [List.filter_cons]
    split
    · exact NMap.rising_cons.mpr ⟨NMap.above_filter hh.1 hh.2, ih hh.2⟩
    · exact ih hh.2

theorem NMap.rising_del {m : NMap β} {n : Nat} (h : NMap.rising m = true) : NMap.rising (NMap.del m n) = true := NMap.rising_filter h

/-! ### Memories -/

theorem Memory.read_above {lo : Option Nat} {m : Memory} {a : Nat} (h : Memory.wfAbove lo m = true) (ha : ∃ l, lo = some l ∧ a ≤ l) :
    m.read a = 0 := by
  obtain ⟨l, rfl, ha⟩ := ha
  induction m generalizing l with
  | nil => rfl
  | cons e m ih =>
    obtain ⟨k, b⟩ := e
    simp only [Memory.wfAbove, Bool.and_eq_true, decide_eq_true_eq] at h
    unfold Memory.read
    rw [if_neg (by omega)]
    exact ih k (by omega) h.2

theorem Memory.read_write_aux {lo : Option Nat} (m : Memory) (a x : Nat) (b : Byte) (h : Memory.wfAbove lo m = true) :
    (m.write a b).read x = if x = a then b else m.read x := by
  induction m generalizing lo with
  | nil =>
    unfold Memory.write
    split
    · simp [Memory.read, *]
    · simp only [Memory.read]
      by_cases hx : x = a
      · simp [hx]
      · simp [hx, Ne.symm hx]
  | cons e m ih =>
    obtain ⟨k, c⟩ := e
    have hm := h
    simp only [Memory.wfAbove, Bool.and_eq_true] at hm
    unfold Memory.write
    by_cases h1 : a < k
    · rw [if_pos h1]
      have hz : Memory.read ((k, c) :: m) a = 0 := by
        unfold Memory.read
        rw [if_neg (by omega)]
        exact Memory.read_above hm.2 ⟨k, rfl, by omega⟩
      split
      · subst b
        split
        · subst x; exact hz
        · rfl
      · show (if a = x then b else _) = _
        by_cases hx : x = a
        · simp [hx]
        · simp [hx, Ne.symm hx]
    · rw [if_neg h1]
      by_cases h2 : a = k
      · rw [if_pos h2]
        subst a
        split
        · subst b
          by_cases hx : x = k
          · subst x; simpa using Memory.read_above hm.2 ⟨k, rfl, Nat.le_refl _⟩
          · simp [Memory.read, hx, Ne.symm hx]
        · by_cases hx : x = k
          · simp [Memory.read, hx]
          · simp [Memory.read, hx, Ne.symm hx]
      · rw [if_neg h2]
        show (if k = x then c else (Memory.write m a b).read x) = _
        rw [ih hm.2]
        by_cases hx : k = x
        · subst x; simp [Memory.read, Ne.symm h2]
        · simp [Memory.read, hx]

/-- A read after a write: the byte written, and every other byte as it was. -/
theorem Memory.read_write {m : Memory} (h : m.wf = true) (a x : Nat) (b : Byte) : (m.write a b).read x = if x = a then b else m.read x :=
  Memory.read_write_aux m a x b h

theorem Memory.wfAbove_write {lo : Option Nat} {m : Memory} {a : Nat} {b : Byte} (h : Memory.wfAbove lo m = true)
    (ha : ∀ l, lo = some l → l < a) : Memory.wfAbove lo (m.write a b) = true := by
  induction m generalizing lo with
  | nil =>
    unfold Memory.write
    split
    · rfl
    · rename_i hb
      cases lo with
      | none => simpa [Memory.wfAbove] using hb
      | some l => simpa [Memory.wfAbove, ha l rfl] using hb
  | cons e m ih =>
    obtain ⟨k, c⟩ := e
    have hm := h
    simp only [Memory.wfAbove, Bool.and_eq_true] at hm
    unfold Memory.write
    split
    · split
      · exact h
      · cases lo with
        | none => simp_all [Memory.wfAbove]
        | some l => simp_all [Memory.wfAbove]
    · split
      · split
        · subst a
          obtain ⟨⟨h1, _⟩, h2⟩ := hm
          cases m with
          | nil => rfl
          | cons f m =>
            obtain ⟨j, d⟩ := f
            simp only [Memory.wfAbove, Bool.and_eq_true, decide_eq_true_eq] at h2 ⊢
            refine ⟨⟨?_, h2.1.2⟩, h2.2⟩
            cases lo with
            | none => rfl
            | some l => simp only [decide_eq_true_eq] at h1 ⊢; omega
        · simp_all [Memory.wfAbove]
      · simp only [Memory.wfAbove, Bool.and_eq_true]
        exact ⟨hm.1, ih hm.2 (fun l hl => by cases hl; omega)⟩

/-- Every write keeps the canonical form. -/
theorem Memory.wf_write {m : Memory} (h : m.wf = true) (a : Nat) (b : Byte) : (m.write a b).wf = true :=
  Memory.wfAbove_write h (fun _ hl => by cases hl)

theorem Memory.wf_writeN {m : Memory} (h : m.wf = true) (a n v : Nat) : (m.writeN a n v).wf = true := by
  induction n generalizing m a v with
  | zero => exact h
  | succ n ih => exact ih (Memory.wf_write h a _) _ _

theorem Memory.wf_writeBytes {m : Memory} (h : m.wf = true) (a : Nat) (bs : List Byte) : (m.writeBytes a bs).wf = true := by
  induction bs generalizing m a with
  | nil => exact h
  | cons b bs ih => exact ih (Memory.wf_write h a b) _

theorem Memory.wf_writeMasked {m : Memory} (h : m.wf = true) (base : Nat) (mask : BitVec 128) (d : LineData) (n : Nat) :
    (m.writeMasked base mask d n).wf = true := by
  induction n with
  | zero => exact h
  | succ n ih =>
    unfold Memory.writeMasked
    simp only
    split
    · exact Memory.wf_write ih _ _
    · exact ih

theorem Memory.wfAbove_weaken {a : Nat} {lo : Option Nat} {m : Memory} (h : Memory.wfAbove (some a) m = true) (hl : ∀ l, lo = some l → l ≤ a) :
    Memory.wfAbove lo m = true := by
  cases m with
  | nil => rfl
  | cons e m =>
    obtain ⟨k, b⟩ := e
    simp only [Memory.wfAbove, Bool.and_eq_true, decide_eq_true_eq] at h ⊢
    refine ⟨⟨?_, h.1.2⟩, h.2⟩
    cases lo with
    | none => rfl
    | some l => simp only [decide_eq_true_eq]; have := hl l rfl; omega

theorem Memory.wfAbove_filter {lo : Option Nat} {m : Memory} {p : Host.Cell → Bool} (h : Memory.wfAbove lo m = true) :
    Memory.wfAbove lo (m.filter p) = true := by
  induction m generalizing lo with
  | nil => rfl
  | cons e m ih =>
    obtain ⟨k, b⟩ := e
    have hm := h
    simp only [Memory.wfAbove, Bool.and_eq_true] at hm
    rw [List.filter_cons]
    split
    · simp only [Memory.wfAbove, Bool.and_eq_true]
      exact ⟨hm.1, ih hm.2⟩
    · refine ih (Memory.wfAbove_weaken hm.2 fun l hl => ?_)
      subst hl
      have := hm.1.1
      simp only [decide_eq_true_eq] at this
      omega

theorem Memory.wf_clear {m : Memory} (h : m.wf = true) (a n : Nat) : (m.clear a n).wf = true := Memory.wfAbove_filter h

/-- The bytes from an address after a write of a list of bytes there. -/
theorem Memory.read_writeBytes {m : Memory} (h : m.wf = true) (a x : Nat) (bs : List Byte) :
    (m.writeBytes a bs).read x = if a ≤ x ∧ x < a + bs.length then bs.getD (x - a) 0 else m.read x := by
  induction bs generalizing m a with
  | nil => simp only [Memory.writeBytes, List.length_nil]; rw [if_neg (by omega)]
  | cons b bs ih =>
    show (Memory.writeBytes (m.write a b) (a + 1) bs).read x = _
    rw [ih (Memory.wf_write h a b), Memory.read_write h]
    by_cases hx : x = a
    · subst x
      rw [if_neg (by omega), if_pos rfl, if_pos (by simp)]
      simp
    · simp only [hx, if_false, List.length_cons]
      by_cases hc : a + 1 ≤ x ∧ x < a + 1 + bs.length
      · rw [if_pos hc, if_pos (by omega), show x - a = (x - (a + 1)) + 1 by omega, List.getD_cons_succ]
      · rw [if_neg hc, if_neg (by omega)]

/-- The same of a number of n bytes, lowest first (R3). -/
theorem Memory.read_writeN {m : Memory} (h : m.wf = true) (a x n v : Nat) :
    (m.writeN a n v).read x = if a ≤ x ∧ x < a + n then BitVec.ofNat 8 (v / 256 ^ (x - a)) else m.read x := by
  induction n generalizing m a v with
  | zero => simp only [Memory.writeN]; rw [if_neg (by omega)]
  | succ n ih =>
    show (Memory.writeN (m.write a (BitVec.ofNat 8 v)) (a + 1) n (v / 256)).read x = _
    rw [ih (Memory.wf_write h a _), Memory.read_write h]
    by_cases hx : x = a
    · subst x
      rw [if_neg (by omega), if_pos rfl, if_pos (by omega)]
      simp
    · simp only [hx, if_false]
      by_cases hc : a + 1 ≤ x ∧ x < a + 1 + n
      · rw [if_pos hc, if_pos (by omega), show x - a = (x - (a + 1)) + 1 by omega, Nat.pow_succ, Nat.div_div_eq_div_mul, Nat.mul_comm]
      · rw [if_neg hc, if_neg (by omega)]

/-- The same of a cleared range. -/
theorem Memory.read_clear (m : Memory) (a n x : Nat) : (m.clear a n).read x = if a ≤ x ∧ x < a + n then 0 else m.read x := by
  induction m with
  | nil => simp [Memory.clear, Memory.read]
  | cons e m ih =>
    obtain ⟨k, b⟩ := e
    unfold Memory.clear at ih ⊢
    rw [List.filter_cons]
    split
    · rename_i hk
      simp only [Bool.not_eq_true', Bool.and_eq_false_iff, decide_eq_false_iff_not] at hk
      unfold Memory.read
      rw [ih]
      by_cases hx : k = x
      · subst x; simp only [if_true]; rw [if_neg (by omega)]
      · simp [hx]
    · rename_i hk
      simp only [Bool.not_eq_true', Bool.and_eq_false_iff, decide_eq_false_iff_not, not_or, not_not] at hk
      rw [ih]
      split
      · rfl
      · conv => rhs; unfold Memory.read
        rw [if_neg (by omega)]

end Sys2Proof.Machine
end

