-- ==== Sys2Proof/Laws/State.lean ====
section
/-! SUPPORT. What each update of the state leaves in each field: one lemma per field per update, true by definition; and what a unit, a
context and the other parts hold after an update. -/
namespace Sys2Proof.Machine

/-! ### setUnit -/

@[simp] theorem State.setUnit_agenda (s : State) (u x) : (s.setUnit u x).agenda = s.agenda := rfl
@[simp] theorem State.setUnit_issuing (s : State) (u x) : (s.setUnit u x).issuing = s.issuing := rfl
@[simp] theorem State.setUnit_cur (s : State) (u x) : (s.setUnit u x).cur = s.cur := rfl
@[simp] theorem State.setUnit_turn (s : State) (u x) : (s.setUnit u x).turn = s.turn := rfl
@[simp] theorem State.setUnit_freeCtr (s : State) (u x) : (s.setUnit u x).freeCtr = s.freeCtr := rfl
@[simp] theorem State.setUnit_duty (s : State) (u x) : (s.setUnit u x).duty = s.duty := rfl
@[simp] theorem State.setUnit_patience (s : State) (u x) : (s.setUnit u x).patience = s.patience := rfl
@[simp] theorem State.setUnit_nextId (s : State) (u x) : (s.setUnit u x).nextId = s.nextId := rfl
@[simp] theorem State.setUnit_outs (s : State) (u x) : (s.setUnit u x).outs = s.outs := rfl
@[simp] theorem State.setUnit_phase (s : State) (u x) : (s.setUnit u x).phase = s.phase := rfl
@[simp] theorem State.setUnit_failCode (s : State) (u x) : (s.setUnit u x).failCode = s.failCode := rfl
@[simp] theorem State.setUnit_failDie (s : State) (u x) : (s.setUnit u x).failDie = s.failDie := rfl
@[simp] theorem State.setUnit_ready (s : State) (u x) : (s.setUnit u x).ready = s.ready := rfl
@[simp] theorem State.setUnit_gwdown (s : State) (u x) : (s.setUnit u x).gwdown = s.gwdown := rfl
@[simp] theorem State.setUnit_pkgNo (s : State) (u x) : (s.setUnit u x).pkgNo = s.pkgNo := rfl
@[simp] theorem State.setUnit_pgrace (s : State) (u x) : (s.setUnit u x).pgrace = s.pgrace := rfl
@[simp] theorem State.setUnit_replup (s : State) (u x) : (s.setUnit u x).replup = s.replup := rfl
@[simp] theorem State.setUnit_replwmax (s : State) (u x) : (s.setUnit u x).replwmax = s.replwmax := rfl
@[simp] theorem State.setUnit_repldown (s : State) (u x) : (s.setUnit u x).repldown = s.repldown := rfl
@[simp] theorem State.setUnit_snapctl (s : State) (u x) : (s.setUnit u x).snapctl = s.snapctl := rfl
@[simp] theorem State.setUnit_snaps (s : State) (u x) : (s.setUnit u x).snaps = s.snaps := rfl
@[simp] theorem State.setUnit_dbgsel (s : State) (u x) : (s.setUnit u x).dbgsel = s.dbgsel := rfl
@[simp] theorem State.setUnit_plimit (s : State) (u x) : (s.setUnit u x).plimit = s.plimit := rfl
@[simp] theorem State.setUnit_pwr (s : State) (u x) : (s.setUnit u x).pwr = s.pwr := rfl
@[simp] theorem State.setUnit_trip (s : State) (u x) : (s.setUnit u x).trip = s.trip := rfl
@[simp] theorem State.setUnit_mem (s : State) (u x) : (s.setUnit u x).mem = s.mem := rfl
@[simp] theorem State.setUnit_lines (s : State) (u x) : (s.setUnit u x).lines = s.lines := rfl
@[simp] theorem State.setUnit_keys (s : State) (u x) : (s.setUnit u x).keys = s.keys := rfl
@[simp] theorem State.setUnit_regions (s : State) (u x) : (s.setUnit u x).regions = s.regions := rfl
@[simp] theorem State.setUnit_dir (s : State) (u x) : (s.setUnit u x).dir = s.dir := rfl
@[simp] theorem State.setUnit_reps (s : State) (u x) : (s.setUnit u x).reps = s.reps := rfl
@[simp] theorem State.setUnit_repFills (s : State) (u x) : (s.setUnit u x).repFills = s.repFills := rfl
@[simp] theorem State.setUnit_invs (s : State) (u x) : (s.setUnit u x).invs = s.invs := rfl
@[simp] theorem State.setUnit_side (s : State) (u x) : (s.setUnit u x).side = s.side := rfl
@[simp] theorem State.setUnit_satLines (s : State) (u x) : (s.setUnit u x).satLines = s.satLines := rfl
@[simp] theorem State.setUnit_reds (s : State) (u x) : (s.setUnit u x).reds = s.reds := rfl
@[simp] theorem State.setUnit_slices (s : State) (u x) : (s.setUnit u x).slices = s.slices := rfl
@[simp] theorem State.setUnit_marks (s : State) (u x) : (s.setUnit u x).marks = s.marks := rfl
@[simp] theorem State.setUnit_unacked (s : State) (u x) : (s.setUnit u x).unacked = s.unacked := rfl
@[simp] theorem State.setUnit_hostMem (s : State) (u x) : (s.setUnit u x).hostMem = s.hostMem := rfl
@[simp] theorem State.setUnit_hostOwn (s : State) (u x) : (s.setUnit u x).hostOwn = s.hostOwn := rfl
@[simp] theorem State.setUnit_snoops (s : State) (u x) : (s.setUnit u x).snoops = s.snoops := rfl
@[simp] theorem State.setUnit_homeReqs (s : State) (u x) : (s.setUnit u x).homeReqs = s.homeReqs := rfl
@[simp] theorem State.setUnit_tlb (s : State) (u x) : (s.setUnit u x).tlb = s.tlb := rfl
@[simp] theorem State.setUnit_walks (s : State) (u x) : (s.setUnit u x).walks = s.walks := rfl
@[simp] theorem State.setUnit_atc (s : State) (u x) : (s.setUnit u x).atc = s.atc := rfl
@[simp] theorem State.setUnit_atsReqs (s : State) (u x) : (s.setUnit u x).atsReqs = s.atsReqs := rfl
@[simp] theorem State.setUnit_tlbiPend (s : State) (u x) : (s.setUnit u x).tlbiPend = s.tlbiPend := rfl
@[simp] theorem State.setUnit_mapCache (s : State) (u x) : (s.setUnit u x).mapCache = s.mapCache := rfl
@[simp] theorem State.setUnit_faults (s : State) (u x) : (s.setUnit u x).faults = s.faults := rfl
@[simp] theorem State.setUnit_parts (s : State) (u x) : (s.setUnit u x).parts = s.parts := rfl
@[simp] theorem State.setUnit_fns (s : State) (u x) : (s.setUnit u x).fns = s.fns := rfl
@[simp] theorem State.setUnit_dies (s : State) (u x) : (s.setUnit u x).dies = s.dies := rfl
@[simp] theorem State.setUnit_tiles (s : State) (u x) : (s.setUnit u x).tiles = s.tiles := rfl
@[simp] theorem State.setUnit_units (s : State) (u x) : (s.setUnit u x).units = NMap.set s.units (ukey u) x := rfl
@[simp] theorem State.setUnit_islands (s : State) (u x) : (s.setUnit u x).islands = s.islands := rfl
@[simp] theorem State.setUnit_slots (s : State) (u x) : (s.setUnit u x).slots = s.slots := rfl
@[simp] theorem State.setUnit_rrLast (s : State) (u x) : (s.setUnit u x).rrLast = s.rrLast := rfl
@[simp] theorem State.setUnit_orderNo (s : State) (u x) : (s.setUnit u x).orderNo = s.orderNo := rfl
@[simp] theorem State.setUnit_pend (s : State) (u x) : (s.setUnit u x).pend = s.pend := rfl
@[simp] theorem State.setUnit_nlost (s : State) (u x) : (s.setUnit u x).nlost = s.nlost := rfl
@[simp] theorem State.setUnit_notifylost (s : State) (u x) : (s.setUnit u x).notifylost = s.notifylost := rfl
@[simp] theorem State.setUnit_launches (s : State) (u x) : (s.setUnit u x).launches = s.launches := rfl
@[simp] theorem State.setUnit_lstat (s : State) (u x) : (s.setUnit u x).lstat = s.lstat := rfl
@[simp] theorem State.setUnit_resvs (s : State) (u x) : (s.setUnit u x).resvs = s.resvs := rfl
@[simp] theorem State.setUnit_flights (s : State) (u x) : (s.setUnit u x).flights = s.flights := rfl
@[simp] theorem State.setUnit_retires (s : State) (u x) : (s.setUnit u x).retires = s.retires := rfl
@[simp] theorem State.setUnit_parkWait (s : State) (u x) : (s.setUnit u x).parkWait = s.parkWait := rfl
@[simp] theorem State.setUnit_pushWait (s : State) (u x) : (s.setUnit u x).pushWait = s.pushWait := rfl
@[simp] theorem State.setUnit_groups (s : State) (u x) : (s.setUnit u x).groups = s.groups := rfl
@[simp] theorem State.setUnit_ctimeout (s : State) (u x) : (s.setUnit u x).ctimeout = s.ctimeout := rfl
@[simp] theorem State.setUnit_gw (s : State) (u x) : (s.setUnit u x).gw = s.gw := rfl
@[simp] theorem State.setUnit_gwErr (s : State) (u x) : (s.setUnit u x).gwErr = s.gwErr := rfl

/-! ### modUnit -/

@[simp] theorem State.modUnit_agenda (s : State) (u f) : (s.modUnit u f).agenda = s.agenda := rfl
@[simp] theorem State.modUnit_issuing (s : State) (u f) : (s.modUnit u f).issuing = s.issuing := rfl
@[simp] theorem State.modUnit_cur (s : State) (u f) : (s.modUnit u f).cur = s.cur := rfl
@[simp] theorem State.modUnit_turn (s : State) (u f) : (s.modUnit u f).turn = s.turn := rfl
@[simp] theorem State.modUnit_freeCtr (s : State) (u f) : (s.modUnit u f).freeCtr = s.freeCtr := rfl
@[simp] theorem State.modUnit_duty (s : State) (u f) : (s.modUnit u f).duty = s.duty := rfl
@[simp] theorem State.modUnit_patience (s : State) (u f) : (s.modUnit u f).patience = s.patience := rfl
@[simp] theorem State.modUnit_nextId (s : State) (u f) : (s.modUnit u f).nextId = s.nextId := rfl
@[simp] theorem State.modUnit_outs (s : State) (u f) : (s.modUnit u f).outs = s.outs := rfl
@[simp] theorem State.modUnit_phase (s : State) (u f) : (s.modUnit u f).phase = s.phase := rfl
@[simp] theorem State.modUnit_failCode (s : State) (u f) : (s.modUnit u f).failCode = s.failCode := rfl
@[simp] theorem State.modUnit_failDie (s : State) (u f) : (s.modUnit u f).failDie = s.failDie := rfl
@[simp] theorem State.modUnit_ready (s : State) (u f) : (s.modUnit u f).ready = s.ready := rfl
@[simp] theorem State.modUnit_gwdown (s : State) (u f) : (s.modUnit u f).gwdown = s.gwdown := rfl
@[simp] theorem State.modUnit_pkgNo (s : State) (u f) : (s.modUnit u f).pkgNo = s.pkgNo := rfl
@[simp] theorem State.modUnit_pgrace (s : State) (u f) : (s.modUnit u f).pgrace = s.pgrace := rfl
@[simp] theorem State.modUnit_replup (s : State) (u f) : (s.modUnit u f).replup = s.replup := rfl
@[simp] theorem State.modUnit_replwmax (s : State) (u f) : (s.modUnit u f).replwmax = s.replwmax := rfl
@[simp] theorem State.modUnit_repldown (s : State) (u f) : (s.modUnit u f).repldown = s.repldown := rfl
@[simp] theorem State.modUnit_snapctl (s : State) (u f) : (s.modUnit u f).snapctl = s.snapctl := rfl
@[simp] theorem State.modUnit_snaps (s : State) (u f) : (s.modUnit u f).snaps = s.snaps := rfl
@[simp] theorem State.modUnit_dbgsel (s : State) (u f) : (s.modUnit u f).dbgsel = s.dbgsel := rfl
@[simp] theorem State.modUnit_plimit (s : State) (u f) : (s.modUnit u f).plimit = s.plimit := rfl
@[simp] theorem State.modUnit_pwr (s : State) (u f) : (s.modUnit u f).pwr = s.pwr := rfl
@[simp] theorem State.modUnit_trip (s : State) (u f) : (s.modUnit u f).trip = s.trip := rfl
@[simp] theorem State.modUnit_mem (s : State) (u f) : (s.modUnit u f).mem = s.mem := rfl
@[simp] theorem State.modUnit_lines (s : State) (u f) : (s.modUnit u f).lines = s.lines := rfl
@[simp] theorem State.modUnit_keys (s : State) (u f) : (s.modUnit u f).keys = s.keys := rfl
@[simp] theorem State.modUnit_regions (s : State) (u f) : (s.modUnit u f).regions = s.regions := rfl
@[simp] theorem State.modUnit_dir (s : State) (u f) : (s.modUnit u f).dir = s.dir := rfl
@[simp] theorem State.modUnit_reps (s : State) (u f) : (s.modUnit u f).reps = s.reps := rfl
@[simp] theorem State.modUnit_repFills (s : State) (u f) : (s.modUnit u f).repFills = s.repFills := rfl
@[simp] theorem State.modUnit_invs (s : State) (u f) : (s.modUnit u f).invs = s.invs := rfl
@[simp] theorem State.modUnit_side (s : State) (u f) : (s.modUnit u f).side = s.side := rfl
@[simp] theorem State.modUnit_satLines (s : State) (u f) : (s.modUnit u f).satLines = s.satLines := rfl
@[simp] theorem State.modUnit_reds (s : State) (u f) : (s.modUnit u f).reds = s.reds := rfl
@[simp] theorem State.modUnit_slices (s : State) (u f) : (s.modUnit u f).slices = s.slices := rfl
@[simp] theorem State.modUnit_marks (s : State) (u f) : (s.modUnit u f).marks = s.marks := rfl
@[simp] theorem State.modUnit_unacked (s : State) (u f) : (s.modUnit u f).unacked = s.unacked := rfl
@[simp] theorem State.modUnit_hostMem (s : State) (u f) : (s.modUnit u f).hostMem = s.hostMem := rfl
@[simp] theorem State.modUnit_hostOwn (s : State) (u f) : (s.modUnit u f).hostOwn = s.hostOwn := rfl
@[simp] theorem State.modUnit_snoops (s : State) (u f) : (s.modUnit u f).snoops = s.snoops := rfl
@[simp] theorem State.modUnit_homeReqs (s : State) (u f) : (s.modUnit u f).homeReqs = s.homeReqs := rfl
@[simp] theorem State.modUnit_tlb (s : State) (u f) : (s.modUnit u f).tlb = s.tlb := rfl
@[simp] theorem State.modUnit_walks (s : State) (u f) : (s.modUnit u f).walks = s.walks := rfl
@[simp] theorem State.modUnit_atc (s : State) (u f) : (s.modUnit u f).atc = s.atc := rfl
@[simp] theorem State.modUnit_atsReqs (s : State) (u f) : (s.modUnit u f).atsReqs = s.atsReqs := rfl
@[simp] theorem State.modUnit_tlbiPend (s : State) (u f) : (s.modUnit u f).tlbiPend = s.tlbiPend := rfl
@[simp] theorem State.modUnit_mapCache (s : State) (u f) : (s.modUnit u f).mapCache = s.mapCache := rfl
@[simp] theorem State.modUnit_faults (s : State) (u f) : (s.modUnit u f).faults = s.faults := rfl
@[simp] theorem State.modUnit_parts (s : State) (u f) : (s.modUnit u f).parts = s.parts := rfl
@[simp] theorem State.modUnit_fns (s : State) (u f) : (s.modUnit u f).fns = s.fns := rfl
@[simp] theorem State.modUnit_dies (s : State) (u f) : (s.modUnit u f).dies = s.dies := rfl
@[simp] theorem State.modUnit_tiles (s : State) (u f) : (s.modUnit u f).tiles = s.tiles := rfl
@[simp] theorem State.modUnit_units (s : State) (u f) : (s.modUnit u f).units = NMap.set s.units (ukey u) (f (s.unit u)) := rfl
@[simp] theorem State.modUnit_islands (s : State) (u f) : (s.modUnit u f).islands = s.islands := rfl
@[simp] theorem State.modUnit_slots (s : State) (u f) : (s.modUnit u f).slots = s.slots := rfl
@[simp] theorem State.modUnit_rrLast (s : State) (u f) : (s.modUnit u f).rrLast = s.rrLast := rfl
@[simp] theorem State.modUnit_orderNo (s : State) (u f) : (s.modUnit u f).orderNo = s.orderNo := rfl
@[simp] theorem State.modUnit_pend (s : State) (u f) : (s.modUnit u f).pend = s.pend := rfl
@[simp] theorem State.modUnit_nlost (s : State) (u f) : (s.modUnit u f).nlost = s.nlost := rfl
@[simp] theorem State.modUnit_notifylost (s : State) (u f) : (s.modUnit u f).notifylost = s.notifylost := rfl
@[simp] theorem State.modUnit_launches (s : State) (u f) : (s.modUnit u f).launches = s.launches := rfl
@[simp] theorem State.modUnit_lstat (s : State) (u f) : (s.modUnit u f).lstat = s.lstat := rfl
@[simp] theorem State.modUnit_resvs (s : State) (u f) : (s.modUnit u f).resvs = s.resvs := rfl
@[simp] theorem State.modUnit_flights (s : State) (u f) : (s.modUnit u f).flights = s.flights := rfl
@[simp] theorem State.modUnit_retires (s : State) (u f) : (s.modUnit u f).retires = s.retires := rfl
@[simp] theorem State.modUnit_parkWait (s : State) (u f) : (s.modUnit u f).parkWait = s.parkWait := rfl
@[simp] theorem State.modUnit_pushWait (s : State) (u f) : (s.modUnit u f).pushWait = s.pushWait := rfl
@[simp] theorem State.modUnit_groups (s : State) (u f) : (s.modUnit u f).groups = s.groups := rfl
@[simp] theorem State.modUnit_ctimeout (s : State) (u f) : (s.modUnit u f).ctimeout = s.ctimeout := rfl
@[simp] theorem State.modUnit_gw (s : State) (u f) : (s.modUnit u f).gw = s.gw := rfl
@[simp] theorem State.modUnit_gwErr (s : State) (u f) : (s.modUnit u f).gwErr = s.gwErr := rfl

/-! ### setStrand -/

@[simp] theorem State.setStrand_agenda (s : State) (c t) : (s.setStrand c t).agenda = s.agenda := rfl
@[simp] theorem State.setStrand_issuing (s : State) (c t) : (s.setStrand c t).issuing = s.issuing := rfl
@[simp] theorem State.setStrand_cur (s : State) (c t) : (s.setStrand c t).cur = s.cur := rfl
@[simp] theorem State.setStrand_turn (s : State) (c t) : (s.setStrand c t).turn = s.turn := rfl
@[simp] theorem State.setStrand_freeCtr (s : State) (c t) : (s.setStrand c t).freeCtr = s.freeCtr := rfl
@[simp] theorem State.setStrand_duty (s : State) (c t) : (s.setStrand c t).duty = s.duty := rfl
@[simp] theorem State.setStrand_patience (s : State) (c t) : (s.setStrand c t).patience = s.patience := rfl
@[simp] theorem State.setStrand_nextId (s : State) (c t) : (s.setStrand c t).nextId = s.nextId := rfl
@[simp] theorem State.setStrand_outs (s : State) (c t) : (s.setStrand c t).outs = s.outs := rfl
@[simp] theorem State.setStrand_phase (s : State) (c t) : (s.setStrand c t).phase = s.phase := rfl
@[simp] theorem State.setStrand_failCode (s : State) (c t) : (s.setStrand c t).failCode = s.failCode := rfl
@[simp] theorem State.setStrand_failDie (s : State) (c t) : (s.setStrand c t).failDie = s.failDie := rfl
@[simp] theorem State.setStrand_ready (s : State) (c t) : (s.setStrand c t).ready = s.ready := rfl
@[simp] theorem State.setStrand_gwdown (s : State) (c t) : (s.setStrand c t).gwdown = s.gwdown := rfl
@[simp] theorem State.setStrand_pkgNo (s : State) (c t) : (s.setStrand c t).pkgNo = s.pkgNo := rfl
@[simp] theorem State.setStrand_pgrace (s : State) (c t) : (s.setStrand c t).pgrace = s.pgrace := rfl
@[simp] theorem State.setStrand_replup (s : State) (c t) : (s.setStrand c t).replup = s.replup := rfl
@[simp] theorem State.setStrand_replwmax (s : State) (c t) : (s.setStrand c t).replwmax = s.replwmax := rfl
@[simp] theorem State.setStrand_repldown (s : State) (c t) : (s.setStrand c t).repldown = s.repldown := rfl
@[simp] theorem State.setStrand_snapctl (s : State) (c t) : (s.setStrand c t).snapctl = s.snapctl := rfl
@[simp] theorem State.setStrand_snaps (s : State) (c t) : (s.setStrand c t).snaps = s.snaps := rfl
@[simp] theorem State.setStrand_dbgsel (s : State) (c t) : (s.setStrand c t).dbgsel = s.dbgsel := rfl
@[simp] theorem State.setStrand_plimit (s : State) (c t) : (s.setStrand c t).plimit = s.plimit := rfl
@[simp] theorem State.setStrand_pwr (s : State) (c t) : (s.setStrand c t).pwr = s.pwr := rfl
@[simp] theorem State.setStrand_trip (s : State) (c t) : (s.setStrand c t).trip = s.trip := rfl
@[simp] theorem State.setStrand_mem (s : State) (c t) : (s.setStrand c t).mem = s.mem := rfl
@[simp] theorem State.setStrand_lines (s : State) (c t) : (s.setStrand c t).lines = s.lines := rfl
@[simp] theorem State.setStrand_keys (s : State) (c t) : (s.setStrand c t).keys = s.keys := rfl
@[simp] theorem State.setStrand_regions (s : State) (c t) : (s.setStrand c t).regions = s.regions := rfl
@[simp] theorem State.setStrand_dir (s : State) (c t) : (s.setStrand c t).dir = s.dir := rfl
@[simp] theorem State.setStrand_reps (s : State) (c t) : (s.setStrand c t).reps = s.reps := rfl
@[simp] theorem State.setStrand_repFills (s : State) (c t) : (s.setStrand c t).repFills = s.repFills := rfl
@[simp] theorem State.setStrand_invs (s : State) (c t) : (s.setStrand c t).invs = s.invs := rfl
@[simp] theorem State.setStrand_side (s : State) (c t) : (s.setStrand c t).side = s.side := rfl
@[simp] theorem State.setStrand_satLines (s : State) (c t) : (s.setStrand c t).satLines = s.satLines := rfl
@[simp] theorem State.setStrand_reds (s : State) (c t) : (s.setStrand c t).reds = s.reds := rfl
@[simp] theorem State.setStrand_slices (s : State) (c t) : (s.setStrand c t).slices = s.slices := rfl
@[simp] theorem State.setStrand_marks (s : State) (c t) : (s.setStrand c t).marks = s.marks := rfl
@[simp] theorem State.setStrand_unacked (s : State) (c t) : (s.setStrand c t).unacked = s.unacked := rfl
@[simp] theorem State.setStrand_hostMem (s : State) (c t) : (s.setStrand c t).hostMem = s.hostMem := rfl
@[simp] theorem State.setStrand_hostOwn (s : State) (c t) : (s.setStrand c t).hostOwn = s.hostOwn := rfl
@[simp] theorem State.setStrand_snoops (s : State) (c t) : (s.setStrand c t).snoops = s.snoops := rfl
@[simp] theorem State.setStrand_homeReqs (s : State) (c t) : (s.setStrand c t).homeReqs = s.homeReqs := rfl
@[simp] theorem State.setStrand_tlb (s : State) (c t) : (s.setStrand c t).tlb = s.tlb := rfl
@[simp] theorem State.setStrand_walks (s : State) (c t) : (s.setStrand c t).walks = s.walks := rfl
@[simp] theorem State.setStrand_atc (s : State) (c t) : (s.setStrand c t).atc = s.atc := rfl
@[simp] theorem State.setStrand_atsReqs (s : State) (c t) : (s.setStrand c t).atsReqs = s.atsReqs := rfl
@[simp] theorem State.setStrand_tlbiPend (s : State) (c t) : (s.setStrand c t).tlbiPend = s.tlbiPend := rfl
@[simp] theorem State.setStrand_mapCache (s : State) (c t) : (s.setStrand c t).mapCache = s.mapCache := rfl
@[simp] theorem State.setStrand_faults (s : State) (c t) : (s.setStrand c t).faults = s.faults := rfl
@[simp] theorem State.setStrand_parts (s : State) (c t) : (s.setStrand c t).parts = s.parts := rfl
@[simp] theorem State.setStrand_fns (s : State) (c t) : (s.setStrand c t).fns = s.fns := rfl
@[simp] theorem State.setStrand_dies (s : State) (c t) : (s.setStrand c t).dies = s.dies := rfl
@[simp] theorem State.setStrand_tiles (s : State) (c t) : (s.setStrand c t).tiles = s.tiles := rfl
@[simp] theorem State.setStrand_islands (s : State) (c t) : (s.setStrand c t).islands = s.islands := rfl
@[simp] theorem State.setStrand_slots (s : State) (c t) : (s.setStrand c t).slots = s.slots := rfl
@[simp] theorem State.setStrand_rrLast (s : State) (c t) : (s.setStrand c t).rrLast = s.rrLast := rfl
@[simp] theorem State.setStrand_orderNo (s : State) (c t) : (s.setStrand c t).orderNo = s.orderNo := rfl
@[simp] theorem State.setStrand_pend (s : State) (c t) : (s.setStrand c t).pend = s.pend := rfl
@[simp] theorem State.setStrand_nlost (s : State) (c t) : (s.setStrand c t).nlost = s.nlost := rfl
@[simp] theorem State.setStrand_notifylost (s : State) (c t) : (s.setStrand c t).notifylost = s.notifylost := rfl
@[simp] theorem State.setStrand_launches (s : State) (c t) : (s.setStrand c t).launches = s.launches := rfl
@[simp] theorem State.setStrand_lstat (s : State) (c t) : (s.setStrand c t).lstat = s.lstat := rfl
@[simp] theorem State.setStrand_resvs (s : State) (c t) : (s.setStrand c t).resvs = s.resvs := rfl
@[simp] theorem State.setStrand_flights (s : State) (c t) : (s.setStrand c t).flights = s.flights := rfl
@[simp] theorem State.setStrand_retires (s : State) (c t) : (s.setStrand c t).retires = s.retires := rfl
@[simp] theorem State.setStrand_parkWait (s : State) (c t) : (s.setStrand c t).parkWait = s.parkWait := rfl
@[simp] theorem State.setStrand_pushWait (s : State) (c t) : (s.setStrand c t).pushWait = s.pushWait := rfl
@[simp] theorem State.setStrand_groups (s : State) (c t) : (s.setStrand c t).groups = s.groups := rfl
@[simp] theorem State.setStrand_ctimeout (s : State) (c t) : (s.setStrand c t).ctimeout = s.ctimeout := rfl
@[simp] theorem State.setStrand_gw (s : State) (c t) : (s.setStrand c t).gw = s.gw := rfl
@[simp] theorem State.setStrand_gwErr (s : State) (c t) : (s.setStrand c t).gwErr = s.gwErr := rfl

/-! ### delStrand -/

@[simp] theorem State.delStrand_agenda (s : State) (c) : (s.delStrand c).agenda = s.agenda := rfl
@[simp] theorem State.delStrand_issuing (s : State) (c) : (s.delStrand c).issuing = s.issuing := rfl
@[simp] theorem State.delStrand_cur (s : State) (c) : (s.delStrand c).cur = s.cur := rfl
@[simp] theorem State.delStrand_turn (s : State) (c) : (s.delStrand c).turn = s.turn := rfl
@[simp] theorem State.delStrand_freeCtr (s : State) (c) : (s.delStrand c).freeCtr = s.freeCtr := rfl
@[simp] theorem State.delStrand_duty (s : State) (c) : (s.delStrand c).duty = s.duty := rfl
@[simp] theorem State.delStrand_patience (s : State) (c) : (s.delStrand c).patience = s.patience := rfl
@[simp] theorem State.delStrand_nextId (s : State) (c) : (s.delStrand c).nextId = s.nextId := rfl
@[simp] theorem State.delStrand_outs (s : State) (c) : (s.delStrand c).outs = s.outs := rfl
@[simp] theorem State.delStrand_phase (s : State) (c) : (s.delStrand c).phase = s.phase := rfl
@[simp] theorem State.delStrand_failCode (s : State) (c) : (s.delStrand c).failCode = s.failCode := rfl
@[simp] theorem State.delStrand_failDie (s : State) (c) : (s.delStrand c).failDie = s.failDie := rfl
@[simp] theorem State.delStrand_ready (s : State) (c) : (s.delStrand c).ready = s.ready := rfl
@[simp] theorem State.delStrand_gwdown (s : State) (c) : (s.delStrand c).gwdown = s.gwdown := rfl
@[simp] theorem State.delStrand_pkgNo (s : State) (c) : (s.delStrand c).pkgNo = s.pkgNo := rfl
@[simp] theorem State.delStrand_pgrace (s : State) (c) : (s.delStrand c).pgrace = s.pgrace := rfl
@[simp] theorem State.delStrand_replup (s : State) (c) : (s.delStrand c).replup = s.replup := rfl
@[simp] theorem State.delStrand_replwmax (s : State) (c) : (s.delStrand c).replwmax = s.replwmax := rfl
@[simp] theorem State.delStrand_repldown (s : State) (c) : (s.delStrand c).repldown = s.repldown := rfl
@[simp] theorem State.delStrand_snapctl (s : State) (c) : (s.delStrand c).snapctl = s.snapctl := rfl
@[simp] theorem State.delStrand_snaps (s : State) (c) : (s.delStrand c).snaps = s.snaps := rfl
@[simp] theorem State.delStrand_dbgsel (s : State) (c) : (s.delStrand c).dbgsel = s.dbgsel := rfl
@[simp] theorem State.delStrand_plimit (s : State) (c) : (s.delStrand c).plimit = s.plimit := rfl
@[simp] theorem State.delStrand_pwr (s : State) (c) : (s.delStrand c).pwr = s.pwr := rfl
@[simp] theorem State.delStrand_trip (s : State) (c) : (s.delStrand c).trip = s.trip := rfl
@[simp] theorem State.delStrand_mem (s : State) (c) : (s.delStrand c).mem = s.mem := rfl
@[simp] theorem State.delStrand_lines (s : State) (c) : (s.delStrand c).lines = s.lines := rfl
@[simp] theorem State.delStrand_keys (s : State) (c) : (s.delStrand c).keys = s.keys := rfl
@[simp] theorem State.delStrand_regions (s : State) (c) : (s.delStrand c).regions = s.regions := rfl
@[simp] theorem State.delStrand_dir (s : State) (c) : (s.delStrand c).dir = s.dir := rfl
@[simp] theorem State.delStrand_reps (s : State) (c) : (s.delStrand c).reps = s.reps := rfl
@[simp] theorem State.delStrand_repFills (s : State) (c) : (s.delStrand c).repFills = s.repFills := rfl
@[simp] theorem State.delStrand_invs (s : State) (c) : (s.delStrand c).invs = s.invs := rfl
@[simp] theorem State.delStrand_side (s : State) (c) : (s.delStrand c).side = s.side := rfl
@[simp] theorem State.delStrand_satLines (s : State) (c) : (s.delStrand c).satLines = s.satLines := rfl
@[simp] theorem State.delStrand_reds (s : State) (c) : (s.delStrand c).reds = s.reds := rfl
@[simp] theorem State.delStrand_slices (s : State) (c) : (s.delStrand c).slices = s.slices := rfl
@[simp] theorem State.delStrand_marks (s : State) (c) : (s.delStrand c).marks = s.marks := rfl
@[simp] theorem State.delStrand_unacked (s : State) (c) : (s.delStrand c).unacked = s.unacked := rfl
@[simp] theorem State.delStrand_hostMem (s : State) (c) : (s.delStrand c).hostMem = s.hostMem := rfl
@[simp] theorem State.delStrand_hostOwn (s : State) (c) : (s.delStrand c).hostOwn = s.hostOwn := rfl
@[simp] theorem State.delStrand_snoops (s : State) (c) : (s.delStrand c).snoops = s.snoops := rfl
@[simp] theorem State.delStrand_homeReqs (s : State) (c) : (s.delStrand c).homeReqs = s.homeReqs := rfl
@[simp] theorem State.delStrand_tlb (s : State) (c) : (s.delStrand c).tlb = s.tlb := rfl
@[simp] theorem State.delStrand_walks (s : State) (c) : (s.delStrand c).walks = s.walks := rfl
@[simp] theorem State.delStrand_atc (s : State) (c) : (s.delStrand c).atc = s.atc := rfl
@[simp] theorem State.delStrand_atsReqs (s : State) (c) : (s.delStrand c).atsReqs = s.atsReqs := rfl
@[simp] theorem State.delStrand_tlbiPend (s : State) (c) : (s.delStrand c).tlbiPend = s.tlbiPend := rfl
@[simp] theorem State.delStrand_mapCache (s : State) (c) : (s.delStrand c).mapCache = s.mapCache := rfl
@[simp] theorem State.delStrand_faults (s : State) (c) : (s.delStrand c).faults = s.faults := rfl
@[simp] theorem State.delStrand_parts (s : State) (c) : (s.delStrand c).parts = s.parts := rfl
@[simp] theorem State.delStrand_fns (s : State) (c) : (s.delStrand c).fns = s.fns := rfl
@[simp] theorem State.delStrand_dies (s : State) (c) : (s.delStrand c).dies = s.dies := rfl
@[simp] theorem State.delStrand_tiles (s : State) (c) : (s.delStrand c).tiles = s.tiles := rfl
@[simp] theorem State.delStrand_islands (s : State) (c) : (s.delStrand c).islands = s.islands := rfl
@[simp] theorem State.delStrand_slots (s : State) (c) : (s.delStrand c).slots = s.slots := rfl
@[simp] theorem State.delStrand_rrLast (s : State) (c) : (s.delStrand c).rrLast = s.rrLast := rfl
@[simp] theorem State.delStrand_orderNo (s : State) (c) : (s.delStrand c).orderNo = s.orderNo := rfl
@[simp] theorem State.delStrand_pend (s : State) (c) : (s.delStrand c).pend = s.pend := rfl
@[simp] theorem State.delStrand_nlost (s : State) (c) : (s.delStrand c).nlost = s.nlost := rfl
@[simp] theorem State.delStrand_notifylost (s : State) (c) : (s.delStrand c).notifylost = s.notifylost := rfl
@[simp] theorem State.delStrand_launches (s : State) (c) : (s.delStrand c).launches = s.launches := rfl
@[simp] theorem State.delStrand_lstat (s : State) (c) : (s.delStrand c).lstat = s.lstat := rfl
@[simp] theorem State.delStrand_resvs (s : State) (c) : (s.delStrand c).resvs = s.resvs := rfl
@[simp] theorem State.delStrand_flights (s : State) (c) : (s.delStrand c).flights = s.flights := rfl
@[simp] theorem State.delStrand_retires (s : State) (c) : (s.delStrand c).retires = s.retires := rfl
@[simp] theorem State.delStrand_parkWait (s : State) (c) : (s.delStrand c).parkWait = s.parkWait := rfl
@[simp] theorem State.delStrand_pushWait (s : State) (c) : (s.delStrand c).pushWait = s.pushWait := rfl
@[simp] theorem State.delStrand_groups (s : State) (c) : (s.delStrand c).groups = s.groups := rfl
@[simp] theorem State.delStrand_ctimeout (s : State) (c) : (s.delStrand c).ctimeout = s.ctimeout := rfl
@[simp] theorem State.delStrand_gw (s : State) (c) : (s.delStrand c).gw = s.gw := rfl
@[simp] theorem State.delStrand_gwErr (s : State) (c) : (s.delStrand c).gwErr = s.gwErr := rfl

/-! ### modPart -/

@[simp] theorem State.modPart_agenda (s : State) (p f) : (s.modPart p f).agenda = s.agenda := rfl
@[simp] theorem State.modPart_issuing (s : State) (p f) : (s.modPart p f).issuing = s.issuing := rfl
@[simp] theorem State.modPart_cur (s : State) (p f) : (s.modPart p f).cur = s.cur := rfl
@[simp] theorem State.modPart_turn (s : State) (p f) : (s.modPart p f).turn = s.turn := rfl
@[simp] theorem State.modPart_freeCtr (s : State) (p f) : (s.modPart p f).freeCtr = s.freeCtr := rfl
@[simp] theorem State.modPart_duty (s : State) (p f) : (s.modPart p f).duty = s.duty := rfl
@[simp] theorem State.modPart_patience (s : State) (p f) : (s.modPart p f).patience = s.patience := rfl
@[simp] theorem State.modPart_nextId (s : State) (p f) : (s.modPart p f).nextId = s.nextId := rfl
@[simp] theorem State.modPart_outs (s : State) (p f) : (s.modPart p f).outs = s.outs := rfl
@[simp] theorem State.modPart_phase (s : State) (p f) : (s.modPart p f).phase = s.phase := rfl
@[simp] theorem State.modPart_failCode (s : State) (p f) : (s.modPart p f).failCode = s.failCode := rfl
@[simp] theorem State.modPart_failDie (s : State) (p f) : (s.modPart p f).failDie = s.failDie := rfl
@[simp] theorem State.modPart_ready (s : State) (p f) : (s.modPart p f).ready = s.ready := rfl
@[simp] theorem State.modPart_gwdown (s : State) (p f) : (s.modPart p f).gwdown = s.gwdown := rfl
@[simp] theorem State.modPart_pkgNo (s : State) (p f) : (s.modPart p f).pkgNo = s.pkgNo := rfl
@[simp] theorem State.modPart_pgrace (s : State) (p f) : (s.modPart p f).pgrace = s.pgrace := rfl
@[simp] theorem State.modPart_replup (s : State) (p f) : (s.modPart p f).replup = s.replup := rfl
@[simp] theorem State.modPart_replwmax (s : State) (p f) : (s.modPart p f).replwmax = s.replwmax := rfl
@[simp] theorem State.modPart_repldown (s : State) (p f) : (s.modPart p f).repldown = s.repldown := rfl
@[simp] theorem State.modPart_snapctl (s : State) (p f) : (s.modPart p f).snapctl = s.snapctl := rfl
@[simp] theorem State.modPart_snaps (s : State) (p f) : (s.modPart p f).snaps = s.snaps := rfl
@[simp] theorem State.modPart_dbgsel (s : State) (p f) : (s.modPart p f).dbgsel = s.dbgsel := rfl
@[simp] theorem State.modPart_plimit (s : State) (p f) : (s.modPart p f).plimit = s.plimit := rfl
@[simp] theorem State.modPart_pwr (s : State) (p f) : (s.modPart p f).pwr = s.pwr := rfl
@[simp] theorem State.modPart_trip (s : State) (p f) : (s.modPart p f).trip = s.trip := rfl
@[simp] theorem State.modPart_mem (s : State) (p f) : (s.modPart p f).mem = s.mem := rfl
@[simp] theorem State.modPart_lines (s : State) (p f) : (s.modPart p f).lines = s.lines := rfl
@[simp] theorem State.modPart_keys (s : State) (p f) : (s.modPart p f).keys = s.keys := rfl
@[simp] theorem State.modPart_regions (s : State) (p f) : (s.modPart p f).regions = s.regions := rfl
@[simp] theorem State.modPart_dir (s : State) (p f) : (s.modPart p f).dir = s.dir := rfl
@[simp] theorem State.modPart_reps (s : State) (p f) : (s.modPart p f).reps = s.reps := rfl
@[simp] theorem State.modPart_repFills (s : State) (p f) : (s.modPart p f).repFills = s.repFills := rfl
@[simp] theorem State.modPart_invs (s : State) (p f) : (s.modPart p f).invs = s.invs := rfl
@[simp] theorem State.modPart_side (s : State) (p f) : (s.modPart p f).side = s.side := rfl
@[simp] theorem State.modPart_satLines (s : State) (p f) : (s.modPart p f).satLines = s.satLines := rfl
@[simp] theorem State.modPart_reds (s : State) (p f) : (s.modPart p f).reds = s.reds := rfl
@[simp] theorem State.modPart_slices (s : State) (p f) : (s.modPart p f).slices = s.slices := rfl
@[simp] theorem State.modPart_marks (s : State) (p f) : (s.modPart p f).marks = s.marks := rfl
@[simp] theorem State.modPart_unacked (s : State) (p f) : (s.modPart p f).unacked = s.unacked := rfl
@[simp] theorem State.modPart_hostMem (s : State) (p f) : (s.modPart p f).hostMem = s.hostMem := rfl
@[simp] theorem State.modPart_hostOwn (s : State) (p f) : (s.modPart p f).hostOwn = s.hostOwn := rfl
@[simp] theorem State.modPart_snoops (s : State) (p f) : (s.modPart p f).snoops = s.snoops := rfl
@[simp] theorem State.modPart_homeReqs (s : State) (p f) : (s.modPart p f).homeReqs = s.homeReqs := rfl
@[simp] theorem State.modPart_tlb (s : State) (p f) : (s.modPart p f).tlb = s.tlb := rfl
@[simp] theorem State.modPart_walks (s : State) (p f) : (s.modPart p f).walks = s.walks := rfl
@[simp] theorem State.modPart_atc (s : State) (p f) : (s.modPart p f).atc = s.atc := rfl
@[simp] theorem State.modPart_atsReqs (s : State) (p f) : (s.modPart p f).atsReqs = s.atsReqs := rfl
@[simp] theorem State.modPart_tlbiPend (s : State) (p f) : (s.modPart p f).tlbiPend = s.tlbiPend := rfl
@[simp] theorem State.modPart_mapCache (s : State) (p f) : (s.modPart p f).mapCache = s.mapCache := rfl
@[simp] theorem State.modPart_faults (s : State) (p f) : (s.modPart p f).faults = s.faults := rfl
@[simp] theorem State.modPart_parts (s : State) (p f) : (s.modPart p f).parts = NMap.set s.parts p (f (s.part p)) := rfl
@[simp] theorem State.modPart_fns (s : State) (p f) : (s.modPart p f).fns = s.fns := rfl
@[simp] theorem State.modPart_dies (s : State) (p f) : (s.modPart p f).dies = s.dies := rfl
@[simp] theorem State.modPart_tiles (s : State) (p f) : (s.modPart p f).tiles = s.tiles := rfl
@[simp] theorem State.modPart_units (s : State) (p f) : (s.modPart p f).units = s.units := rfl
@[simp] theorem State.modPart_islands (s : State) (p f) : (s.modPart p f).islands = s.islands := rfl
@[simp] theorem State.modPart_slots (s : State) (p f) : (s.modPart p f).slots = s.slots := rfl
@[simp] theorem State.modPart_rrLast (s : State) (p f) : (s.modPart p f).rrLast = s.rrLast := rfl
@[simp] theorem State.modPart_orderNo (s : State) (p f) : (s.modPart p f).orderNo = s.orderNo := rfl
@[simp] theorem State.modPart_pend (s : State) (p f) : (s.modPart p f).pend = s.pend := rfl
@[simp] theorem State.modPart_nlost (s : State) (p f) : (s.modPart p f).nlost = s.nlost := rfl
@[simp] theorem State.modPart_notifylost (s : State) (p f) : (s.modPart p f).notifylost = s.notifylost := rfl
@[simp] theorem State.modPart_launches (s : State) (p f) : (s.modPart p f).launches = s.launches := rfl
@[simp] theorem State.modPart_lstat (s : State) (p f) : (s.modPart p f).lstat = s.lstat := rfl
@[simp] theorem State.modPart_resvs (s : State) (p f) : (s.modPart p f).resvs = s.resvs := rfl
@[simp] theorem State.modPart_flights (s : State) (p f) : (s.modPart p f).flights = s.flights := rfl
@[simp] theorem State.modPart_retires (s : State) (p f) : (s.modPart p f).retires = s.retires := rfl
@[simp] theorem State.modPart_parkWait (s : State) (p f) : (s.modPart p f).parkWait = s.parkWait := rfl
@[simp] theorem State.modPart_pushWait (s : State) (p f) : (s.modPart p f).pushWait = s.pushWait := rfl
@[simp] theorem State.modPart_groups (s : State) (p f) : (s.modPart p f).groups = s.groups := rfl
@[simp] theorem State.modPart_ctimeout (s : State) (p f) : (s.modPart p f).ctimeout = s.ctimeout := rfl
@[simp] theorem State.modPart_gw (s : State) (p f) : (s.modPart p f).gw = s.gw := rfl
@[simp] theorem State.modPart_gwErr (s : State) (p f) : (s.modPart p f).gwErr = s.gwErr := rfl

/-! ### modFn -/

@[simp] theorem State.modFn_agenda (s : State) (n f) : (s.modFn n f).agenda = s.agenda := rfl
@[simp] theorem State.modFn_issuing (s : State) (n f) : (s.modFn n f).issuing = s.issuing := rfl
@[simp] theorem State.modFn_cur (s : State) (n f) : (s.modFn n f).cur = s.cur := rfl
@[simp] theorem State.modFn_turn (s : State) (n f) : (s.modFn n f).turn = s.turn := rfl
@[simp] theorem State.modFn_freeCtr (s : State) (n f) : (s.modFn n f).freeCtr = s.freeCtr := rfl
@[simp] theorem State.modFn_duty (s : State) (n f) : (s.modFn n f).duty = s.duty := rfl
@[simp] theorem State.modFn_patience (s : State) (n f) : (s.modFn n f).patience = s.patience := rfl
@[simp] theorem State.modFn_nextId (s : State) (n f) : (s.modFn n f).nextId = s.nextId := rfl
@[simp] theorem State.modFn_outs (s : State) (n f) : (s.modFn n f).outs = s.outs := rfl
@[simp] theorem State.modFn_phase (s : State) (n f) : (s.modFn n f).phase = s.phase := rfl
@[simp] theorem State.modFn_failCode (s : State) (n f) : (s.modFn n f).failCode = s.failCode := rfl
@[simp] theorem State.modFn_failDie (s : State) (n f) : (s.modFn n f).failDie = s.failDie := rfl
@[simp] theorem State.modFn_ready (s : State) (n f) : (s.modFn n f).ready = s.ready := rfl
@[simp] theorem State.modFn_gwdown (s : State) (n f) : (s.modFn n f).gwdown = s.gwdown := rfl
@[simp] theorem State.modFn_pkgNo (s : State) (n f) : (s.modFn n f).pkgNo = s.pkgNo := rfl
@[simp] theorem State.modFn_pgrace (s : State) (n f) : (s.modFn n f).pgrace = s.pgrace := rfl
@[simp] theorem State.modFn_replup (s : State) (n f) : (s.modFn n f).replup = s.replup := rfl
@[simp] theorem State.modFn_replwmax (s : State) (n f) : (s.modFn n f).replwmax = s.replwmax := rfl
@[simp] theorem State.modFn_repldown (s : State) (n f) : (s.modFn n f).repldown = s.repldown := rfl
@[simp] theorem State.modFn_snapctl (s : State) (n f) : (s.modFn n f).snapctl = s.snapctl := rfl
@[simp] theorem State.modFn_snaps (s : State) (n f) : (s.modFn n f).snaps = s.snaps := rfl
@[simp] theorem State.modFn_dbgsel (s : State) (n f) : (s.modFn n f).dbgsel = s.dbgsel := rfl
@[simp] theorem State.modFn_plimit (s : State) (n f) : (s.modFn n f).plimit = s.plimit := rfl
@[simp] theorem State.modFn_pwr (s : State) (n f) : (s.modFn n f).pwr = s.pwr := rfl
@[simp] theorem State.modFn_trip (s : State) (n f) : (s.modFn n f).trip = s.trip := rfl
@[simp] theorem State.modFn_mem (s : State) (n f) : (s.modFn n f).mem = s.mem := rfl
@[simp] theorem State.modFn_lines (s : State) (n f) : (s.modFn n f).lines = s.lines := rfl
@[simp] theorem State.modFn_keys (s : State) (n f) : (s.modFn n f).keys = s.keys := rfl
@[simp] theorem State.modFn_regions (s : State) (n f) : (s.modFn n f).regions = s.regions := rfl
@[simp] theorem State.modFn_dir (s : State) (n f) : (s.modFn n f).dir = s.dir := rfl
@[simp] theorem State.modFn_reps (s : State) (n f) : (s.modFn n f).reps = s.reps := rfl
@[simp] theorem State.modFn_repFills (s : State) (n f) : (s.modFn n f).repFills = s.repFills := rfl
@[simp] theorem State.modFn_invs (s : State) (n f) : (s.modFn n f).invs = s.invs := rfl
@[simp] theorem State.modFn_side (s : State) (n f) : (s.modFn n f).side = s.side := rfl
@[simp] theorem State.modFn_satLines (s : State) (n f) : (s.modFn n f).satLines = s.satLines := rfl
@[simp] theorem State.modFn_reds (s : State) (n f) : (s.modFn n f).reds = s.reds := rfl
@[simp] theorem State.modFn_slices (s : State) (n f) : (s.modFn n f).slices = s.slices := rfl
@[simp] theorem State.modFn_marks (s : State) (n f) : (s.modFn n f).marks = s.marks := rfl
@[simp] theorem State.modFn_unacked (s : State) (n f) : (s.modFn n f).unacked = s.unacked := rfl
@[simp] theorem State.modFn_hostMem (s : State) (n f) : (s.modFn n f).hostMem = s.hostMem := rfl
@[simp] theorem State.modFn_hostOwn (s : State) (n f) : (s.modFn n f).hostOwn = s.hostOwn := rfl
@[simp] theorem State.modFn_snoops (s : State) (n f) : (s.modFn n f).snoops = s.snoops := rfl
@[simp] theorem State.modFn_homeReqs (s : State) (n f) : (s.modFn n f).homeReqs = s.homeReqs := rfl
@[simp] theorem State.modFn_tlb (s : State) (n f) : (s.modFn n f).tlb = s.tlb := rfl
@[simp] theorem State.modFn_walks (s : State) (n f) : (s.modFn n f).walks = s.walks := rfl
@[simp] theorem State.modFn_atc (s : State) (n f) : (s.modFn n f).atc = s.atc := rfl
@[simp] theorem State.modFn_atsReqs (s : State) (n f) : (s.modFn n f).atsReqs = s.atsReqs := rfl
@[simp] theorem State.modFn_tlbiPend (s : State) (n f) : (s.modFn n f).tlbiPend = s.tlbiPend := rfl
@[simp] theorem State.modFn_mapCache (s : State) (n f) : (s.modFn n f).mapCache = s.mapCache := rfl
@[simp] theorem State.modFn_faults (s : State) (n f) : (s.modFn n f).faults = s.faults := rfl
@[simp] theorem State.modFn_parts (s : State) (n f) : (s.modFn n f).parts = s.parts := rfl
@[simp] theorem State.modFn_fns (s : State) (n f) : (s.modFn n f).fns = NMap.set s.fns n (f (s.fn n)) := rfl
@[simp] theorem State.modFn_dies (s : State) (n f) : (s.modFn n f).dies = s.dies := rfl
@[simp] theorem State.modFn_tiles (s : State) (n f) : (s.modFn n f).tiles = s.tiles := rfl
@[simp] theorem State.modFn_units (s : State) (n f) : (s.modFn n f).units = s.units := rfl
@[simp] theorem State.modFn_islands (s : State) (n f) : (s.modFn n f).islands = s.islands := rfl
@[simp] theorem State.modFn_slots (s : State) (n f) : (s.modFn n f).slots = s.slots := rfl
@[simp] theorem State.modFn_rrLast (s : State) (n f) : (s.modFn n f).rrLast = s.rrLast := rfl
@[simp] theorem State.modFn_orderNo (s : State) (n f) : (s.modFn n f).orderNo = s.orderNo := rfl
@[simp] theorem State.modFn_pend (s : State) (n f) : (s.modFn n f).pend = s.pend := rfl
@[simp] theorem State.modFn_nlost (s : State) (n f) : (s.modFn n f).nlost = s.nlost := rfl
@[simp] theorem State.modFn_notifylost (s : State) (n f) : (s.modFn n f).notifylost = s.notifylost := rfl
@[simp] theorem State.modFn_launches (s : State) (n f) : (s.modFn n f).launches = s.launches := rfl
@[simp] theorem State.modFn_lstat (s : State) (n f) : (s.modFn n f).lstat = s.lstat := rfl
@[simp] theorem State.modFn_resvs (s : State) (n f) : (s.modFn n f).resvs = s.resvs := rfl
@[simp] theorem State.modFn_flights (s : State) (n f) : (s.modFn n f).flights = s.flights := rfl
@[simp] theorem State.modFn_retires (s : State) (n f) : (s.modFn n f).retires = s.retires := rfl
@[simp] theorem State.modFn_parkWait (s : State) (n f) : (s.modFn n f).parkWait = s.parkWait := rfl
@[simp] theorem State.modFn_pushWait (s : State) (n f) : (s.modFn n f).pushWait = s.pushWait := rfl
@[simp] theorem State.modFn_groups (s : State) (n f) : (s.modFn n f).groups = s.groups := rfl
@[simp] theorem State.modFn_ctimeout (s : State) (n f) : (s.modFn n f).ctimeout = s.ctimeout := rfl
@[simp] theorem State.modFn_gw (s : State) (n f) : (s.modFn n f).gw = s.gw := rfl
@[simp] theorem State.modFn_gwErr (s : State) (n f) : (s.modFn n f).gwErr = s.gwErr := rfl

/-! ### modTile -/

@[simp] theorem State.modTile_agenda (s : State) (n f) : (s.modTile n f).agenda = s.agenda := rfl
@[simp] theorem State.modTile_issuing (s : State) (n f) : (s.modTile n f).issuing = s.issuing := rfl
@[simp] theorem State.modTile_cur (s : State) (n f) : (s.modTile n f).cur = s.cur := rfl
@[simp] theorem State.modTile_turn (s : State) (n f) : (s.modTile n f).turn = s.turn := rfl
@[simp] theorem State.modTile_freeCtr (s : State) (n f) : (s.modTile n f).freeCtr = s.freeCtr := rfl
@[simp] theorem State.modTile_duty (s : State) (n f) : (s.modTile n f).duty = s.duty := rfl
@[simp] theorem State.modTile_patience (s : State) (n f) : (s.modTile n f).patience = s.patience := rfl
@[simp] theorem State.modTile_nextId (s : State) (n f) : (s.modTile n f).nextId = s.nextId := rfl
@[simp] theorem State.modTile_outs (s : State) (n f) : (s.modTile n f).outs = s.outs := rfl
@[simp] theorem State.modTile_phase (s : State) (n f) : (s.modTile n f).phase = s.phase := rfl
@[simp] theorem State.modTile_failCode (s : State) (n f) : (s.modTile n f).failCode = s.failCode := rfl
@[simp] theorem State.modTile_failDie (s : State) (n f) : (s.modTile n f).failDie = s.failDie := rfl
@[simp] theorem State.modTile_ready (s : State) (n f) : (s.modTile n f).ready = s.ready := rfl
@[simp] theorem State.modTile_gwdown (s : State) (n f) : (s.modTile n f).gwdown = s.gwdown := rfl
@[simp] theorem State.modTile_pkgNo (s : State) (n f) : (s.modTile n f).pkgNo = s.pkgNo := rfl
@[simp] theorem State.modTile_pgrace (s : State) (n f) : (s.modTile n f).pgrace = s.pgrace := rfl
@[simp] theorem State.modTile_replup (s : State) (n f) : (s.modTile n f).replup = s.replup := rfl
@[simp] theorem State.modTile_replwmax (s : State) (n f) : (s.modTile n f).replwmax = s.replwmax := rfl
@[simp] theorem State.modTile_repldown (s : State) (n f) : (s.modTile n f).repldown = s.repldown := rfl
@[simp] theorem State.modTile_snapctl (s : State) (n f) : (s.modTile n f).snapctl = s.snapctl := rfl
@[simp] theorem State.modTile_snaps (s : State) (n f) : (s.modTile n f).snaps = s.snaps := rfl
@[simp] theorem State.modTile_dbgsel (s : State) (n f) : (s.modTile n f).dbgsel = s.dbgsel := rfl
@[simp] theorem State.modTile_plimit (s : State) (n f) : (s.modTile n f).plimit = s.plimit := rfl
@[simp] theorem State.modTile_pwr (s : State) (n f) : (s.modTile n f).pwr = s.pwr := rfl
@[simp] theorem State.modTile_trip (s : State) (n f) : (s.modTile n f).trip = s.trip := rfl
@[simp] theorem State.modTile_mem (s : State) (n f) : (s.modTile n f).mem = s.mem := rfl
@[simp] theorem State.modTile_lines (s : State) (n f) : (s.modTile n f).lines = s.lines := rfl
@[simp] theorem State.modTile_keys (s : State) (n f) : (s.modTile n f).keys = s.keys := rfl
@[simp] theorem State.modTile_regions (s : State) (n f) : (s.modTile n f).regions = s.regions := rfl
@[simp] theorem State.modTile_dir (s : State) (n f) : (s.modTile n f).dir = s.dir := rfl
@[simp] theorem State.modTile_reps (s : State) (n f) : (s.modTile n f).reps = s.reps := rfl
@[simp] theorem State.modTile_repFills (s : State) (n f) : (s.modTile n f).repFills = s.repFills := rfl
@[simp] theorem State.modTile_invs (s : State) (n f) : (s.modTile n f).invs = s.invs := rfl
@[simp] theorem State.modTile_side (s : State) (n f) : (s.modTile n f).side = s.side := rfl
@[simp] theorem State.modTile_satLines (s : State) (n f) : (s.modTile n f).satLines = s.satLines := rfl
@[simp] theorem State.modTile_reds (s : State) (n f) : (s.modTile n f).reds = s.reds := rfl
@[simp] theorem State.modTile_slices (s : State) (n f) : (s.modTile n f).slices = s.slices := rfl
@[simp] theorem State.modTile_marks (s : State) (n f) : (s.modTile n f).marks = s.marks := rfl
@[simp] theorem State.modTile_unacked (s : State) (n f) : (s.modTile n f).unacked = s.unacked := rfl
@[simp] theorem State.modTile_hostMem (s : State) (n f) : (s.modTile n f).hostMem = s.hostMem := rfl
@[simp] theorem State.modTile_hostOwn (s : State) (n f) : (s.modTile n f).hostOwn = s.hostOwn := rfl
@[simp] theorem State.modTile_snoops (s : State) (n f) : (s.modTile n f).snoops = s.snoops := rfl
@[simp] theorem State.modTile_homeReqs (s : State) (n f) : (s.modTile n f).homeReqs = s.homeReqs := rfl
@[simp] theorem State.modTile_tlb (s : State) (n f) : (s.modTile n f).tlb = s.tlb := rfl
@[simp] theorem State.modTile_walks (s : State) (n f) : (s.modTile n f).walks = s.walks := rfl
@[simp] theorem State.modTile_atc (s : State) (n f) : (s.modTile n f).atc = s.atc := rfl
@[simp] theorem State.modTile_atsReqs (s : State) (n f) : (s.modTile n f).atsReqs = s.atsReqs := rfl
@[simp] theorem State.modTile_tlbiPend (s : State) (n f) : (s.modTile n f).tlbiPend = s.tlbiPend := rfl
@[simp] theorem State.modTile_mapCache (s : State) (n f) : (s.modTile n f).mapCache = s.mapCache := rfl
@[simp] theorem State.modTile_faults (s : State) (n f) : (s.modTile n f).faults = s.faults := rfl
@[simp] theorem State.modTile_parts (s : State) (n f) : (s.modTile n f).parts = s.parts := rfl
@[simp] theorem State.modTile_fns (s : State) (n f) : (s.modTile n f).fns = s.fns := rfl
@[simp] theorem State.modTile_dies (s : State) (n f) : (s.modTile n f).dies = s.dies := rfl
@[simp] theorem State.modTile_tiles (s : State) (n f) : (s.modTile n f).tiles = NMap.set s.tiles n (f (s.tile n)) := rfl
@[simp] theorem State.modTile_units (s : State) (n f) : (s.modTile n f).units = s.units := rfl
@[simp] theorem State.modTile_islands (s : State) (n f) : (s.modTile n f).islands = s.islands := rfl
@[simp] theorem State.modTile_slots (s : State) (n f) : (s.modTile n f).slots = s.slots := rfl
@[simp] theorem State.modTile_rrLast (s : State) (n f) : (s.modTile n f).rrLast = s.rrLast := rfl
@[simp] theorem State.modTile_orderNo (s : State) (n f) : (s.modTile n f).orderNo = s.orderNo := rfl
@[simp] theorem State.modTile_pend (s : State) (n f) : (s.modTile n f).pend = s.pend := rfl
@[simp] theorem State.modTile_nlost (s : State) (n f) : (s.modTile n f).nlost = s.nlost := rfl
@[simp] theorem State.modTile_notifylost (s : State) (n f) : (s.modTile n f).notifylost = s.notifylost := rfl
@[simp] theorem State.modTile_launches (s : State) (n f) : (s.modTile n f).launches = s.launches := rfl
@[simp] theorem State.modTile_lstat (s : State) (n f) : (s.modTile n f).lstat = s.lstat := rfl
@[simp] theorem State.modTile_resvs (s : State) (n f) : (s.modTile n f).resvs = s.resvs := rfl
@[simp] theorem State.modTile_flights (s : State) (n f) : (s.modTile n f).flights = s.flights := rfl
@[simp] theorem State.modTile_retires (s : State) (n f) : (s.modTile n f).retires = s.retires := rfl
@[simp] theorem State.modTile_parkWait (s : State) (n f) : (s.modTile n f).parkWait = s.parkWait := rfl
@[simp] theorem State.modTile_pushWait (s : State) (n f) : (s.modTile n f).pushWait = s.pushWait := rfl
@[simp] theorem State.modTile_groups (s : State) (n f) : (s.modTile n f).groups = s.groups := rfl
@[simp] theorem State.modTile_ctimeout (s : State) (n f) : (s.modTile n f).ctimeout = s.ctimeout := rfl
@[simp] theorem State.modTile_gw (s : State) (n f) : (s.modTile n f).gw = s.gw := rfl
@[simp] theorem State.modTile_gwErr (s : State) (n f) : (s.modTile n f).gwErr = s.gwErr := rfl

/-! ### modIsland -/

@[simp] theorem State.modIsland_agenda (s : State) (n f) : (s.modIsland n f).agenda = s.agenda := rfl
@[simp] theorem State.modIsland_issuing (s : State) (n f) : (s.modIsland n f).issuing = s.issuing := rfl
@[simp] theorem State.modIsland_cur (s : State) (n f) : (s.modIsland n f).cur = s.cur := rfl
@[simp] theorem State.modIsland_turn (s : State) (n f) : (s.modIsland n f).turn = s.turn := rfl
@[simp] theorem State.modIsland_freeCtr (s : State) (n f) : (s.modIsland n f).freeCtr = s.freeCtr := rfl
@[simp] theorem State.modIsland_duty (s : State) (n f) : (s.modIsland n f).duty = s.duty := rfl
@[simp] theorem State.modIsland_patience (s : State) (n f) : (s.modIsland n f).patience = s.patience := rfl
@[simp] theorem State.modIsland_nextId (s : State) (n f) : (s.modIsland n f).nextId = s.nextId := rfl
@[simp] theorem State.modIsland_outs (s : State) (n f) : (s.modIsland n f).outs = s.outs := rfl
@[simp] theorem State.modIsland_phase (s : State) (n f) : (s.modIsland n f).phase = s.phase := rfl
@[simp] theorem State.modIsland_failCode (s : State) (n f) : (s.modIsland n f).failCode = s.failCode := rfl
@[simp] theorem State.modIsland_failDie (s : State) (n f) : (s.modIsland n f).failDie = s.failDie := rfl
@[simp] theorem State.modIsland_ready (s : State) (n f) : (s.modIsland n f).ready = s.ready := rfl
@[simp] theorem State.modIsland_gwdown (s : State) (n f) : (s.modIsland n f).gwdown = s.gwdown := rfl
@[simp] theorem State.modIsland_pkgNo (s : State) (n f) : (s.modIsland n f).pkgNo = s.pkgNo := rfl
@[simp] theorem State.modIsland_pgrace (s : State) (n f) : (s.modIsland n f).pgrace = s.pgrace := rfl
@[simp] theorem State.modIsland_replup (s : State) (n f) : (s.modIsland n f).replup = s.replup := rfl
@[simp] theorem State.modIsland_replwmax (s : State) (n f) : (s.modIsland n f).replwmax = s.replwmax := rfl
@[simp] theorem State.modIsland_repldown (s : State) (n f) : (s.modIsland n f).repldown = s.repldown := rfl
@[simp] theorem State.modIsland_snapctl (s : State) (n f) : (s.modIsland n f).snapctl = s.snapctl := rfl
@[simp] theorem State.modIsland_snaps (s : State) (n f) : (s.modIsland n f).snaps = s.snaps := rfl
@[simp] theorem State.modIsland_dbgsel (s : State) (n f) : (s.modIsland n f).dbgsel = s.dbgsel := rfl
@[simp] theorem State.modIsland_plimit (s : State) (n f) : (s.modIsland n f).plimit = s.plimit := rfl
@[simp] theorem State.modIsland_pwr (s : State) (n f) : (s.modIsland n f).pwr = s.pwr := rfl
@[simp] theorem State.modIsland_trip (s : State) (n f) : (s.modIsland n f).trip = s.trip := rfl
@[simp] theorem State.modIsland_mem (s : State) (n f) : (s.modIsland n f).mem = s.mem := rfl
@[simp] theorem State.modIsland_lines (s : State) (n f) : (s.modIsland n f).lines = s.lines := rfl
@[simp] theorem State.modIsland_keys (s : State) (n f) : (s.modIsland n f).keys = s.keys := rfl
@[simp] theorem State.modIsland_regions (s : State) (n f) : (s.modIsland n f).regions = s.regions := rfl
@[simp] theorem State.modIsland_dir (s : State) (n f) : (s.modIsland n f).dir = s.dir := rfl
@[simp] theorem State.modIsland_reps (s : State) (n f) : (s.modIsland n f).reps = s.reps := rfl
@[simp] theorem State.modIsland_repFills (s : State) (n f) : (s.modIsland n f).repFills = s.repFills := rfl
@[simp] theorem State.modIsland_invs (s : State) (n f) : (s.modIsland n f).invs = s.invs := rfl
@[simp] theorem State.modIsland_side (s : State) (n f) : (s.modIsland n f).side = s.side := rfl
@[simp] theorem State.modIsland_satLines (s : State) (n f) : (s.modIsland n f).satLines = s.satLines := rfl
@[simp] theorem State.modIsland_reds (s : State) (n f) : (s.modIsland n f).reds = s.reds := rfl
@[simp] theorem State.modIsland_slices (s : State) (n f) : (s.modIsland n f).slices = s.slices := rfl
@[simp] theorem State.modIsland_marks (s : State) (n f) : (s.modIsland n f).marks = s.marks := rfl
@[simp] theorem State.modIsland_unacked (s : State) (n f) : (s.modIsland n f).unacked = s.unacked := rfl
@[simp] theorem State.modIsland_hostMem (s : State) (n f) : (s.modIsland n f).hostMem = s.hostMem := rfl
@[simp] theorem State.modIsland_hostOwn (s : State) (n f) : (s.modIsland n f).hostOwn = s.hostOwn := rfl
@[simp] theorem State.modIsland_snoops (s : State) (n f) : (s.modIsland n f).snoops = s.snoops := rfl
@[simp] theorem State.modIsland_homeReqs (s : State) (n f) : (s.modIsland n f).homeReqs = s.homeReqs := rfl
@[simp] theorem State.modIsland_tlb (s : State) (n f) : (s.modIsland n f).tlb = s.tlb := rfl
@[simp] theorem State.modIsland_walks (s : State) (n f) : (s.modIsland n f).walks = s.walks := rfl
@[simp] theorem State.modIsland_atc (s : State) (n f) : (s.modIsland n f).atc = s.atc := rfl
@[simp] theorem State.modIsland_atsReqs (s : State) (n f) : (s.modIsland n f).atsReqs = s.atsReqs := rfl
@[simp] theorem State.modIsland_tlbiPend (s : State) (n f) : (s.modIsland n f).tlbiPend = s.tlbiPend := rfl
@[simp] theorem State.modIsland_mapCache (s : State) (n f) : (s.modIsland n f).mapCache = s.mapCache := rfl
@[simp] theorem State.modIsland_faults (s : State) (n f) : (s.modIsland n f).faults = s.faults := rfl
@[simp] theorem State.modIsland_parts (s : State) (n f) : (s.modIsland n f).parts = s.parts := rfl
@[simp] theorem State.modIsland_fns (s : State) (n f) : (s.modIsland n f).fns = s.fns := rfl
@[simp] theorem State.modIsland_dies (s : State) (n f) : (s.modIsland n f).dies = s.dies := rfl
@[simp] theorem State.modIsland_tiles (s : State) (n f) : (s.modIsland n f).tiles = s.tiles := rfl
@[simp] theorem State.modIsland_units (s : State) (n f) : (s.modIsland n f).units = s.units := rfl
@[simp] theorem State.modIsland_islands (s : State) (n f) : (s.modIsland n f).islands = NMap.set s.islands n (f (s.island n)) := rfl
@[simp] theorem State.modIsland_slots (s : State) (n f) : (s.modIsland n f).slots = s.slots := rfl
@[simp] theorem State.modIsland_rrLast (s : State) (n f) : (s.modIsland n f).rrLast = s.rrLast := rfl
@[simp] theorem State.modIsland_orderNo (s : State) (n f) : (s.modIsland n f).orderNo = s.orderNo := rfl
@[simp] theorem State.modIsland_pend (s : State) (n f) : (s.modIsland n f).pend = s.pend := rfl
@[simp] theorem State.modIsland_nlost (s : State) (n f) : (s.modIsland n f).nlost = s.nlost := rfl
@[simp] theorem State.modIsland_notifylost (s : State) (n f) : (s.modIsland n f).notifylost = s.notifylost := rfl
@[simp] theorem State.modIsland_launches (s : State) (n f) : (s.modIsland n f).launches = s.launches := rfl
@[simp] theorem State.modIsland_lstat (s : State) (n f) : (s.modIsland n f).lstat = s.lstat := rfl
@[simp] theorem State.modIsland_resvs (s : State) (n f) : (s.modIsland n f).resvs = s.resvs := rfl
@[simp] theorem State.modIsland_flights (s : State) (n f) : (s.modIsland n f).flights = s.flights := rfl
@[simp] theorem State.modIsland_retires (s : State) (n f) : (s.modIsland n f).retires = s.retires := rfl
@[simp] theorem State.modIsland_parkWait (s : State) (n f) : (s.modIsland n f).parkWait = s.parkWait := rfl
@[simp] theorem State.modIsland_pushWait (s : State) (n f) : (s.modIsland n f).pushWait = s.pushWait := rfl
@[simp] theorem State.modIsland_groups (s : State) (n f) : (s.modIsland n f).groups = s.groups := rfl
@[simp] theorem State.modIsland_ctimeout (s : State) (n f) : (s.modIsland n f).ctimeout = s.ctimeout := rfl
@[simp] theorem State.modIsland_gw (s : State) (n f) : (s.modIsland n f).gw = s.gw := rfl
@[simp] theorem State.modIsland_gwErr (s : State) (n f) : (s.modIsland n f).gwErr = s.gwErr := rfl

/-! ### setSlot -/

@[simp] theorem State.setSlot_agenda (s : State) (n x) : (s.setSlot n x).agenda = s.agenda := rfl
@[simp] theorem State.setSlot_issuing (s : State) (n x) : (s.setSlot n x).issuing = s.issuing := rfl
@[simp] theorem State.setSlot_cur (s : State) (n x) : (s.setSlot n x).cur = s.cur := rfl
@[simp] theorem State.setSlot_turn (s : State) (n x) : (s.setSlot n x).turn = s.turn := rfl
@[simp] theorem State.setSlot_freeCtr (s : State) (n x) : (s.setSlot n x).freeCtr = s.freeCtr := rfl
@[simp] theorem State.setSlot_duty (s : State) (n x) : (s.setSlot n x).duty = s.duty := rfl
@[simp] theorem State.setSlot_patience (s : State) (n x) : (s.setSlot n x).patience = s.patience := rfl
@[simp] theorem State.setSlot_nextId (s : State) (n x) : (s.setSlot n x).nextId = s.nextId := rfl
@[simp] theorem State.setSlot_outs (s : State) (n x) : (s.setSlot n x).outs = s.outs := rfl
@[simp] theorem State.setSlot_phase (s : State) (n x) : (s.setSlot n x).phase = s.phase := rfl
@[simp] theorem State.setSlot_failCode (s : State) (n x) : (s.setSlot n x).failCode = s.failCode := rfl
@[simp] theorem State.setSlot_failDie (s : State) (n x) : (s.setSlot n x).failDie = s.failDie := rfl
@[simp] theorem State.setSlot_ready (s : State) (n x) : (s.setSlot n x).ready = s.ready := rfl
@[simp] theorem State.setSlot_gwdown (s : State) (n x) : (s.setSlot n x).gwdown = s.gwdown := rfl
@[simp] theorem State.setSlot_pkgNo (s : State) (n x) : (s.setSlot n x).pkgNo = s.pkgNo := rfl
@[simp] theorem State.setSlot_pgrace (s : State) (n x) : (s.setSlot n x).pgrace = s.pgrace := rfl
@[simp] theorem State.setSlot_replup (s : State) (n x) : (s.setSlot n x).replup = s.replup := rfl
@[simp] theorem State.setSlot_replwmax (s : State) (n x) : (s.setSlot n x).replwmax = s.replwmax := rfl
@[simp] theorem State.setSlot_repldown (s : State) (n x) : (s.setSlot n x).repldown = s.repldown := rfl
@[simp] theorem State.setSlot_snapctl (s : State) (n x) : (s.setSlot n x).snapctl = s.snapctl := rfl
@[simp] theorem State.setSlot_snaps (s : State) (n x) : (s.setSlot n x).snaps = s.snaps := rfl
@[simp] theorem State.setSlot_dbgsel (s : State) (n x) : (s.setSlot n x).dbgsel = s.dbgsel := rfl
@[simp] theorem State.setSlot_plimit (s : State) (n x) : (s.setSlot n x).plimit = s.plimit := rfl
@[simp] theorem State.setSlot_pwr (s : State) (n x) : (s.setSlot n x).pwr = s.pwr := rfl
@[simp] theorem State.setSlot_trip (s : State) (n x) : (s.setSlot n x).trip = s.trip := rfl
@[simp] theorem State.setSlot_mem (s : State) (n x) : (s.setSlot n x).mem = s.mem := rfl
@[simp] theorem State.setSlot_lines (s : State) (n x) : (s.setSlot n x).lines = s.lines := rfl
@[simp] theorem State.setSlot_keys (s : State) (n x) : (s.setSlot n x).keys = s.keys := rfl
@[simp] theorem State.setSlot_regions (s : State) (n x) : (s.setSlot n x).regions = s.regions := rfl
@[simp] theorem State.setSlot_dir (s : State) (n x) : (s.setSlot n x).dir = s.dir := rfl
@[simp] theorem State.setSlot_reps (s : State) (n x) : (s.setSlot n x).reps = s.reps := rfl
@[simp] theorem State.setSlot_repFills (s : State) (n x) : (s.setSlot n x).repFills = s.repFills := rfl
@[simp] theorem State.setSlot_invs (s : State) (n x) : (s.setSlot n x).invs = s.invs := rfl
@[simp] theorem State.setSlot_side (s : State) (n x) : (s.setSlot n x).side = s.side := rfl
@[simp] theorem State.setSlot_satLines (s : State) (n x) : (s.setSlot n x).satLines = s.satLines := rfl
@[simp] theorem State.setSlot_reds (s : State) (n x) : (s.setSlot n x).reds = s.reds := rfl
@[simp] theorem State.setSlot_slices (s : State) (n x) : (s.setSlot n x).slices = s.slices := rfl
@[simp] theorem State.setSlot_marks (s : State) (n x) : (s.setSlot n x).marks = s.marks := rfl
@[simp] theorem State.setSlot_unacked (s : State) (n x) : (s.setSlot n x).unacked = s.unacked := rfl
@[simp] theorem State.setSlot_hostMem (s : State) (n x) : (s.setSlot n x).hostMem = s.hostMem := rfl
@[simp] theorem State.setSlot_hostOwn (s : State) (n x) : (s.setSlot n x).hostOwn = s.hostOwn := rfl
@[simp] theorem State.setSlot_snoops (s : State) (n x) : (s.setSlot n x).snoops = s.snoops := rfl
@[simp] theorem State.setSlot_homeReqs (s : State) (n x) : (s.setSlot n x).homeReqs = s.homeReqs := rfl
@[simp] theorem State.setSlot_tlb (s : State) (n x) : (s.setSlot n x).tlb = s.tlb := rfl
@[simp] theorem State.setSlot_walks (s : State) (n x) : (s.setSlot n x).walks = s.walks := rfl
@[simp] theorem State.setSlot_atc (s : State) (n x) : (s.setSlot n x).atc = s.atc := rfl
@[simp] theorem State.setSlot_atsReqs (s : State) (n x) : (s.setSlot n x).atsReqs = s.atsReqs := rfl
@[simp] theorem State.setSlot_tlbiPend (s : State) (n x) : (s.setSlot n x).tlbiPend = s.tlbiPend := rfl
@[simp] theorem State.setSlot_mapCache (s : State) (n x) : (s.setSlot n x).mapCache = s.mapCache := rfl
@[simp] theorem State.setSlot_faults (s : State) (n x) : (s.setSlot n x).faults = s.faults := rfl
@[simp] theorem State.setSlot_parts (s : State) (n x) : (s.setSlot n x).parts = s.parts := rfl
@[simp] theorem State.setSlot_fns (s : State) (n x) : (s.setSlot n x).fns = s.fns := rfl
@[simp] theorem State.setSlot_dies (s : State) (n x) : (s.setSlot n x).dies = s.dies := rfl
@[simp] theorem State.setSlot_tiles (s : State) (n x) : (s.setSlot n x).tiles = s.tiles := rfl
@[simp] theorem State.setSlot_units (s : State) (n x) : (s.setSlot n x).units = s.units := rfl
@[simp] theorem State.setSlot_islands (s : State) (n x) : (s.setSlot n x).islands = s.islands := rfl
@[simp] theorem State.setSlot_slots (s : State) (n x) : (s.setSlot n x).slots = NMap.set s.slots n x := rfl
@[simp] theorem State.setSlot_rrLast (s : State) (n x) : (s.setSlot n x).rrLast = s.rrLast := rfl
@[simp] theorem State.setSlot_orderNo (s : State) (n x) : (s.setSlot n x).orderNo = s.orderNo := rfl
@[simp] theorem State.setSlot_pend (s : State) (n x) : (s.setSlot n x).pend = s.pend := rfl
@[simp] theorem State.setSlot_nlost (s : State) (n x) : (s.setSlot n x).nlost = s.nlost := rfl
@[simp] theorem State.setSlot_notifylost (s : State) (n x) : (s.setSlot n x).notifylost = s.notifylost := rfl
@[simp] theorem State.setSlot_launches (s : State) (n x) : (s.setSlot n x).launches = s.launches := rfl
@[simp] theorem State.setSlot_lstat (s : State) (n x) : (s.setSlot n x).lstat = s.lstat := rfl
@[simp] theorem State.setSlot_resvs (s : State) (n x) : (s.setSlot n x).resvs = s.resvs := rfl
@[simp] theorem State.setSlot_flights (s : State) (n x) : (s.setSlot n x).flights = s.flights := rfl
@[simp] theorem State.setSlot_retires (s : State) (n x) : (s.setSlot n x).retires = s.retires := rfl
@[simp] theorem State.setSlot_parkWait (s : State) (n x) : (s.setSlot n x).parkWait = s.parkWait := rfl
@[simp] theorem State.setSlot_pushWait (s : State) (n x) : (s.setSlot n x).pushWait = s.pushWait := rfl
@[simp] theorem State.setSlot_groups (s : State) (n x) : (s.setSlot n x).groups = s.groups := rfl
@[simp] theorem State.setSlot_ctimeout (s : State) (n x) : (s.setSlot n x).ctimeout = s.ctimeout := rfl
@[simp] theorem State.setSlot_gw (s : State) (n x) : (s.setSlot n x).gw = s.gw := rfl
@[simp] theorem State.setSlot_gwErr (s : State) (n x) : (s.setSlot n x).gwErr = s.gwErr := rfl

/-! ### modLstat -/

@[simp] theorem State.modLstat_agenda (s : State) (n f) : (s.modLstat n f).agenda = s.agenda := rfl
@[simp] theorem State.modLstat_issuing (s : State) (n f) : (s.modLstat n f).issuing = s.issuing := rfl
@[simp] theorem State.modLstat_cur (s : State) (n f) : (s.modLstat n f).cur = s.cur := rfl
@[simp] theorem State.modLstat_turn (s : State) (n f) : (s.modLstat n f).turn = s.turn := rfl
@[simp] theorem State.modLstat_freeCtr (s : State) (n f) : (s.modLstat n f).freeCtr = s.freeCtr := rfl
@[simp] theorem State.modLstat_duty (s : State) (n f) : (s.modLstat n f).duty = s.duty := rfl
@[simp] theorem State.modLstat_patience (s : State) (n f) : (s.modLstat n f).patience = s.patience := rfl
@[simp] theorem State.modLstat_nextId (s : State) (n f) : (s.modLstat n f).nextId = s.nextId := rfl
@[simp] theorem State.modLstat_outs (s : State) (n f) : (s.modLstat n f).outs = s.outs := rfl
@[simp] theorem State.modLstat_phase (s : State) (n f) : (s.modLstat n f).phase = s.phase := rfl
@[simp] theorem State.modLstat_failCode (s : State) (n f) : (s.modLstat n f).failCode = s.failCode := rfl
@[simp] theorem State.modLstat_failDie (s : State) (n f) : (s.modLstat n f).failDie = s.failDie := rfl
@[simp] theorem State.modLstat_ready (s : State) (n f) : (s.modLstat n f).ready = s.ready := rfl
@[simp] theorem State.modLstat_gwdown (s : State) (n f) : (s.modLstat n f).gwdown = s.gwdown := rfl
@[simp] theorem State.modLstat_pkgNo (s : State) (n f) : (s.modLstat n f).pkgNo = s.pkgNo := rfl
@[simp] theorem State.modLstat_pgrace (s : State) (n f) : (s.modLstat n f).pgrace = s.pgrace := rfl
@[simp] theorem State.modLstat_replup (s : State) (n f) : (s.modLstat n f).replup = s.replup := rfl
@[simp] theorem State.modLstat_replwmax (s : State) (n f) : (s.modLstat n f).replwmax = s.replwmax := rfl
@[simp] theorem State.modLstat_repldown (s : State) (n f) : (s.modLstat n f).repldown = s.repldown := rfl
@[simp] theorem State.modLstat_snapctl (s : State) (n f) : (s.modLstat n f).snapctl = s.snapctl := rfl
@[simp] theorem State.modLstat_snaps (s : State) (n f) : (s.modLstat n f).snaps = s.snaps := rfl
@[simp] theorem State.modLstat_dbgsel (s : State) (n f) : (s.modLstat n f).dbgsel = s.dbgsel := rfl
@[simp] theorem State.modLstat_plimit (s : State) (n f) : (s.modLstat n f).plimit = s.plimit := rfl
@[simp] theorem State.modLstat_pwr (s : State) (n f) : (s.modLstat n f).pwr = s.pwr := rfl
@[simp] theorem State.modLstat_trip (s : State) (n f) : (s.modLstat n f).trip = s.trip := rfl
@[simp] theorem State.modLstat_mem (s : State) (n f) : (s.modLstat n f).mem = s.mem := rfl
@[simp] theorem State.modLstat_lines (s : State) (n f) : (s.modLstat n f).lines = s.lines := rfl
@[simp] theorem State.modLstat_keys (s : State) (n f) : (s.modLstat n f).keys = s.keys := rfl
@[simp] theorem State.modLstat_regions (s : State) (n f) : (s.modLstat n f).regions = s.regions := rfl
@[simp] theorem State.modLstat_dir (s : State) (n f) : (s.modLstat n f).dir = s.dir := rfl
@[simp] theorem State.modLstat_reps (s : State) (n f) : (s.modLstat n f).reps = s.reps := rfl
@[simp] theorem State.modLstat_repFills (s : State) (n f) : (s.modLstat n f).repFills = s.repFills := rfl
@[simp] theorem State.modLstat_invs (s : State) (n f) : (s.modLstat n f).invs = s.invs := rfl
@[simp] theorem State.modLstat_side (s : State) (n f) : (s.modLstat n f).side = s.side := rfl
@[simp] theorem State.modLstat_satLines (s : State) (n f) : (s.modLstat n f).satLines = s.satLines := rfl
@[simp] theorem State.modLstat_reds (s : State) (n f) : (s.modLstat n f).reds = s.reds := rfl
@[simp] theorem State.modLstat_slices (s : State) (n f) : (s.modLstat n f).slices = s.slices := rfl
@[simp] theorem State.modLstat_marks (s : State) (n f) : (s.modLstat n f).marks = s.marks := rfl
@[simp] theorem State.modLstat_unacked (s : State) (n f) : (s.modLstat n f).unacked = s.unacked := rfl
@[simp] theorem State.modLstat_hostMem (s : State) (n f) : (s.modLstat n f).hostMem = s.hostMem := rfl
@[simp] theorem State.modLstat_hostOwn (s : State) (n f) : (s.modLstat n f).hostOwn = s.hostOwn := rfl
@[simp] theorem State.modLstat_snoops (s : State) (n f) : (s.modLstat n f).snoops = s.snoops := rfl
@[simp] theorem State.modLstat_homeReqs (s : State) (n f) : (s.modLstat n f).homeReqs = s.homeReqs := rfl
@[simp] theorem State.modLstat_tlb (s : State) (n f) : (s.modLstat n f).tlb = s.tlb := rfl
@[simp] theorem State.modLstat_walks (s : State) (n f) : (s.modLstat n f).walks = s.walks := rfl
@[simp] theorem State.modLstat_atc (s : State) (n f) : (s.modLstat n f).atc = s.atc := rfl
@[simp] theorem State.modLstat_atsReqs (s : State) (n f) : (s.modLstat n f).atsReqs = s.atsReqs := rfl
@[simp] theorem State.modLstat_tlbiPend (s : State) (n f) : (s.modLstat n f).tlbiPend = s.tlbiPend := rfl
@[simp] theorem State.modLstat_mapCache (s : State) (n f) : (s.modLstat n f).mapCache = s.mapCache := rfl
@[simp] theorem State.modLstat_faults (s : State) (n f) : (s.modLstat n f).faults = s.faults := rfl
@[simp] theorem State.modLstat_parts (s : State) (n f) : (s.modLstat n f).parts = s.parts := rfl
@[simp] theorem State.modLstat_fns (s : State) (n f) : (s.modLstat n f).fns = s.fns := rfl
@[simp] theorem State.modLstat_dies (s : State) (n f) : (s.modLstat n f).dies = s.dies := rfl
@[simp] theorem State.modLstat_tiles (s : State) (n f) : (s.modLstat n f).tiles = s.tiles := rfl
@[simp] theorem State.modLstat_units (s : State) (n f) : (s.modLstat n f).units = s.units := rfl
@[simp] theorem State.modLstat_islands (s : State) (n f) : (s.modLstat n f).islands = s.islands := rfl
@[simp] theorem State.modLstat_slots (s : State) (n f) : (s.modLstat n f).slots = s.slots := rfl
@[simp] theorem State.modLstat_rrLast (s : State) (n f) : (s.modLstat n f).rrLast = s.rrLast := rfl
@[simp] theorem State.modLstat_orderNo (s : State) (n f) : (s.modLstat n f).orderNo = s.orderNo := rfl
@[simp] theorem State.modLstat_pend (s : State) (n f) : (s.modLstat n f).pend = s.pend := rfl
@[simp] theorem State.modLstat_nlost (s : State) (n f) : (s.modLstat n f).nlost = s.nlost := rfl
@[simp] theorem State.modLstat_notifylost (s : State) (n f) : (s.modLstat n f).notifylost = s.notifylost := rfl
@[simp] theorem State.modLstat_launches (s : State) (n f) : (s.modLstat n f).launches = s.launches := rfl
@[simp] theorem State.modLstat_resvs (s : State) (n f) : (s.modLstat n f).resvs = s.resvs := rfl
@[simp] theorem State.modLstat_flights (s : State) (n f) : (s.modLstat n f).flights = s.flights := rfl
@[simp] theorem State.modLstat_retires (s : State) (n f) : (s.modLstat n f).retires = s.retires := rfl
@[simp] theorem State.modLstat_parkWait (s : State) (n f) : (s.modLstat n f).parkWait = s.parkWait := rfl
@[simp] theorem State.modLstat_pushWait (s : State) (n f) : (s.modLstat n f).pushWait = s.pushWait := rfl
@[simp] theorem State.modLstat_groups (s : State) (n f) : (s.modLstat n f).groups = s.groups := rfl
@[simp] theorem State.modLstat_ctimeout (s : State) (n f) : (s.modLstat n f).ctimeout = s.ctimeout := rfl
@[simp] theorem State.modLstat_gw (s : State) (n f) : (s.modLstat n f).gw = s.gw := rfl
@[simp] theorem State.modLstat_gwErr (s : State) (n f) : (s.modLstat n f).gwErr = s.gwErr := rfl

/-! ### modSlice -/

@[simp] theorem State.modSlice_agenda (s : State) (n f) : (s.modSlice n f).agenda = s.agenda := rfl
@[simp] theorem State.modSlice_issuing (s : State) (n f) : (s.modSlice n f).issuing = s.issuing := rfl
@[simp] theorem State.modSlice_cur (s : State) (n f) : (s.modSlice n f).cur = s.cur := rfl
@[simp] theorem State.modSlice_turn (s : State) (n f) : (s.modSlice n f).turn = s.turn := rfl
@[simp] theorem State.modSlice_freeCtr (s : State) (n f) : (s.modSlice n f).freeCtr = s.freeCtr := rfl
@[simp] theorem State.modSlice_duty (s : State) (n f) : (s.modSlice n f).duty = s.duty := rfl
@[simp] theorem State.modSlice_patience (s : State) (n f) : (s.modSlice n f).patience = s.patience := rfl
@[simp] theorem State.modSlice_nextId (s : State) (n f) : (s.modSlice n f).nextId = s.nextId := rfl
@[simp] theorem State.modSlice_outs (s : State) (n f) : (s.modSlice n f).outs = s.outs := rfl
@[simp] theorem State.modSlice_phase (s : State) (n f) : (s.modSlice n f).phase = s.phase := rfl
@[simp] theorem State.modSlice_failCode (s : State) (n f) : (s.modSlice n f).failCode = s.failCode := rfl
@[simp] theorem State.modSlice_failDie (s : State) (n f) : (s.modSlice n f).failDie = s.failDie := rfl
@[simp] theorem State.modSlice_ready (s : State) (n f) : (s.modSlice n f).ready = s.ready := rfl
@[simp] theorem State.modSlice_gwdown (s : State) (n f) : (s.modSlice n f).gwdown = s.gwdown := rfl
@[simp] theorem State.modSlice_pkgNo (s : State) (n f) : (s.modSlice n f).pkgNo = s.pkgNo := rfl
@[simp] theorem State.modSlice_pgrace (s : State) (n f) : (s.modSlice n f).pgrace = s.pgrace := rfl
@[simp] theorem State.modSlice_replup (s : State) (n f) : (s.modSlice n f).replup = s.replup := rfl
@[simp] theorem State.modSlice_replwmax (s : State) (n f) : (s.modSlice n f).replwmax = s.replwmax := rfl
@[simp] theorem State.modSlice_repldown (s : State) (n f) : (s.modSlice n f).repldown = s.repldown := rfl
@[simp] theorem State.modSlice_snapctl (s : State) (n f) : (s.modSlice n f).snapctl = s.snapctl := rfl
@[simp] theorem State.modSlice_snaps (s : State) (n f) : (s.modSlice n f).snaps = s.snaps := rfl
@[simp] theorem State.modSlice_dbgsel (s : State) (n f) : (s.modSlice n f).dbgsel = s.dbgsel := rfl
@[simp] theorem State.modSlice_plimit (s : State) (n f) : (s.modSlice n f).plimit = s.plimit := rfl
@[simp] theorem State.modSlice_pwr (s : State) (n f) : (s.modSlice n f).pwr = s.pwr := rfl
@[simp] theorem State.modSlice_trip (s : State) (n f) : (s.modSlice n f).trip = s.trip := rfl
@[simp] theorem State.modSlice_mem (s : State) (n f) : (s.modSlice n f).mem = s.mem := rfl
@[simp] theorem State.modSlice_lines (s : State) (n f) : (s.modSlice n f).lines = s.lines := rfl
@[simp] theorem State.modSlice_keys (s : State) (n f) : (s.modSlice n f).keys = s.keys := rfl
@[simp] theorem State.modSlice_regions (s : State) (n f) : (s.modSlice n f).regions = s.regions := rfl
@[simp] theorem State.modSlice_dir (s : State) (n f) : (s.modSlice n f).dir = s.dir := rfl
@[simp] theorem State.modSlice_reps (s : State) (n f) : (s.modSlice n f).reps = s.reps := rfl
@[simp] theorem State.modSlice_repFills (s : State) (n f) : (s.modSlice n f).repFills = s.repFills := rfl
@[simp] theorem State.modSlice_invs (s : State) (n f) : (s.modSlice n f).invs = s.invs := rfl
@[simp] theorem State.modSlice_side (s : State) (n f) : (s.modSlice n f).side = s.side := rfl
@[simp] theorem State.modSlice_satLines (s : State) (n f) : (s.modSlice n f).satLines = s.satLines := rfl
@[simp] theorem State.modSlice_reds (s : State) (n f) : (s.modSlice n f).reds = s.reds := rfl
@[simp] theorem State.modSlice_marks (s : State) (n f) : (s.modSlice n f).marks = s.marks := rfl
@[simp] theorem State.modSlice_unacked (s : State) (n f) : (s.modSlice n f).unacked = s.unacked := rfl
@[simp] theorem State.modSlice_hostMem (s : State) (n f) : (s.modSlice n f).hostMem = s.hostMem := rfl
@[simp] theorem State.modSlice_hostOwn (s : State) (n f) : (s.modSlice n f).hostOwn = s.hostOwn := rfl
@[simp] theorem State.modSlice_snoops (s : State) (n f) : (s.modSlice n f).snoops = s.snoops := rfl
@[simp] theorem State.modSlice_homeReqs (s : State) (n f) : (s.modSlice n f).homeReqs = s.homeReqs := rfl
@[simp] theorem State.modSlice_tlb (s : State) (n f) : (s.modSlice n f).tlb = s.tlb := rfl
@[simp] theorem State.modSlice_walks (s : State) (n f) : (s.modSlice n f).walks = s.walks := rfl
@[simp] theorem State.modSlice_atc (s : State) (n f) : (s.modSlice n f).atc = s.atc := rfl
@[simp] theorem State.modSlice_atsReqs (s : State) (n f) : (s.modSlice n f).atsReqs = s.atsReqs := rfl
@[simp] theorem State.modSlice_tlbiPend (s : State) (n f) : (s.modSlice n f).tlbiPend = s.tlbiPend := rfl
@[simp] theorem State.modSlice_mapCache (s : State) (n f) : (s.modSlice n f).mapCache = s.mapCache := rfl
@[simp] theorem State.modSlice_faults (s : State) (n f) : (s.modSlice n f).faults = s.faults := rfl
@[simp] theorem State.modSlice_parts (s : State) (n f) : (s.modSlice n f).parts = s.parts := rfl
@[simp] theorem State.modSlice_fns (s : State) (n f) : (s.modSlice n f).fns = s.fns := rfl
@[simp] theorem State.modSlice_dies (s : State) (n f) : (s.modSlice n f).dies = s.dies := rfl
@[simp] theorem State.modSlice_tiles (s : State) (n f) : (s.modSlice n f).tiles = s.tiles := rfl
@[simp] theorem State.modSlice_units (s : State) (n f) : (s.modSlice n f).units = s.units := rfl
@[simp] theorem State.modSlice_islands (s : State) (n f) : (s.modSlice n f).islands = s.islands := rfl
@[simp] theorem State.modSlice_slots (s : State) (n f) : (s.modSlice n f).slots = s.slots := rfl
@[simp] theorem State.modSlice_rrLast (s : State) (n f) : (s.modSlice n f).rrLast = s.rrLast := rfl
@[simp] theorem State.modSlice_orderNo (s : State) (n f) : (s.modSlice n f).orderNo = s.orderNo := rfl
@[simp] theorem State.modSlice_pend (s : State) (n f) : (s.modSlice n f).pend = s.pend := rfl
@[simp] theorem State.modSlice_nlost (s : State) (n f) : (s.modSlice n f).nlost = s.nlost := rfl
@[simp] theorem State.modSlice_notifylost (s : State) (n f) : (s.modSlice n f).notifylost = s.notifylost := rfl
@[simp] theorem State.modSlice_launches (s : State) (n f) : (s.modSlice n f).launches = s.launches := rfl
@[simp] theorem State.modSlice_lstat (s : State) (n f) : (s.modSlice n f).lstat = s.lstat := rfl
@[simp] theorem State.modSlice_resvs (s : State) (n f) : (s.modSlice n f).resvs = s.resvs := rfl
@[simp] theorem State.modSlice_flights (s : State) (n f) : (s.modSlice n f).flights = s.flights := rfl
@[simp] theorem State.modSlice_retires (s : State) (n f) : (s.modSlice n f).retires = s.retires := rfl
@[simp] theorem State.modSlice_parkWait (s : State) (n f) : (s.modSlice n f).parkWait = s.parkWait := rfl
@[simp] theorem State.modSlice_pushWait (s : State) (n f) : (s.modSlice n f).pushWait = s.pushWait := rfl
@[simp] theorem State.modSlice_groups (s : State) (n f) : (s.modSlice n f).groups = s.groups := rfl
@[simp] theorem State.modSlice_ctimeout (s : State) (n f) : (s.modSlice n f).ctimeout = s.ctimeout := rfl
@[simp] theorem State.modSlice_gw (s : State) (n f) : (s.modSlice n f).gw = s.gw := rfl
@[simp] theorem State.modSlice_gwErr (s : State) (n f) : (s.modSlice n f).gwErr = s.gwErr := rfl

/-! ### emit -/

@[simp] theorem State.emit_agenda (s : State) (o) : (s.emit o).agenda = s.agenda := rfl
@[simp] theorem State.emit_issuing (s : State) (o) : (s.emit o).issuing = s.issuing := rfl
@[simp] theorem State.emit_cur (s : State) (o) : (s.emit o).cur = s.cur := rfl
@[simp] theorem State.emit_turn (s : State) (o) : (s.emit o).turn = s.turn := rfl
@[simp] theorem State.emit_freeCtr (s : State) (o) : (s.emit o).freeCtr = s.freeCtr := rfl
@[simp] theorem State.emit_duty (s : State) (o) : (s.emit o).duty = s.duty := rfl
@[simp] theorem State.emit_patience (s : State) (o) : (s.emit o).patience = s.patience := rfl
@[simp] theorem State.emit_nextId (s : State) (o) : (s.emit o).nextId = s.nextId := rfl
@[simp] theorem State.emit_outs (s : State) (o) : (s.emit o).outs = s.outs ++ [o] := rfl
@[simp] theorem State.emit_phase (s : State) (o) : (s.emit o).phase = s.phase := rfl
@[simp] theorem State.emit_failCode (s : State) (o) : (s.emit o).failCode = s.failCode := rfl
@[simp] theorem State.emit_failDie (s : State) (o) : (s.emit o).failDie = s.failDie := rfl
@[simp] theorem State.emit_ready (s : State) (o) : (s.emit o).ready = s.ready := rfl
@[simp] theorem State.emit_gwdown (s : State) (o) : (s.emit o).gwdown = s.gwdown := rfl
@[simp] theorem State.emit_pkgNo (s : State) (o) : (s.emit o).pkgNo = s.pkgNo := rfl
@[simp] theorem State.emit_pgrace (s : State) (o) : (s.emit o).pgrace = s.pgrace := rfl
@[simp] theorem State.emit_replup (s : State) (o) : (s.emit o).replup = s.replup := rfl
@[simp] theorem State.emit_replwmax (s : State) (o) : (s.emit o).replwmax = s.replwmax := rfl
@[simp] theorem State.emit_repldown (s : State) (o) : (s.emit o).repldown = s.repldown := rfl
@[simp] theorem State.emit_snapctl (s : State) (o) : (s.emit o).snapctl = s.snapctl := rfl
@[simp] theorem State.emit_snaps (s : State) (o) : (s.emit o).snaps = s.snaps := rfl
@[simp] theorem State.emit_dbgsel (s : State) (o) : (s.emit o).dbgsel = s.dbgsel := rfl
@[simp] theorem State.emit_plimit (s : State) (o) : (s.emit o).plimit = s.plimit := rfl
@[simp] theorem State.emit_pwr (s : State) (o) : (s.emit o).pwr = s.pwr := rfl
@[simp] theorem State.emit_trip (s : State) (o) : (s.emit o).trip = s.trip := rfl
@[simp] theorem State.emit_mem (s : State) (o) : (s.emit o).mem = s.mem := rfl
@[simp] theorem State.emit_lines (s : State) (o) : (s.emit o).lines = s.lines := rfl
@[simp] theorem State.emit_keys (s : State) (o) : (s.emit o).keys = s.keys := rfl
@[simp] theorem State.emit_regions (s : State) (o) : (s.emit o).regions = s.regions := rfl
@[simp] theorem State.emit_dir (s : State) (o) : (s.emit o).dir = s.dir := rfl
@[simp] theorem State.emit_reps (s : State) (o) : (s.emit o).reps = s.reps := rfl
@[simp] theorem State.emit_repFills (s : State) (o) : (s.emit o).repFills = s.repFills := rfl
@[simp] theorem State.emit_invs (s : State) (o) : (s.emit o).invs = s.invs := rfl
@[simp] theorem State.emit_side (s : State) (o) : (s.emit o).side = s.side := rfl
@[simp] theorem State.emit_satLines (s : State) (o) : (s.emit o).satLines = s.satLines := rfl
@[simp] theorem State.emit_reds (s : State) (o) : (s.emit o).reds = s.reds := rfl
@[simp] theorem State.emit_slices (s : State) (o) : (s.emit o).slices = s.slices := rfl
@[simp] theorem State.emit_marks (s : State) (o) : (s.emit o).marks = s.marks := rfl
@[simp] theorem State.emit_unacked (s : State) (o) : (s.emit o).unacked = s.unacked := rfl
@[simp] theorem State.emit_hostMem (s : State) (o) : (s.emit o).hostMem = s.hostMem := rfl
@[simp] theorem State.emit_hostOwn (s : State) (o) : (s.emit o).hostOwn = s.hostOwn := rfl
@[simp] theorem State.emit_snoops (s : State) (o) : (s.emit o).snoops = s.snoops := rfl
@[simp] theorem State.emit_homeReqs (s : State) (o) : (s.emit o).homeReqs = s.homeReqs := rfl
@[simp] theorem State.emit_tlb (s : State) (o) : (s.emit o).tlb = s.tlb := rfl
@[simp] theorem State.emit_walks (s : State) (o) : (s.emit o).walks = s.walks := rfl
@[simp] theorem State.emit_atc (s : State) (o) : (s.emit o).atc = s.atc := rfl
@[simp] theorem State.emit_atsReqs (s : State) (o) : (s.emit o).atsReqs = s.atsReqs := rfl
@[simp] theorem State.emit_tlbiPend (s : State) (o) : (s.emit o).tlbiPend = s.tlbiPend := rfl
@[simp] theorem State.emit_mapCache (s : State) (o) : (s.emit o).mapCache = s.mapCache := rfl
@[simp] theorem State.emit_faults (s : State) (o) : (s.emit o).faults = s.faults := rfl
@[simp] theorem State.emit_parts (s : State) (o) : (s.emit o).parts = s.parts := rfl
@[simp] theorem State.emit_fns (s : State) (o) : (s.emit o).fns = s.fns := rfl
@[simp] theorem State.emit_dies (s : State) (o) : (s.emit o).dies = s.dies := rfl
@[simp] theorem State.emit_tiles (s : State) (o) : (s.emit o).tiles = s.tiles := rfl
@[simp] theorem State.emit_units (s : State) (o) : (s.emit o).units = s.units := rfl
@[simp] theorem State.emit_islands (s : State) (o) : (s.emit o).islands = s.islands := rfl
@[simp] theorem State.emit_slots (s : State) (o) : (s.emit o).slots = s.slots := rfl
@[simp] theorem State.emit_rrLast (s : State) (o) : (s.emit o).rrLast = s.rrLast := rfl
@[simp] theorem State.emit_orderNo (s : State) (o) : (s.emit o).orderNo = s.orderNo := rfl
@[simp] theorem State.emit_pend (s : State) (o) : (s.emit o).pend = s.pend := rfl
@[simp] theorem State.emit_nlost (s : State) (o) : (s.emit o).nlost = s.nlost := rfl
@[simp] theorem State.emit_notifylost (s : State) (o) : (s.emit o).notifylost = s.notifylost := rfl
@[simp] theorem State.emit_launches (s : State) (o) : (s.emit o).launches = s.launches := rfl
@[simp] theorem State.emit_lstat (s : State) (o) : (s.emit o).lstat = s.lstat := rfl
@[simp] theorem State.emit_resvs (s : State) (o) : (s.emit o).resvs = s.resvs := rfl
@[simp] theorem State.emit_flights (s : State) (o) : (s.emit o).flights = s.flights := rfl
@[simp] theorem State.emit_retires (s : State) (o) : (s.emit o).retires = s.retires := rfl
@[simp] theorem State.emit_parkWait (s : State) (o) : (s.emit o).parkWait = s.parkWait := rfl
@[simp] theorem State.emit_pushWait (s : State) (o) : (s.emit o).pushWait = s.pushWait := rfl
@[simp] theorem State.emit_groups (s : State) (o) : (s.emit o).groups = s.groups := rfl
@[simp] theorem State.emit_ctimeout (s : State) (o) : (s.emit o).ctimeout = s.ctimeout := rfl
@[simp] theorem State.emit_gw (s : State) (o) : (s.emit o).gw = s.gw := rfl
@[simp] theorem State.emit_gwErr (s : State) (o) : (s.emit o).gwErr = s.gwErr := rfl

/-! ### later -/

@[simp] theorem State.later_agenda (s : State) (e) : (s.later e).agenda = s.agenda ++ e := rfl
@[simp] theorem State.later_issuing (s : State) (e) : (s.later e).issuing = s.issuing := rfl
@[simp] theorem State.later_cur (s : State) (e) : (s.later e).cur = s.cur := rfl
@[simp] theorem State.later_turn (s : State) (e) : (s.later e).turn = s.turn := rfl
@[simp] theorem State.later_freeCtr (s : State) (e) : (s.later e).freeCtr = s.freeCtr := rfl
@[simp] theorem State.later_duty (s : State) (e) : (s.later e).duty = s.duty := rfl
@[simp] theorem State.later_patience (s : State) (e) : (s.later e).patience = s.patience := rfl
@[simp] theorem State.later_nextId (s : State) (e) : (s.later e).nextId = s.nextId := rfl
@[simp] theorem State.later_outs (s : State) (e) : (s.later e).outs = s.outs := rfl
@[simp] theorem State.later_phase (s : State) (e) : (s.later e).phase = s.phase := rfl
@[simp] theorem State.later_failCode (s : State) (e) : (s.later e).failCode = s.failCode := rfl
@[simp] theorem State.later_failDie (s : State) (e) : (s.later e).failDie = s.failDie := rfl
@[simp] theorem State.later_ready (s : State) (e) : (s.later e).ready = s.ready := rfl
@[simp] theorem State.later_gwdown (s : State) (e) : (s.later e).gwdown = s.gwdown := rfl
@[simp] theorem State.later_pkgNo (s : State) (e) : (s.later e).pkgNo = s.pkgNo := rfl
@[simp] theorem State.later_pgrace (s : State) (e) : (s.later e).pgrace = s.pgrace := rfl
@[simp] theorem State.later_replup (s : State) (e) : (s.later e).replup = s.replup := rfl
@[simp] theorem State.later_replwmax (s : State) (e) : (s.later e).replwmax = s.replwmax := rfl
@[simp] theorem State.later_repldown (s : State) (e) : (s.later e).repldown = s.repldown := rfl
@[simp] theorem State.later_snapctl (s : State) (e) : (s.later e).snapctl = s.snapctl := rfl
@[simp] theorem State.later_snaps (s : State) (e) : (s.later e).snaps = s.snaps := rfl
@[simp] theorem State.later_dbgsel (s : State) (e) : (s.later e).dbgsel = s.dbgsel := rfl
@[simp] theorem State.later_plimit (s : State) (e) : (s.later e).plimit = s.plimit := rfl
@[simp] theorem State.later_pwr (s : State) (e) : (s.later e).pwr = s.pwr := rfl
@[simp] theorem State.later_trip (s : State) (e) : (s.later e).trip = s.trip := rfl
@[simp] theorem State.later_mem (s : State) (e) : (s.later e).mem = s.mem := rfl
@[simp] theorem State.later_lines (s : State) (e) : (s.later e).lines = s.lines := rfl
@[simp] theorem State.later_keys (s : State) (e) : (s.later e).keys = s.keys := rfl
@[simp] theorem State.later_regions (s : State) (e) : (s.later e).regions = s.regions := rfl
@[simp] theorem State.later_dir (s : State) (e) : (s.later e).dir = s.dir := rfl
@[simp] theorem State.later_reps (s : State) (e) : (s.later e).reps = s.reps := rfl
@[simp] theorem State.later_repFills (s : State) (e) : (s.later e).repFills = s.repFills := rfl
@[simp] theorem State.later_invs (s : State) (e) : (s.later e).invs = s.invs := rfl
@[simp] theorem State.later_side (s : State) (e) : (s.later e).side = s.side := rfl
@[simp] theorem State.later_satLines (s : State) (e) : (s.later e).satLines = s.satLines := rfl
@[simp] theorem State.later_reds (s : State) (e) : (s.later e).reds = s.reds := rfl
@[simp] theorem State.later_slices (s : State) (e) : (s.later e).slices = s.slices := rfl
@[simp] theorem State.later_marks (s : State) (e) : (s.later e).marks = s.marks := rfl
@[simp] theorem State.later_unacked (s : State) (e) : (s.later e).unacked = s.unacked := rfl
@[simp] theorem State.later_hostMem (s : State) (e) : (s.later e).hostMem = s.hostMem := rfl
@[simp] theorem State.later_hostOwn (s : State) (e) : (s.later e).hostOwn = s.hostOwn := rfl
@[simp] theorem State.later_snoops (s : State) (e) : (s.later e).snoops = s.snoops := rfl
@[simp] theorem State.later_homeReqs (s : State) (e) : (s.later e).homeReqs = s.homeReqs := rfl
@[simp] theorem State.later_tlb (s : State) (e) : (s.later e).tlb = s.tlb := rfl
@[simp] theorem State.later_walks (s : State) (e) : (s.later e).walks = s.walks := rfl
@[simp] theorem State.later_atc (s : State) (e) : (s.later e).atc = s.atc := rfl
@[simp] theorem State.later_atsReqs (s : State) (e) : (s.later e).atsReqs = s.atsReqs := rfl
@[simp] theorem State.later_tlbiPend (s : State) (e) : (s.later e).tlbiPend = s.tlbiPend := rfl
@[simp] theorem State.later_mapCache (s : State) (e) : (s.later e).mapCache = s.mapCache := rfl
@[simp] theorem State.later_faults (s : State) (e) : (s.later e).faults = s.faults := rfl
@[simp] theorem State.later_parts (s : State) (e) : (s.later e).parts = s.parts := rfl
@[simp] theorem State.later_fns (s : State) (e) : (s.later e).fns = s.fns := rfl
@[simp] theorem State.later_dies (s : State) (e) : (s.later e).dies = s.dies := rfl
@[simp] theorem State.later_tiles (s : State) (e) : (s.later e).tiles = s.tiles := rfl
@[simp] theorem State.later_units (s : State) (e) : (s.later e).units = s.units := rfl
@[simp] theorem State.later_islands (s : State) (e) : (s.later e).islands = s.islands := rfl
@[simp] theorem State.later_slots (s : State) (e) : (s.later e).slots = s.slots := rfl
@[simp] theorem State.later_rrLast (s : State) (e) : (s.later e).rrLast = s.rrLast := rfl
@[simp] theorem State.later_orderNo (s : State) (e) : (s.later e).orderNo = s.orderNo := rfl
@[simp] theorem State.later_pend (s : State) (e) : (s.later e).pend = s.pend := rfl
@[simp] theorem State.later_nlost (s : State) (e) : (s.later e).nlost = s.nlost := rfl
@[simp] theorem State.later_notifylost (s : State) (e) : (s.later e).notifylost = s.notifylost := rfl
@[simp] theorem State.later_launches (s : State) (e) : (s.later e).launches = s.launches := rfl
@[simp] theorem State.later_lstat (s : State) (e) : (s.later e).lstat = s.lstat := rfl
@[simp] theorem State.later_resvs (s : State) (e) : (s.later e).resvs = s.resvs := rfl
@[simp] theorem State.later_flights (s : State) (e) : (s.later e).flights = s.flights := rfl
@[simp] theorem State.later_retires (s : State) (e) : (s.later e).retires = s.retires := rfl
@[simp] theorem State.later_parkWait (s : State) (e) : (s.later e).parkWait = s.parkWait := rfl
@[simp] theorem State.later_pushWait (s : State) (e) : (s.later e).pushWait = s.pushWait := rfl
@[simp] theorem State.later_groups (s : State) (e) : (s.later e).groups = s.groups := rfl
@[simp] theorem State.later_ctimeout (s : State) (e) : (s.later e).ctimeout = s.ctimeout := rfl
@[simp] theorem State.later_gw (s : State) (e) : (s.later e).gw = s.gw := rfl
@[simp] theorem State.later_gwErr (s : State) (e) : (s.later e).gwErr = s.gwErr := rfl

/-! ### setLine -/

@[simp] theorem State.setLine_agenda (s : State) (n m) : (s.setLine n m).agenda = s.agenda := rfl
@[simp] theorem State.setLine_issuing (s : State) (n m) : (s.setLine n m).issuing = s.issuing := rfl
@[simp] theorem State.setLine_cur (s : State) (n m) : (s.setLine n m).cur = s.cur := rfl
@[simp] theorem State.setLine_turn (s : State) (n m) : (s.setLine n m).turn = s.turn := rfl
@[simp] theorem State.setLine_freeCtr (s : State) (n m) : (s.setLine n m).freeCtr = s.freeCtr := rfl
@[simp] theorem State.setLine_duty (s : State) (n m) : (s.setLine n m).duty = s.duty := rfl
@[simp] theorem State.setLine_patience (s : State) (n m) : (s.setLine n m).patience = s.patience := rfl
@[simp] theorem State.setLine_nextId (s : State) (n m) : (s.setLine n m).nextId = s.nextId := rfl
@[simp] theorem State.setLine_outs (s : State) (n m) : (s.setLine n m).outs = s.outs := rfl
@[simp] theorem State.setLine_phase (s : State) (n m) : (s.setLine n m).phase = s.phase := rfl
@[simp] theorem State.setLine_failCode (s : State) (n m) : (s.setLine n m).failCode = s.failCode := rfl
@[simp] theorem State.setLine_failDie (s : State) (n m) : (s.setLine n m).failDie = s.failDie := rfl
@[simp] theorem State.setLine_ready (s : State) (n m) : (s.setLine n m).ready = s.ready := rfl
@[simp] theorem State.setLine_gwdown (s : State) (n m) : (s.setLine n m).gwdown = s.gwdown := rfl
@[simp] theorem State.setLine_pkgNo (s : State) (n m) : (s.setLine n m).pkgNo = s.pkgNo := rfl
@[simp] theorem State.setLine_pgrace (s : State) (n m) : (s.setLine n m).pgrace = s.pgrace := rfl
@[simp] theorem State.setLine_replup (s : State) (n m) : (s.setLine n m).replup = s.replup := rfl
@[simp] theorem State.setLine_replwmax (s : State) (n m) : (s.setLine n m).replwmax = s.replwmax := rfl
@[simp] theorem State.setLine_repldown (s : State) (n m) : (s.setLine n m).repldown = s.repldown := rfl
@[simp] theorem State.setLine_snapctl (s : State) (n m) : (s.setLine n m).snapctl = s.snapctl := rfl
@[simp] theorem State.setLine_snaps (s : State) (n m) : (s.setLine n m).snaps = s.snaps := rfl
@[simp] theorem State.setLine_dbgsel (s : State) (n m) : (s.setLine n m).dbgsel = s.dbgsel := rfl
@[simp] theorem State.setLine_plimit (s : State) (n m) : (s.setLine n m).plimit = s.plimit := rfl
@[simp] theorem State.setLine_pwr (s : State) (n m) : (s.setLine n m).pwr = s.pwr := rfl
@[simp] theorem State.setLine_trip (s : State) (n m) : (s.setLine n m).trip = s.trip := rfl
@[simp] theorem State.setLine_mem (s : State) (n m) : (s.setLine n m).mem = s.mem := rfl
@[simp] theorem State.setLine_lines (s : State) (n m) : (s.setLine n m).lines = NMap.set s.lines n m := rfl
@[simp] theorem State.setLine_keys (s : State) (n m) : (s.setLine n m).keys = s.keys := rfl
@[simp] theorem State.setLine_regions (s : State) (n m) : (s.setLine n m).regions = s.regions := rfl
@[simp] theorem State.setLine_dir (s : State) (n m) : (s.setLine n m).dir = s.dir := rfl
@[simp] theorem State.setLine_reps (s : State) (n m) : (s.setLine n m).reps = s.reps := rfl
@[simp] theorem State.setLine_repFills (s : State) (n m) : (s.setLine n m).repFills = s.repFills := rfl
@[simp] theorem State.setLine_invs (s : State) (n m) : (s.setLine n m).invs = s.invs := rfl
@[simp] theorem State.setLine_side (s : State) (n m) : (s.setLine n m).side = s.side := rfl
@[simp] theorem State.setLine_satLines (s : State) (n m) : (s.setLine n m).satLines = s.satLines := rfl
@[simp] theorem State.setLine_reds (s : State) (n m) : (s.setLine n m).reds = s.reds := rfl
@[simp] theorem State.setLine_slices (s : State) (n m) : (s.setLine n m).slices = s.slices := rfl
@[simp] theorem State.setLine_marks (s : State) (n m) : (s.setLine n m).marks = s.marks := rfl
@[simp] theorem State.setLine_unacked (s : State) (n m) : (s.setLine n m).unacked = s.unacked := rfl
@[simp] theorem State.setLine_hostMem (s : State) (n m) : (s.setLine n m).hostMem = s.hostMem := rfl
@[simp] theorem State.setLine_hostOwn (s : State) (n m) : (s.setLine n m).hostOwn = s.hostOwn := rfl
@[simp] theorem State.setLine_snoops (s : State) (n m) : (s.setLine n m).snoops = s.snoops := rfl
@[simp] theorem State.setLine_homeReqs (s : State) (n m) : (s.setLine n m).homeReqs = s.homeReqs := rfl
@[simp] theorem State.setLine_tlb (s : State) (n m) : (s.setLine n m).tlb = s.tlb := rfl
@[simp] theorem State.setLine_walks (s : State) (n m) : (s.setLine n m).walks = s.walks := rfl
@[simp] theorem State.setLine_atc (s : State) (n m) : (s.setLine n m).atc = s.atc := rfl
@[simp] theorem State.setLine_atsReqs (s : State) (n m) : (s.setLine n m).atsReqs = s.atsReqs := rfl
@[simp] theorem State.setLine_tlbiPend (s : State) (n m) : (s.setLine n m).tlbiPend = s.tlbiPend := rfl
@[simp] theorem State.setLine_mapCache (s : State) (n m) : (s.setLine n m).mapCache = s.mapCache := rfl
@[simp] theorem State.setLine_faults (s : State) (n m) : (s.setLine n m).faults = s.faults := rfl
@[simp] theorem State.setLine_parts (s : State) (n m) : (s.setLine n m).parts = s.parts := rfl
@[simp] theorem State.setLine_fns (s : State) (n m) : (s.setLine n m).fns = s.fns := rfl
@[simp] theorem State.setLine_dies (s : State) (n m) : (s.setLine n m).dies = s.dies := rfl
@[simp] theorem State.setLine_tiles (s : State) (n m) : (s.setLine n m).tiles = s.tiles := rfl
@[simp] theorem State.setLine_units (s : State) (n m) : (s.setLine n m).units = s.units := rfl
@[simp] theorem State.setLine_islands (s : State) (n m) : (s.setLine n m).islands = s.islands := rfl
@[simp] theorem State.setLine_slots (s : State) (n m) : (s.setLine n m).slots = s.slots := rfl
@[simp] theorem State.setLine_rrLast (s : State) (n m) : (s.setLine n m).rrLast = s.rrLast := rfl
@[simp] theorem State.setLine_orderNo (s : State) (n m) : (s.setLine n m).orderNo = s.orderNo := rfl
@[simp] theorem State.setLine_pend (s : State) (n m) : (s.setLine n m).pend = s.pend := rfl
@[simp] theorem State.setLine_nlost (s : State) (n m) : (s.setLine n m).nlost = s.nlost := rfl
@[simp] theorem State.setLine_notifylost (s : State) (n m) : (s.setLine n m).notifylost = s.notifylost := rfl
@[simp] theorem State.setLine_launches (s : State) (n m) : (s.setLine n m).launches = s.launches := rfl
@[simp] theorem State.setLine_lstat (s : State) (n m) : (s.setLine n m).lstat = s.lstat := rfl
@[simp] theorem State.setLine_resvs (s : State) (n m) : (s.setLine n m).resvs = s.resvs := rfl
@[simp] theorem State.setLine_flights (s : State) (n m) : (s.setLine n m).flights = s.flights := rfl
@[simp] theorem State.setLine_retires (s : State) (n m) : (s.setLine n m).retires = s.retires := rfl
@[simp] theorem State.setLine_parkWait (s : State) (n m) : (s.setLine n m).parkWait = s.parkWait := rfl
@[simp] theorem State.setLine_pushWait (s : State) (n m) : (s.setLine n m).pushWait = s.pushWait := rfl
@[simp] theorem State.setLine_groups (s : State) (n m) : (s.setLine n m).groups = s.groups := rfl
@[simp] theorem State.setLine_ctimeout (s : State) (n m) : (s.setLine n m).ctimeout = s.ctimeout := rfl
@[simp] theorem State.setLine_gw (s : State) (n m) : (s.setLine n m).gw = s.gw := rfl
@[simp] theorem State.setLine_gwErr (s : State) (n m) : (s.setLine n m).gwErr = s.gwErr := rfl

/-! ### taken -/

@[simp] theorem State.taken_agenda (s : State) : (s.taken).agenda = s.agenda := rfl
@[simp] theorem State.taken_issuing (s : State) : (s.taken).issuing = false := rfl
@[simp] theorem State.taken_cur (s : State) : (s.taken).cur = s.cur := rfl
@[simp] theorem State.taken_turn (s : State) : (s.taken).turn = s.turn := rfl
@[simp] theorem State.taken_freeCtr (s : State) : (s.taken).freeCtr = s.freeCtr := rfl
@[simp] theorem State.taken_duty (s : State) : (s.taken).duty = s.duty := rfl
@[simp] theorem State.taken_patience (s : State) : (s.taken).patience = s.patience := rfl
@[simp] theorem State.taken_nextId (s : State) : (s.taken).nextId = s.nextId := rfl
@[simp] theorem State.taken_outs (s : State) : (s.taken).outs = s.outs := rfl
@[simp] theorem State.taken_phase (s : State) : (s.taken).phase = s.phase := rfl
@[simp] theorem State.taken_failCode (s : State) : (s.taken).failCode = s.failCode := rfl
@[simp] theorem State.taken_failDie (s : State) : (s.taken).failDie = s.failDie := rfl
@[simp] theorem State.taken_ready (s : State) : (s.taken).ready = s.ready := rfl
@[simp] theorem State.taken_gwdown (s : State) : (s.taken).gwdown = s.gwdown := rfl
@[simp] theorem State.taken_pkgNo (s : State) : (s.taken).pkgNo = s.pkgNo := rfl
@[simp] theorem State.taken_pgrace (s : State) : (s.taken).pgrace = s.pgrace := rfl
@[simp] theorem State.taken_replup (s : State) : (s.taken).replup = s.replup := rfl
@[simp] theorem State.taken_replwmax (s : State) : (s.taken).replwmax = s.replwmax := rfl
@[simp] theorem State.taken_repldown (s : State) : (s.taken).repldown = s.repldown := rfl
@[simp] theorem State.taken_snapctl (s : State) : (s.taken).snapctl = s.snapctl := rfl
@[simp] theorem State.taken_snaps (s : State) : (s.taken).snaps = s.snaps := rfl
@[simp] theorem State.taken_dbgsel (s : State) : (s.taken).dbgsel = s.dbgsel := rfl
@[simp] theorem State.taken_plimit (s : State) : (s.taken).plimit = s.plimit := rfl
@[simp] theorem State.taken_pwr (s : State) : (s.taken).pwr = s.pwr := rfl
@[simp] theorem State.taken_trip (s : State) : (s.taken).trip = s.trip := rfl
@[simp] theorem State.taken_mem (s : State) : (s.taken).mem = s.mem := rfl
@[simp] theorem State.taken_lines (s : State) : (s.taken).lines = s.lines := rfl
@[simp] theorem State.taken_keys (s : State) : (s.taken).keys = s.keys := rfl
@[simp] theorem State.taken_regions (s : State) : (s.taken).regions = s.regions := rfl
@[simp] theorem State.taken_dir (s : State) : (s.taken).dir = s.dir := rfl
@[simp] theorem State.taken_reps (s : State) : (s.taken).reps = s.reps := rfl
@[simp] theorem State.taken_repFills (s : State) : (s.taken).repFills = s.repFills := rfl
@[simp] theorem State.taken_invs (s : State) : (s.taken).invs = s.invs := rfl
@[simp] theorem State.taken_side (s : State) : (s.taken).side = s.side := rfl
@[simp] theorem State.taken_satLines (s : State) : (s.taken).satLines = s.satLines := rfl
@[simp] theorem State.taken_reds (s : State) : (s.taken).reds = s.reds := rfl
@[simp] theorem State.taken_slices (s : State) : (s.taken).slices = s.slices := rfl
@[simp] theorem State.taken_marks (s : State) : (s.taken).marks = s.marks := rfl
@[simp] theorem State.taken_unacked (s : State) : (s.taken).unacked = s.unacked := rfl
@[simp] theorem State.taken_hostMem (s : State) : (s.taken).hostMem = s.hostMem := rfl
@[simp] theorem State.taken_hostOwn (s : State) : (s.taken).hostOwn = s.hostOwn := rfl
@[simp] theorem State.taken_snoops (s : State) : (s.taken).snoops = s.snoops := rfl
@[simp] theorem State.taken_homeReqs (s : State) : (s.taken).homeReqs = s.homeReqs := rfl
@[simp] theorem State.taken_tlb (s : State) : (s.taken).tlb = s.tlb := rfl
@[simp] theorem State.taken_walks (s : State) : (s.taken).walks = s.walks := rfl
@[simp] theorem State.taken_atc (s : State) : (s.taken).atc = s.atc := rfl
@[simp] theorem State.taken_atsReqs (s : State) : (s.taken).atsReqs = s.atsReqs := rfl
@[simp] theorem State.taken_tlbiPend (s : State) : (s.taken).tlbiPend = s.tlbiPend := rfl
@[simp] theorem State.taken_mapCache (s : State) : (s.taken).mapCache = s.mapCache := rfl
@[simp] theorem State.taken_faults (s : State) : (s.taken).faults = s.faults := rfl
@[simp] theorem State.taken_parts (s : State) : (s.taken).parts = s.parts := rfl
@[simp] theorem State.taken_fns (s : State) : (s.taken).fns = s.fns := rfl
@[simp] theorem State.taken_dies (s : State) : (s.taken).dies = s.dies := rfl
@[simp] theorem State.taken_tiles (s : State) : (s.taken).tiles = s.tiles := rfl
@[simp] theorem State.taken_units (s : State) : (s.taken).units = s.units := rfl
@[simp] theorem State.taken_islands (s : State) : (s.taken).islands = s.islands := rfl
@[simp] theorem State.taken_slots (s : State) : (s.taken).slots = s.slots := rfl
@[simp] theorem State.taken_rrLast (s : State) : (s.taken).rrLast = s.rrLast := rfl
@[simp] theorem State.taken_orderNo (s : State) : (s.taken).orderNo = s.orderNo := rfl
@[simp] theorem State.taken_pend (s : State) : (s.taken).pend = s.pend := rfl
@[simp] theorem State.taken_nlost (s : State) : (s.taken).nlost = s.nlost := rfl
@[simp] theorem State.taken_notifylost (s : State) : (s.taken).notifylost = s.notifylost := rfl
@[simp] theorem State.taken_launches (s : State) : (s.taken).launches = s.launches := rfl
@[simp] theorem State.taken_lstat (s : State) : (s.taken).lstat = s.lstat := rfl
@[simp] theorem State.taken_resvs (s : State) : (s.taken).resvs = s.resvs := rfl
@[simp] theorem State.taken_flights (s : State) : (s.taken).flights = s.flights := rfl
@[simp] theorem State.taken_retires (s : State) : (s.taken).retires = s.retires := rfl
@[simp] theorem State.taken_parkWait (s : State) : (s.taken).parkWait = s.parkWait := rfl
@[simp] theorem State.taken_pushWait (s : State) : (s.taken).pushWait = s.pushWait := rfl
@[simp] theorem State.taken_groups (s : State) : (s.taken).groups = s.groups := rfl
@[simp] theorem State.taken_ctimeout (s : State) : (s.taken).ctimeout = s.ctimeout := rfl
@[simp] theorem State.taken_gw (s : State) : (s.taken).gw = s.gw := rfl
@[simp] theorem State.taken_gwErr (s : State) : (s.taken).gwErr = s.gwErr := rfl

/-! ### Parts after an update -/

theorem State.unit_setUnit (s : State) (u v : UnitRef) (x : CoreUnit) : (s.setUnit u x).unit v = if ukey v = ukey u then x else s.unit v := by
  unfold State.unit
  rw [State.setUnit_units, NMap.getD_set]

@[simp] theorem State.unit_setUnit_self (s : State) (u : UnitRef) (x : CoreUnit) : (s.setUnit u x).unit u = x := by simp [State.unit_setUnit]

theorem State.unit_modUnit (s : State) (u v : UnitRef) (f : CoreUnit → CoreUnit) :
    (s.modUnit u f).unit v = if ukey v = ukey u then f (s.unit u) else s.unit v := State.unit_setUnit s u v _

@[simp] theorem State.unit_modUnit_self (s : State) (u : UnitRef) (f : CoreUnit → CoreUnit) : (s.modUnit u f).unit u = f (s.unit u) :=
  State.unit_setUnit_self s u _

/-- A context after a strand is put into it, or another. -/
theorem State.strand_setStrand (s : State) (c d : CtxRef) (t : Strand) :
    (s.setStrand c t).strand d = if ukey d.unit = ukey c.unit ∧ d.ctx = c.ctx then some t else s.strand d := by
  unfold State.strand State.setStrand
  rw [State.unit_modUnit]
  by_cases h : ukey d.unit = ukey c.unit
  · have hu : s.unit d.unit = s.unit c.unit := by unfold State.unit; rw [h]
    simp [h, hu, NMap.find_set]
  · simp [h]

@[simp] theorem State.strand_setStrand_self (s : State) (c : CtxRef) (t : Strand) : (s.setStrand c t).strand c = some t := by
  simp [State.strand_setStrand]

/-- A context after one is freed. -/
theorem State.strand_delStrand (s : State) (c d : CtxRef) :
    (s.delStrand c).strand d = if ukey d.unit = ukey c.unit ∧ d.ctx = c.ctx then none else s.strand d := by
  unfold State.strand State.delStrand
  rw [State.unit_modUnit]
  by_cases h : ukey d.unit = ukey c.unit
  · have hu : s.unit d.unit = s.unit c.unit := by unfold State.unit; rw [h]
    simp [h, hu, NMap.find_del]
  · simp [h]

theorem State.part_modPart (s : State) (p q : Nat) (f : Part → Part) : (s.modPart p f).part q = if q = p then f (s.part p) else s.part q := by
  unfold State.part
  rw [State.modPart_parts, NMap.getD_set]
  rfl

theorem State.fn_modFn (s : State) (p q : Nat) (f : Fn → Fn) : (s.modFn p f).fn q = if q = p then f (s.fn p) else s.fn q := by
  unfold State.fn
  rw [State.modFn_fns, NMap.getD_set]
  rfl

theorem State.tile_modTile (s : State) (p q : Nat) (f : Tile → Tile) : (s.modTile p f).tile q = if q = p then f (s.tile p) else s.tile q := by
  unfold State.tile
  rw [State.modTile_tiles, NMap.getD_set]
  rfl

theorem State.island_modIsland (s : State) (p q : Nat) (f : Island → Island) :
    (s.modIsland p f).island q = if q = p then f (s.island p) else s.island q := by
  unfold State.island
  rw [State.modIsland_islands, NMap.getD_set]
  rfl

theorem State.slot_setSlot (s : State) (p q : Nat) (x : Slot) : (s.setSlot p x).slot q = if q = p then x else s.slot q := by
  unfold State.slot
  rw [State.setSlot_slots, NMap.getD_set]

theorem State.line_setLine (s : State) (p q : Nat) (x : LineMeta) : (s.setLine p x).line q = if q = p then x else s.line q := by
  unfold State.line
  rw [State.setLine_lines, NMap.getD_set]

/-! ### The canonical form -/

theorem NMap.all_set {β : Type} {m : NMap β} {n : Nat} {x : β} {p : Nat × β → Bool} (hm : m.all p = true) (hx : p (n, x) = true) :
    (NMap.set m n x).all p = true := by
  rw [List.all_eq_true] at hm ⊢
  intro e he
  rcases NMap.mem_set he with rfl | h
  · exact hx
  · exact hm e h

theorem CoreUnit.wf_of_memWf {s : State} (h : s.memWf = true) (u : UnitRef) : (s.unit u).sp.wf = true := by
  unfold State.unit NMap.getD
  cases hf : NMap.find s.units (ukey u) with
  | none => rfl
  | some x =>
    simp only [State.memWf, Bool.and_eq_true] at h
    exact (List.all_eq_true.mp h.2) _ (NMap.find_some_mem hf)

theorem CoreUnit.rising_of_tidy {s : State} (h : s.tidy = true) (u : UnitRef) : NMap.rising (s.unit u).strands = true := by
  unfold State.unit NMap.getD
  cases hf : NMap.find s.units (ukey u) with
  | none => rfl
  | some x =>
    simp only [State.tidy, Bool.and_eq_true] at h
    exact (List.all_eq_true.mp h.2) _ (NMap.find_some_mem hf)

/-- A unit whose scratchpad and contexts are in canonical form may take its place. -/
theorem State.canonical_setUnit {s : State} {u : UnitRef} {x : CoreUnit} (h : s.canonical = true) (hw : x.sp.wf = true)
    (hr : NMap.rising x.strands = true) : (s.setUnit u x).canonical = true := by
  simp only [State.canonical, State.memWf, State.tidy, Bool.and_eq_true] at h ⊢
  exact ⟨⟨h.1.1, NMap.all_set h.1.2 hw⟩, NMap.rising_set h.2.1, NMap.all_set h.2.2 hr⟩

/-- A change of a unit that leaves its scratchpad and its contexts. -/
theorem State.canonical_modUnit {s : State} {u : UnitRef} {f : CoreUnit → CoreUnit} (h : s.canonical = true)
    (hs : (f (s.unit u)).sp = (s.unit u).sp) (ht : (f (s.unit u)).strands = (s.unit u).strands) : (s.modUnit u f).canonical = true := by
  have hc := h
  simp only [State.canonical, Bool.and_eq_true] at hc
  exact State.canonical_setUnit h (hs ▸ CoreUnit.wf_of_memWf hc.1 u) (ht ▸ CoreUnit.rising_of_tidy hc.2 u)

theorem State.canonical_setStrand {s : State} (h : s.canonical = true) (c : CtxRef) (t : Strand) : (s.setStrand c t).canonical = true := by
  have hc := h
  simp only [State.canonical, Bool.and_eq_true] at hc
  exact State.canonical_setUnit h (CoreUnit.wf_of_memWf hc.1 c.unit) (NMap.rising_set (CoreUnit.rising_of_tidy hc.2 c.unit))

theorem State.canonical_delStrand {s : State} (h : s.canonical = true) (c : CtxRef) : (s.delStrand c).canonical = true := by
  have hc := h
  simp only [State.canonical, Bool.and_eq_true] at hc
  exact State.canonical_setUnit h (CoreUnit.wf_of_memWf hc.1 c.unit) (NMap.rising_del (CoreUnit.rising_of_tidy hc.2 c.unit))

/-- A state with the same memories and units is in canonical form. -/
theorem State.canonical_of_eq {s s' : State} (h : s.canonical = true) (hm : s'.mem = s.mem) (hh : s'.hostMem = s.hostMem)
    (hu : s'.units = s.units) : s'.canonical = true := by
  simpa [State.canonical, State.memWf, State.tidy, hm, hh, hu] using h

/-- A write of device memory keeps the canonical form. -/
theorem State.canonical_mem {s : State} {m : Memory} (h : s.canonical = true) (hm : m.wf = true) :
    ({ s with mem := m } : State).canonical = true := by
  simp only [State.canonical, State.memWf, State.tidy, Bool.and_eq_true] at h ⊢
  exact ⟨⟨⟨hm, h.1.1.2⟩, h.1.2⟩, h.2⟩

/-- A write of host memory keeps the canonical form. -/
theorem State.canonical_hostMem {s : State} {m : Memory} (h : s.canonical = true) (hm : m.wf = true) :
    ({ s with hostMem := m } : State).canonical = true := by
  simp only [State.canonical, State.memWf, State.tidy, Bool.and_eq_true] at h ⊢
  exact ⟨⟨⟨h.1.1.1, hm⟩, h.1.2⟩, h.2⟩

/-- The memories of the state after reset are in canonical form. -/
theorem State.reset_memWf : State.reset.memWf = true := rfl

end Sys2Proof.Machine
end

