-- ==== Sys2Proof/Laws/Home.lean ====
section
/-! SUPPORT. What the shared operations at a home, of a fill and of a channel can do, each said once. -/
namespace Sys2Proof.Machine

/-- All that a collapse can change: the replicas' directory and counters, their marks, and the invalidations on their way (R206, R207). -/
theorem State.collapse_eq (s : State) (line : Nat) (sids : List Nat) (count : Bool) :
    s.collapse line sids count = { s with
      invs := (s.collapse line sids count).invs, reps := (s.collapse line sids count).reps
      repFills := (s.collapse line sids count).repFills, dir := (s.collapse line sids count).dir
      regions := (s.collapse line sids count).regions } := by
  unfold State.collapse
  dsimp only
  split <;> rfl

@[simp] theorem State.collapse_mem (s : State) (line : Nat) (sids : List Nat) (count : Bool) : (s.collapse line sids count).mem = s.mem := by
  rw [State.collapse_eq]

/-- A line with no replica has nothing to collapse: the writers of it wait for what is on its way, and that is all. -/
theorem State.collapse_none (s : State) (line : Nat) (sids : List Nat) (count : Bool) (h : NMap.getD s.dir line [] = []) :
    s.collapse line sids count = { s with
      invs := s.invs.map fun v => if v.line = line then { v with sids := v.sids ++ sids } else v, dir := NMap.del s.dir line } := by
  simp [State.collapse, State.chase, h]

/-- Setting a page's dirty bit changes nothing but memory, and the replicas of the bitmap's line (R206). -/
theorem State.markDirty_eq (s : State) (p pa : Nat) :
    s.markDirty p pa = { s with
      mem := (s.markDirty p pa).mem, invs := (s.markDirty p pa).invs, reps := (s.markDirty p pa).reps
      repFills := (s.markDirty p pa).repFills, dir := (s.markDirty p pa).dir, regions := (s.markDirty p pa).regions } := by
  unfold State.markDirty
  dsimp only
  split
  · rfl
  · rw [State.collapse_eq]

/-- Bit i of a byte is set: another OR with it changes nothing. -/
theorem byte_or_bit {b : Byte} {i : Nat} (h : b.getLsbD i = true) : b ||| BitVec.ofNat 8 (2 ^ i) = b := by
  have hi : i < 8 := by
    apply Classical.byContradiction
    intro hn
    rw [BitVec.getLsbD_of_ge b i (by omega)] at h
    cases h
  apply BitVec.eq_of_getLsbD_eq
  intro j hj
  rw [BitVec.getLsbD_or]
  by_cases e : j = i
  · subst e; rw [h]; rfl
  · have : (BitVec.ofNat 8 (2 ^ i)).getLsbD j = false := by
      rw [BitVec.getLsbD_ofNat, Nat.testBit_two_pow_of_ne (Ne.symm e), Bool.and_false]
    rw [this, Bool.or_false]

/-- What memory reads as once a page's dirty bit is set (R354). -/
theorem State.read_markDirty {s : State} (h : s.mem.wf = true) (p pa a : Nat) :
    (s.markDirty p pa).mem.read a = s.withBit p pa a (s.mem.read a) := by
  unfold State.markDirty State.withBit
  dsimp only
  split
  · rename_i hc
    split
    · rename_i hw
      obtain ⟨h1, rfl, hm⟩ := hw
      have h2 : ¬ 64 ≤ p := by omega
      rw [hm] at hc
      simp [h2] at hc
      exact (byte_or_bit hc).symm
    · rfl
  · rename_i hc
    simp only [Bool.or_eq_true, not_or, decide_eq_true_eq, bne_iff_ne, ne_eq, Decidable.not_not] at hc
    show Memory.read (Memory.write _ _ _) a = _
    rw [Memory.read_write (by rw [State.collapse_mem]; exact h), State.collapse_mem]
    by_cases ha : a = s.dirtyByte p pa
    · subst ha
      rw [if_pos rfl, if_pos ⟨by omega, rfl, hc.1.2⟩]
    · rw [if_neg ha, if_neg (fun x => ha x.2.1)]

/-- Setting a page's dirty bit keeps memory's canonical form. -/
theorem State.wf_markDirty {s : State} (h : s.mem.wf = true) (p pa : Nat) : (s.markDirty p pa).mem.wf = true := by
  unfold State.markDirty
  dsimp only
  split
  · exact h
  · exact Memory.wf_write (by rw [State.collapse_mem]; exact h) _ _

/-- A fill that reaches its die installs its replica in the place of the one that is there, or nothing where an invalidation has overtaken
it; the rest of the state stays but for the fills on their way (R206). -/
theorem State.installReplica_reps (s : State) (f : RepFill) (earlier later : List RepFill) :
    (s.installReplica f earlier later).reps = if f.live then
      ⟨f.die, f.line, f.owner, f.chased, f.data⟩ :: s.reps.filter fun r => !(r.die == f.die && r.line == f.line) else s.reps := by
  unfold State.installReplica
  dsimp only
  split <;> rfl

theorem State.installReplica_eq (s : State) (f : RepFill) (earlier later : List RepFill) :
    s.installReplica f earlier later = { s with
      reps := (s.installReplica f earlier later).reps, repFills := (s.installReplica f earlier later).repFills } := by
  unfold State.installReplica
  dsimp only
  split <;> rfl

/-- At its home a strand's CPWAIT changes no cache (R262). -/
theorem Env.acquired_home {e : Env} (h : e.c.unit = e.home) : e.acquired = e.s := by
  unfold Env.acquired
  rw [if_pos (by simpa using h)]

/-- A channel that has captured nothing checks against the state as it is (R92). -/
theorem State.asReached_nil (s : State) : s.asReached [] = s := rfl

end Sys2Proof.Machine
end

