-- ==== Sys2Proof/Laws/Issue.lean ====
section
/-! SUPPORT. What the common part of an instruction does (R87, R98, R120, R129): one lemma that says when it passes, and one
that says how an instruction then ends. -/
namespace Sys2Proof.Machine

theorem transfer_ok_of_reaches {s : State} {t : Strand} {a : Word} (h : s.reaches t a = true) :
    s.taken.transfer s.cur t a = .ok () := by
  unfold State.reaches at h
  unfold State.transfer
  by_cases hp : a.toNat / 65536 = t.pc.toNat / 65536
  · simp [hp]
  · by_cases hr : regionOf a = .paged
    · simp only [hp, hr, beq_iff_eq, bne_self_eq_false, Bool.or_false, Bool.false_eq_true, decide_false, if_false] at h ⊢
      cases hx : s.taken.xlate (udie s.cur.unit) t.part a false t.wfaults <;> simp_all
    · simp [hr]

theorem readable_not_pending {t : Strand} {r : Reg} (h : t.readable r = true) : t.pendingReg r = false := by
  cases r with
  | m m => rfl
  | _ => simp only [Strand.readable, Bool.and_eq_true, Bool.not_eq_true'] at h; exact h.1

theorem readable_not_poisoned {t : Strand} {r : Reg} (h : t.readable r = true) : t.poisonedReg r = false := by
  cases r with
  | m m => rfl
  | _ => simp only [Strand.readable, Bool.and_eq_true, Bool.not_eq_true'] at h; exact h.2

theorem readable_not_mailNx {t : Strand} {r : Reg} (h : t.readable r = true) : t.mailNx r = false := by
  cases r with
  | m m =>
    simp only [Strand.readable, Strand.mailNx] at h ⊢
    split at h <;> simp_all
  | _ => rfl

theorem peekAll_of_readable {t : Strand} (c : Nat) : ∀ {rs : List Reg}, (∀ r ∈ rs, t.readable r = true) → t.peekAll c rs = (t, c)
  | [], _ => rfl
  | r :: rs, h => by
    have h1 := readable_not_pending (h r (by simp))
    have h2 : ∀ r ∈ rs, t.readable r = true := fun x hx => h x (List.mem_cons_of_mem _ hx)
    simp [Strand.peekAll, h1, peekAll_of_readable c h2]

theorem mailEmpty_of_readable {t : Strand} {rs : List Reg} (h : ∀ r ∈ rs, t.readable r = true) : t.mailEmpty rs = none := by
  unfold Strand.mailEmpty
  rw [List.findSome?_eq_none_iff]
  intro r hr
  have := h r hr
  cases r with
  | m m =>
    simp only [Strand.readable] at this
    cases hm : t.mail[m] <;> simp_all
  | _ => rfl

theorem any_false {t : Strand} {rs : List Reg} {f : Reg → Bool} (hf : ∀ r, t.readable r = true → f r = false)
    (h : ∀ r ∈ rs, t.readable r = true) : rs.any f = false := by
  rw [List.any_eq_false]
  intro r hr
  simp [hf r (h r hr)]

/-- The common part of an instruction passes where `State.admits` holds, and leaves its meaning the environment `State.env`. -/
theorem prep_of_admits {s : State} {t : Strand} {o : Op} (h : s.admits t o = true) :
    prep o s.taken s.cur t = .ok (s.env t o) := by
  unfold State.admits at h
  simp only [Bool.and_eq_true] at h
  obtain ⟨⟨⟨⟨⟨⟨⟨hs, hpriv⟩, hvec⟩, hacc⟩, hw⟩, hmova⟩, hsrc⟩, hfall⟩ := h
  have hr : ∀ r ∈ o.srcs.map Prod.fst, (t.atIssue o.h).readable r = true := by
    intro r hr
    obtain ⟨x, hx, rfl⟩ := List.mem_map.mp hr
    exact List.all_eq_true.mp hsrc x hx
  have e1 : (o.priv && t.dom != 0) = false := by cases hp : o.priv <;> simp_all
  have e2 : (o.vec && t.handler.isSome) = false := by cases hv : o.vec <;> simp_all
  have e3 : (o.h.w && t.lates.any Late.awaited) = false := by cases hv : o.h.w <;> simp_all
  have e4 : s.taken.movaOn s.cur t o = none := Option.isNone_iff_eq_none.mp hmova
  have e6 : (o.accs.any fun a => t.accs.length ≤ a.val) = false := by
    rw [List.any_eq_false]
    intro a ha
    have := List.all_eq_true.mp hacc a ha
    simpa using this
  have e5 : (if o.falls = true then s.taken.transfer s.cur t (t.pc + BitVec.ofNat 64 (o.h.after o.len)) else .ok ()) = .ok () := by
    cases hf : o.falls
    · simp
    · simp only [hf, Bool.not_true, Bool.false_or] at hfall
      simp [transfer_ok_of_reaches hfall]
  have p1 := any_false (f := (t.atIssue o.h).pendingReg) (fun _ => readable_not_pending) hr
  have p2 := any_false (f := (t.atIssue o.h).mailNx) (fun _ => readable_not_mailNx) hr
  have p3 := any_false (f := (t.atIssue o.h).poisonedReg) (fun _ => readable_not_poisoned) hr
  have p4 := mailEmpty_of_readable hr
  have p5 := peekAll_of_readable s.taken.freeCtr hr
  unfold prep
  simp only [e1, e2, e3, e4, e6, if_false, Bool.false_eq_true]
  rw [show (if o.h.w = true then t.settle else t) = t.atIssue o.h from rfl]
  rw [e5]
  simp only [p1, p2, p3, p4, p5, Bool.and_false, if_false, Bool.false_eq_true]
  rfl

/-- An instruction whose common part passes and whose own meaning completes, completes. -/
theorem issue_of_admits {s : State} {t : Strand} {o : Op} {body : Env → Res} {s' : State} {t' : Strand} {g : Go}
    (h : s.admits t o = true) (hb : body (s.env t o) = .ok (s', t', g)) :
    issue o body s = .next (s'.retire s.cur o.h t' g (o.h.after o.len)) := by
  have hs : s.strand s.cur = some t := by
    unfold State.admits at h
    simp only [Bool.and_eq_true, beq_iff_eq] at h
    exact h.1.1.1.1.1.1.1
  have hp := prep_of_admits h
  unfold issue
  show (match s.strand s.cur with
    | none => _
    | some o' => _) = _
  rw [hs]
  show Host.Outcome.next (match prep o s.taken s.cur t with
    | .error x => _
    | .ok e => _) = _
  rw [hp]
  simp only [hb]

/-- An instruction whose common part passes and whose own meaning stops, stops so. -/
theorem issue_stop_of_admits {s : State} {t : Strand} {o : Op} {body : Env → Res} {x : Stop}
    (h : s.admits t o = true) (hb : body (s.env t o) = .error x) :
    issue o body s = .next (s.taken.stopped s.cur t (o.h.after o.len) (x.issued (s.lineAt s.cur t))) := by
  have hs : s.strand s.cur = some t := by
    unfold State.admits at h
    simp only [Bool.and_eq_true, beq_iff_eq] at h
    exact h.1.1.1.1.1.1.1
  have hp := prep_of_admits h
  unfold issue
  show (match s.strand s.cur with
    | none => _
    | some o' => _) = _
  rw [hs]
  show Host.Outcome.next (match prep o s.taken s.cur t with
    | .error x => _
    | .ok e => _) = _
  rw [hp]
  simp only [hb]; rfl

/-- The form of a register instruction: only the strand changes. -/
theorem issue_finish {s : State} {t : Strand} {o : Op} {body : Env → Res} {f : Strand → Strand} {g : Go}
    (h : s.admits t o = true) (hb : body (s.env t o) = .ok (s.taken, f ((t.atIssue o.h).consumed o.srcs), g)) :
    issue o body s = .next (s.finish t o f g) :=
  issue_of_admits h hb

end Sys2Proof.Machine
end

