-- ==== Sys2Proof/Laws/Strand.lean ====
section
/-! SUPPORT. What writing, freeing and settling registers leaves in each field of a strand, and what an instruction's common part does. -/
namespace Sys2Proof.Machine

/-! ### setSreg -/

@[simp] theorem Strand.setSreg_sid (t : Strand) (r : Fin 32) (x : RegCell 64) : (t.setSreg r x).sid = t.sid := by
  unfold Strand.setSreg; (repeat' split) <;> rfl
@[simp] theorem Strand.setSreg_kind (t : Strand) (r : Fin 32) (x : RegCell 64) : (t.setSreg r x).kind = t.kind := by
  unfold Strand.setSreg; (repeat' split) <;> rfl
@[simp] theorem Strand.setSreg_pc (t : Strand) (r : Fin 32) (x : RegCell 64) : (t.setSreg r x).pc = t.pc := by
  unfold Strand.setSreg; (repeat' split) <;> rfl
@[simp] theorem Strand.setSreg_dom (t : Strand) (r : Fin 32) (x : RegCell 64) : (t.setSreg r x).dom = t.dom := by
  unfold Strand.setSreg; (repeat' split) <;> rfl
@[simp] theorem Strand.setSreg_permit (t : Strand) (r : Fin 32) (x : RegCell 64) : (t.setSreg r x).permit = t.permit := by
  unfold Strand.setSreg; (repeat' split) <;> rfl
@[simp] theorem Strand.setSreg_spillPend (t : Strand) (r : Fin 32) (x : RegCell 64) : (t.setSreg r x).spillPend = t.spillPend := by
  unfold Strand.setSreg; (repeat' split) <;> rfl
@[simp] theorem Strand.setSreg_v (t : Strand) (r : Fin 32) (x : RegCell 64) : (t.setSreg r x).v = t.v := by
  unfold Strand.setSreg; (repeat' split) <;> rfl
@[simp] theorem Strand.setSreg_k (t : Strand) (r : Fin 32) (x : RegCell 64) : (t.setSreg r x).k = t.k := by
  unfold Strand.setSreg; (repeat' split) <;> rfl
@[simp] theorem Strand.setSreg_mail (t : Strand) (r : Fin 32) (x : RegCell 64) : (t.setSreg r x).mail = t.mail := by
  unfold Strand.setSreg; (repeat' split) <;> rfl
@[simp] theorem Strand.setSreg_staged (t : Strand) (r : Fin 32) (x : RegCell 64) : (t.setSreg r x).staged = t.staged := by
  unfold Strand.setSreg; (repeat' split) <;> rfl
@[simp] theorem Strand.setSreg_frames (t : Strand) (r : Fin 32) (x : RegCell 64) : (t.setSreg r x).frames = t.frames := by
  unfold Strand.setSreg; (repeat' split) <;> rfl
@[simp] theorem Strand.setSreg_recs (t : Strand) (r : Fin 32) (x : RegCell 64) : (t.setSreg r x).recs = t.recs := by
  unfold Strand.setSreg; (repeat' split) <;> rfl
@[simp] theorem Strand.setSreg_depth (t : Strand) (r : Fin 32) (x : RegCell 64) : (t.setSreg r x).depth = t.depth := by
  unfold Strand.setSreg; (repeat' split) <;> rfl
@[simp] theorem Strand.setSreg_store (t : Strand) (r : Fin 32) (x : RegCell 64) : (t.setSreg r x).store = t.store := by
  unfold Strand.setSreg; (repeat' split) <;> rfl
@[simp] theorem Strand.setSreg_nx (t : Strand) (r : Fin 32) (x : RegCell 64) : (t.setSreg r x).nx = t.nx := by
  unfold Strand.setSreg; (repeat' split) <;> rfl
@[simp] theorem Strand.setSreg_fflags (t : Strand) (r : Fin 32) (x : RegCell 64) : (t.setSreg r x).fflags = t.fflags := by
  unfold Strand.setSreg; (repeat' split) <;> rfl
@[simp] theorem Strand.setSreg_strict (t : Strand) (r : Fin 32) (x : RegCell 64) : (t.setSreg r x).strict = t.strict := by
  unfold Strand.setSreg; (repeat' split) <;> rfl
@[simp] theorem Strand.setSreg_vtime (t : Strand) (r : Fin 32) (x : RegCell 64) : (t.setSreg r x).vtime = t.vtime := by
  unfold Strand.setSreg; (repeat' split) <;> rfl
@[simp] theorem Strand.setSreg_caller (t : Strand) (r : Fin 32) (x : RegCell 64) : (t.setSreg r x).caller = t.caller := by
  unfold Strand.setSreg; (repeat' split) <;> rfl
@[simp] theorem Strand.setSreg_launch (t : Strand) (r : Fin 32) (x : RegCell 64) : (t.setSreg r x).launch = t.launch := by
  unfold Strand.setSreg; (repeat' split) <;> rfl
@[simp] theorem Strand.setSreg_reject (t : Strand) (r : Fin 32) (x : RegCell 64) : (t.setSreg r x).reject = t.reject := by
  unfold Strand.setSreg; (repeat' split) <;> rfl
@[simp] theorem Strand.setSreg_unack (t : Strand) (r : Fin 32) (x : RegCell 64) : (t.setSreg r x).unack = t.unack := by
  unfold Strand.setSreg; (repeat' split) <;> rfl
@[simp] theorem Strand.setSreg_cap (t : Strand) (r : Fin 32) (x : RegCell 64) : (t.setSreg r x).cap = t.cap := by
  unfold Strand.setSreg; (repeat' split) <;> rfl
@[simp] theorem Strand.setSreg_capId (t : Strand) (r : Fin 32) (x : RegCell 64) : (t.setSreg r x).capId = t.capId := by
  unfold Strand.setSreg; (repeat' split) <;> rfl
@[simp] theorem Strand.setSreg_wsig (t : Strand) (r : Fin 32) (x : RegCell 64) : (t.setSreg r x).wsig = t.wsig := by
  unfold Strand.setSreg; (repeat' split) <;> rfl
@[simp] theorem Strand.setSreg_lates (t : Strand) (r : Fin 32) (x : RegCell 64) : (t.setSreg r x).lates = t.lates := by
  unfold Strand.setSreg; (repeat' split) <;> rfl
@[simp] theorem Strand.setSreg_cmds (t : Strand) (r : Fin 32) (x : RegCell 64) : (t.setSreg r x).cmds = t.cmds := by
  unfold Strand.setSreg; (repeat' split) <;> rfl
@[simp] theorem Strand.setSreg_reports (t : Strand) (r : Fin 32) (x : RegCell 64) : (t.setSreg r x).reports = t.reports := by
  unfold Strand.setSreg; (repeat' split) <;> rfl
@[simp] theorem Strand.setSreg_rem (t : Strand) (r : Fin 32) (x : RegCell 64) : (t.setSreg r x).rem = t.rem := by
  unfold Strand.setSreg; (repeat' split) <;> rfl
@[simp] theorem Strand.setSreg_fail (t : Strand) (r : Fin 32) (x : RegCell 64) : (t.setSreg r x).fail = t.fail := by
  unfold Strand.setSreg; (repeat' split) <;> rfl
@[simp] theorem Strand.setSreg_hold (t : Strand) (r : Fin 32) (x : RegCell 64) : (t.setSreg r x).hold = t.hold := by
  unfold Strand.setSreg; (repeat' split) <;> rfl
@[simp] theorem Strand.setSreg_res (t : Strand) (r : Fin 32) (x : RegCell 64) : (t.setSreg r x).res = t.res := by
  unfold Strand.setSreg; (repeat' split) <;> rfl
@[simp] theorem Strand.setSreg_arrived (t : Strand) (r : Fin 32) (x : RegCell 64) : (t.setSreg r x).arrived = t.arrived := by
  unfold Strand.setSreg; (repeat' split) <;> rfl
@[simp] theorem Strand.setSreg_acq (t : Strand) (r : Fin 32) (x : RegCell 64) : (t.setSreg r x).acq = t.acq := by
  unfold Strand.setSreg; (repeat' split) <;> rfl
@[simp] theorem Strand.setSreg_replay (t : Strand) (r : Fin 32) (x : RegCell 64) : (t.setSreg r x).replay = t.replay := by
  unfold Strand.setSreg; (repeat' split) <;> rfl
@[simp] theorem Strand.setSreg_faults (t : Strand) (r : Fin 32) (x : RegCell 64) : (t.setSreg r x).faults = t.faults := by
  unfold Strand.setSreg; (repeat' split) <;> rfl
@[simp] theorem Strand.setSreg_denied (t : Strand) (r : Fin 32) (x : RegCell 64) : (t.setSreg r x).denied = t.denied := by
  unfold Strand.setSreg; (repeat' split) <;> rfl
@[simp] theorem Strand.setSreg_wfaults (t : Strand) (r : Fin 32) (x : RegCell 64) : (t.setSreg r x).wfaults = t.wfaults := by
  unfold Strand.setSreg; (repeat' split) <;> rfl
@[simp] theorem Strand.setSreg_trap (t : Strand) (r : Fin 32) (x : RegCell 64) : (t.setSreg r x).trap = t.trap := by
  unfold Strand.setSreg; (repeat' split) <;> rfl
@[simp] theorem Strand.setSreg_handler (t : Strand) (r : Fin 32) (x : RegCell 64) : (t.setSreg r x).handler = t.handler := by
  unfold Strand.setSreg; (repeat' split) <;> rfl
@[simp] theorem Strand.setSreg_home (t : Strand) (r : Fin 32) (x : RegCell 64) : (t.setSreg r x).home = t.home := by
  unfold Strand.setSreg; (repeat' split) <;> rfl
@[simp] theorem Strand.setSreg_gslot (t : Strand) (r : Fin 32) (x : RegCell 64) : (t.setSreg r x).gslot = t.gslot := by
  unfold Strand.setSreg; (repeat' split) <;> rfl
@[simp] theorem Strand.setSreg_returning (t : Strand) (r : Fin 32) (x : RegCell 64) : (t.setSreg r x).returning = t.returning := by
  unfold Strand.setSreg; (repeat' split) <;> rfl
@[simp] theorem Strand.setSreg_start (t : Strand) (r : Fin 32) (x : RegCell 64) : (t.setSreg r x).start = t.start := by
  unfold Strand.setSreg; (repeat' split) <;> rfl
@[simp] theorem Strand.setSreg_preempt (t : Strand) (r : Fin 32) (x : RegCell 64) : (t.setSreg r x).preempt = t.preempt := by
  unfold Strand.setSreg; (repeat' split) <;> rfl
@[simp] theorem Strand.setSreg_saving (t : Strand) (r : Fin 32) (x : RegCell 64) : (t.setSreg r x).saving = t.saving := by
  unfold Strand.setSreg; (repeat' split) <;> rfl
@[simp] theorem Strand.setSreg_slot (t : Strand) (r : Fin 32) (x : RegCell 64) : (t.setSreg r x).slot = t.slot := by
  unfold Strand.setSreg; (repeat' split) <;> rfl
@[simp] theorem Strand.setSreg_mask (t : Strand) (r : Fin 32) (x : RegCell 64) : (t.setSreg r x).mask = t.mask := by
  unfold Strand.setSreg; (repeat' split) <;> rfl
@[simp] theorem Strand.setSreg_pos (t : Strand) (r : Fin 32) (x : RegCell 64) : (t.setSreg r x).pos = t.pos := by
  unfold Strand.setSreg; (repeat' split) <;> rfl
@[simp] theorem Strand.setSreg_barPos (t : Strand) (r : Fin 32) (x : RegCell 64) : (t.setSreg r x).barPos = t.barPos := by
  unfold Strand.setSreg; (repeat' split) <;> rfl
@[simp] theorem Strand.setSreg_accs (t : Strand) (r : Fin 32) (x : RegCell 64) : (t.setSreg r x).accs = t.accs := by
  unfold Strand.setSreg; (repeat' split) <;> rfl
@[simp] theorem Strand.setSreg_prio (t : Strand) (r : Fin 32) (x : RegCell 64) : (t.setSreg r x).prio = t.prio := by
  unfold Strand.setSreg; (repeat' split) <;> rfl
@[simp] theorem Strand.setSreg_ctl (t : Strand) (r : Fin 32) (x : RegCell 64) : (t.setSreg r x).ctl = t.ctl := by
  unfold Strand.setSreg; (repeat' split) <;> rfl
@[simp] theorem Strand.setSreg_lcore (t : Strand) (r : Fin 32) (x : RegCell 64) : (t.setSreg r x).lcore = t.lcore := by
  unfold Strand.setSreg; (repeat' split) <;> rfl
@[simp] theorem Strand.setSreg_part (t : Strand) (r : Fin 32) (x : RegCell 64) : (t.setSreg r x).part = t.part := by
  unfold Strand.setSreg; (repeat' split) <;> rfl
@[simp] theorem Strand.setSreg_startNo (t : Strand) (r : Fin 32) (x : RegCell 64) : (t.setSreg r x).startNo = t.startNo := by
  unfold Strand.setSreg; (repeat' split) <;> rfl
@[simp] theorem Strand.setSreg_born (t : Strand) (r : Fin 32) (x : RegCell 64) : (t.setSreg r x).born = t.born := by
  unfold Strand.setSreg; (repeat' split) <;> rfl
@[simp] theorem Strand.setSreg_mark (t : Strand) (r : Fin 32) (x : RegCell 64) : (t.setSreg r x).mark = t.mark := by
  unfold Strand.setSreg; (repeat' split) <;> rfl
@[simp] theorem Strand.setSreg_limit (t : Strand) (r : Fin 32) (x : RegCell 64) : (t.setSreg r x).limit = t.limit := by
  unfold Strand.setSreg; (repeat' split) <;> rfl
@[simp] theorem Strand.setSreg_seen (t : Strand) (r : Fin 32) (x : RegCell 64) : (t.setSreg r x).seen = t.seen := by
  unfold Strand.setSreg; (repeat' split) <;> rfl

/-! ### setVreg -/

@[simp] theorem Strand.setVreg_sid (t : Strand) (r : Fin 32) (x : RegCell 512) : (t.setVreg r x).sid = t.sid := rfl
@[simp] theorem Strand.setVreg_kind (t : Strand) (r : Fin 32) (x : RegCell 512) : (t.setVreg r x).kind = t.kind := rfl
@[simp] theorem Strand.setVreg_pc (t : Strand) (r : Fin 32) (x : RegCell 512) : (t.setVreg r x).pc = t.pc := rfl
@[simp] theorem Strand.setVreg_dom (t : Strand) (r : Fin 32) (x : RegCell 512) : (t.setVreg r x).dom = t.dom := rfl
@[simp] theorem Strand.setVreg_permit (t : Strand) (r : Fin 32) (x : RegCell 512) : (t.setVreg r x).permit = t.permit := rfl
@[simp] theorem Strand.setVreg_g (t : Strand) (r : Fin 32) (x : RegCell 512) : (t.setVreg r x).g = t.g := rfl
@[simp] theorem Strand.setVreg_o (t : Strand) (r : Fin 32) (x : RegCell 512) : (t.setVreg r x).o = t.o := rfl
@[simp] theorem Strand.setVreg_wins (t : Strand) (r : Fin 32) (x : RegCell 512) : (t.setVreg r x).wins = t.wins := rfl
@[simp] theorem Strand.setVreg_spillPend (t : Strand) (r : Fin 32) (x : RegCell 512) : (t.setVreg r x).spillPend = t.spillPend := rfl
@[simp] theorem Strand.setVreg_k (t : Strand) (r : Fin 32) (x : RegCell 512) : (t.setVreg r x).k = t.k := rfl
@[simp] theorem Strand.setVreg_mail (t : Strand) (r : Fin 32) (x : RegCell 512) : (t.setVreg r x).mail = t.mail := rfl
@[simp] theorem Strand.setVreg_staged (t : Strand) (r : Fin 32) (x : RegCell 512) : (t.setVreg r x).staged = t.staged := rfl
@[simp] theorem Strand.setVreg_frames (t : Strand) (r : Fin 32) (x : RegCell 512) : (t.setVreg r x).frames = t.frames := rfl
@[simp] theorem Strand.setVreg_recs (t : Strand) (r : Fin 32) (x : RegCell 512) : (t.setVreg r x).recs = t.recs := rfl
@[simp] theorem Strand.setVreg_depth (t : Strand) (r : Fin 32) (x : RegCell 512) : (t.setVreg r x).depth = t.depth := rfl
@[simp] theorem Strand.setVreg_store (t : Strand) (r : Fin 32) (x : RegCell 512) : (t.setVreg r x).store = t.store := rfl
@[simp] theorem Strand.setVreg_nx (t : Strand) (r : Fin 32) (x : RegCell 512) : (t.setVreg r x).nx = t.nx := rfl
@[simp] theorem Strand.setVreg_fflags (t : Strand) (r : Fin 32) (x : RegCell 512) : (t.setVreg r x).fflags = t.fflags := rfl
@[simp] theorem Strand.setVreg_strict (t : Strand) (r : Fin 32) (x : RegCell 512) : (t.setVreg r x).strict = t.strict := rfl
@[simp] theorem Strand.setVreg_vtime (t : Strand) (r : Fin 32) (x : RegCell 512) : (t.setVreg r x).vtime = t.vtime := rfl
@[simp] theorem Strand.setVreg_caller (t : Strand) (r : Fin 32) (x : RegCell 512) : (t.setVreg r x).caller = t.caller := rfl
@[simp] theorem Strand.setVreg_launch (t : Strand) (r : Fin 32) (x : RegCell 512) : (t.setVreg r x).launch = t.launch := rfl
@[simp] theorem Strand.setVreg_reject (t : Strand) (r : Fin 32) (x : RegCell 512) : (t.setVreg r x).reject = t.reject := rfl
@[simp] theorem Strand.setVreg_unack (t : Strand) (r : Fin 32) (x : RegCell 512) : (t.setVreg r x).unack = t.unack := rfl
@[simp] theorem Strand.setVreg_cap (t : Strand) (r : Fin 32) (x : RegCell 512) : (t.setVreg r x).cap = t.cap := rfl
@[simp] theorem Strand.setVreg_capId (t : Strand) (r : Fin 32) (x : RegCell 512) : (t.setVreg r x).capId = t.capId := rfl
@[simp] theorem Strand.setVreg_wsig (t : Strand) (r : Fin 32) (x : RegCell 512) : (t.setVreg r x).wsig = t.wsig := rfl
@[simp] theorem Strand.setVreg_lates (t : Strand) (r : Fin 32) (x : RegCell 512) : (t.setVreg r x).lates = t.lates := rfl
@[simp] theorem Strand.setVreg_cmds (t : Strand) (r : Fin 32) (x : RegCell 512) : (t.setVreg r x).cmds = t.cmds := rfl
@[simp] theorem Strand.setVreg_reports (t : Strand) (r : Fin 32) (x : RegCell 512) : (t.setVreg r x).reports = t.reports := rfl
@[simp] theorem Strand.setVreg_rem (t : Strand) (r : Fin 32) (x : RegCell 512) : (t.setVreg r x).rem = t.rem := rfl
@[simp] theorem Strand.setVreg_fail (t : Strand) (r : Fin 32) (x : RegCell 512) : (t.setVreg r x).fail = t.fail := rfl
@[simp] theorem Strand.setVreg_hold (t : Strand) (r : Fin 32) (x : RegCell 512) : (t.setVreg r x).hold = t.hold := rfl
@[simp] theorem Strand.setVreg_res (t : Strand) (r : Fin 32) (x : RegCell 512) : (t.setVreg r x).res = t.res := rfl
@[simp] theorem Strand.setVreg_arrived (t : Strand) (r : Fin 32) (x : RegCell 512) : (t.setVreg r x).arrived = t.arrived := rfl
@[simp] theorem Strand.setVreg_acq (t : Strand) (r : Fin 32) (x : RegCell 512) : (t.setVreg r x).acq = t.acq := rfl
@[simp] theorem Strand.setVreg_replay (t : Strand) (r : Fin 32) (x : RegCell 512) : (t.setVreg r x).replay = t.replay := rfl
@[simp] theorem Strand.setVreg_faults (t : Strand) (r : Fin 32) (x : RegCell 512) : (t.setVreg r x).faults = t.faults := rfl
@[simp] theorem Strand.setVreg_denied (t : Strand) (r : Fin 32) (x : RegCell 512) : (t.setVreg r x).denied = t.denied := rfl
@[simp] theorem Strand.setVreg_wfaults (t : Strand) (r : Fin 32) (x : RegCell 512) : (t.setVreg r x).wfaults = t.wfaults := rfl
@[simp] theorem Strand.setVreg_trap (t : Strand) (r : Fin 32) (x : RegCell 512) : (t.setVreg r x).trap = t.trap := rfl
@[simp] theorem Strand.setVreg_handler (t : Strand) (r : Fin 32) (x : RegCell 512) : (t.setVreg r x).handler = t.handler := rfl
@[simp] theorem Strand.setVreg_home (t : Strand) (r : Fin 32) (x : RegCell 512) : (t.setVreg r x).home = t.home := rfl
@[simp] theorem Strand.setVreg_gslot (t : Strand) (r : Fin 32) (x : RegCell 512) : (t.setVreg r x).gslot = t.gslot := rfl
@[simp] theorem Strand.setVreg_returning (t : Strand) (r : Fin 32) (x : RegCell 512) : (t.setVreg r x).returning = t.returning := rfl
@[simp] theorem Strand.setVreg_start (t : Strand) (r : Fin 32) (x : RegCell 512) : (t.setVreg r x).start = t.start := rfl
@[simp] theorem Strand.setVreg_preempt (t : Strand) (r : Fin 32) (x : RegCell 512) : (t.setVreg r x).preempt = t.preempt := rfl
@[simp] theorem Strand.setVreg_saving (t : Strand) (r : Fin 32) (x : RegCell 512) : (t.setVreg r x).saving = t.saving := rfl
@[simp] theorem Strand.setVreg_slot (t : Strand) (r : Fin 32) (x : RegCell 512) : (t.setVreg r x).slot = t.slot := rfl
@[simp] theorem Strand.setVreg_mask (t : Strand) (r : Fin 32) (x : RegCell 512) : (t.setVreg r x).mask = t.mask := rfl
@[simp] theorem Strand.setVreg_pos (t : Strand) (r : Fin 32) (x : RegCell 512) : (t.setVreg r x).pos = t.pos := rfl
@[simp] theorem Strand.setVreg_barPos (t : Strand) (r : Fin 32) (x : RegCell 512) : (t.setVreg r x).barPos = t.barPos := rfl
@[simp] theorem Strand.setVreg_accs (t : Strand) (r : Fin 32) (x : RegCell 512) : (t.setVreg r x).accs = t.accs := rfl
@[simp] theorem Strand.setVreg_prio (t : Strand) (r : Fin 32) (x : RegCell 512) : (t.setVreg r x).prio = t.prio := rfl
@[simp] theorem Strand.setVreg_ctl (t : Strand) (r : Fin 32) (x : RegCell 512) : (t.setVreg r x).ctl = t.ctl := rfl
@[simp] theorem Strand.setVreg_lcore (t : Strand) (r : Fin 32) (x : RegCell 512) : (t.setVreg r x).lcore = t.lcore := rfl
@[simp] theorem Strand.setVreg_part (t : Strand) (r : Fin 32) (x : RegCell 512) : (t.setVreg r x).part = t.part := rfl
@[simp] theorem Strand.setVreg_startNo (t : Strand) (r : Fin 32) (x : RegCell 512) : (t.setVreg r x).startNo = t.startNo := rfl
@[simp] theorem Strand.setVreg_born (t : Strand) (r : Fin 32) (x : RegCell 512) : (t.setVreg r x).born = t.born := rfl
@[simp] theorem Strand.setVreg_mark (t : Strand) (r : Fin 32) (x : RegCell 512) : (t.setVreg r x).mark = t.mark := rfl
@[simp] theorem Strand.setVreg_limit (t : Strand) (r : Fin 32) (x : RegCell 512) : (t.setVreg r x).limit = t.limit := rfl
@[simp] theorem Strand.setVreg_seen (t : Strand) (r : Fin 32) (x : RegCell 512) : (t.setVreg r x).seen = t.seen := rfl

/-! ### setKreg -/

@[simp] theorem Strand.setKreg_sid (t : Strand) (r : Fin 8) (x : RegCell 64) : (t.setKreg r x).sid = t.sid := by
  unfold Strand.setKreg; split <;> rfl
@[simp] theorem Strand.setKreg_kind (t : Strand) (r : Fin 8) (x : RegCell 64) : (t.setKreg r x).kind = t.kind := by
  unfold Strand.setKreg; split <;> rfl
@[simp] theorem Strand.setKreg_pc (t : Strand) (r : Fin 8) (x : RegCell 64) : (t.setKreg r x).pc = t.pc := by
  unfold Strand.setKreg; split <;> rfl
@[simp] theorem Strand.setKreg_dom (t : Strand) (r : Fin 8) (x : RegCell 64) : (t.setKreg r x).dom = t.dom := by
  unfold Strand.setKreg; split <;> rfl
@[simp] theorem Strand.setKreg_permit (t : Strand) (r : Fin 8) (x : RegCell 64) : (t.setKreg r x).permit = t.permit := by
  unfold Strand.setKreg; split <;> rfl
@[simp] theorem Strand.setKreg_g (t : Strand) (r : Fin 8) (x : RegCell 64) : (t.setKreg r x).g = t.g := by
  unfold Strand.setKreg; split <;> rfl
@[simp] theorem Strand.setKreg_o (t : Strand) (r : Fin 8) (x : RegCell 64) : (t.setKreg r x).o = t.o := by
  unfold Strand.setKreg; split <;> rfl
@[simp] theorem Strand.setKreg_wins (t : Strand) (r : Fin 8) (x : RegCell 64) : (t.setKreg r x).wins = t.wins := by
  unfold Strand.setKreg; split <;> rfl
@[simp] theorem Strand.setKreg_spillPend (t : Strand) (r : Fin 8) (x : RegCell 64) : (t.setKreg r x).spillPend = t.spillPend := by
  unfold Strand.setKreg; split <;> rfl
@[simp] theorem Strand.setKreg_v (t : Strand) (r : Fin 8) (x : RegCell 64) : (t.setKreg r x).v = t.v := by
  unfold Strand.setKreg; split <;> rfl
@[simp] theorem Strand.setKreg_mail (t : Strand) (r : Fin 8) (x : RegCell 64) : (t.setKreg r x).mail = t.mail := by
  unfold Strand.setKreg; split <;> rfl
@[simp] theorem Strand.setKreg_staged (t : Strand) (r : Fin 8) (x : RegCell 64) : (t.setKreg r x).staged = t.staged := by
  unfold Strand.setKreg; split <;> rfl
@[simp] theorem Strand.setKreg_frames (t : Strand) (r : Fin 8) (x : RegCell 64) : (t.setKreg r x).frames = t.frames := by
  unfold Strand.setKreg; split <;> rfl
@[simp] theorem Strand.setKreg_recs (t : Strand) (r : Fin 8) (x : RegCell 64) : (t.setKreg r x).recs = t.recs := by
  unfold Strand.setKreg; split <;> rfl
@[simp] theorem Strand.setKreg_depth (t : Strand) (r : Fin 8) (x : RegCell 64) : (t.setKreg r x).depth = t.depth := by
  unfold Strand.setKreg; split <;> rfl
@[simp] theorem Strand.setKreg_store (t : Strand) (r : Fin 8) (x : RegCell 64) : (t.setKreg r x).store = t.store := by
  unfold Strand.setKreg; split <;> rfl
@[simp] theorem Strand.setKreg_nx (t : Strand) (r : Fin 8) (x : RegCell 64) : (t.setKreg r x).nx = t.nx := by
  unfold Strand.setKreg; split <;> rfl
@[simp] theorem Strand.setKreg_fflags (t : Strand) (r : Fin 8) (x : RegCell 64) : (t.setKreg r x).fflags = t.fflags := by
  unfold Strand.setKreg; split <;> rfl
@[simp] theorem Strand.setKreg_strict (t : Strand) (r : Fin 8) (x : RegCell 64) : (t.setKreg r x).strict = t.strict := by
  unfold Strand.setKreg; split <;> rfl
@[simp] theorem Strand.setKreg_vtime (t : Strand) (r : Fin 8) (x : RegCell 64) : (t.setKreg r x).vtime = t.vtime := by
  unfold Strand.setKreg; split <;> rfl
@[simp] theorem Strand.setKreg_caller (t : Strand) (r : Fin 8) (x : RegCell 64) : (t.setKreg r x).caller = t.caller := by
  unfold Strand.setKreg; split <;> rfl
@[simp] theorem Strand.setKreg_launch (t : Strand) (r : Fin 8) (x : RegCell 64) : (t.setKreg r x).launch = t.launch := by
  unfold Strand.setKreg; split <;> rfl
@[simp] theorem Strand.setKreg_reject (t : Strand) (r : Fin 8) (x : RegCell 64) : (t.setKreg r x).reject = t.reject := by
  unfold Strand.setKreg; split <;> rfl
@[simp] theorem Strand.setKreg_unack (t : Strand) (r : Fin 8) (x : RegCell 64) : (t.setKreg r x).unack = t.unack := by
  unfold Strand.setKreg; split <;> rfl
@[simp] theorem Strand.setKreg_cap (t : Strand) (r : Fin 8) (x : RegCell 64) : (t.setKreg r x).cap = t.cap := by
  unfold Strand.setKreg; split <;> rfl
@[simp] theorem Strand.setKreg_capId (t : Strand) (r : Fin 8) (x : RegCell 64) : (t.setKreg r x).capId = t.capId := by
  unfold Strand.setKreg; split <;> rfl
@[simp] theorem Strand.setKreg_wsig (t : Strand) (r : Fin 8) (x : RegCell 64) : (t.setKreg r x).wsig = t.wsig := by
  unfold Strand.setKreg; split <;> rfl
@[simp] theorem Strand.setKreg_lates (t : Strand) (r : Fin 8) (x : RegCell 64) : (t.setKreg r x).lates = t.lates := by
  unfold Strand.setKreg; split <;> rfl
@[simp] theorem Strand.setKreg_cmds (t : Strand) (r : Fin 8) (x : RegCell 64) : (t.setKreg r x).cmds = t.cmds := by
  unfold Strand.setKreg; split <;> rfl
@[simp] theorem Strand.setKreg_reports (t : Strand) (r : Fin 8) (x : RegCell 64) : (t.setKreg r x).reports = t.reports := by
  unfold Strand.setKreg; split <;> rfl
@[simp] theorem Strand.setKreg_rem (t : Strand) (r : Fin 8) (x : RegCell 64) : (t.setKreg r x).rem = t.rem := by
  unfold Strand.setKreg; split <;> rfl
@[simp] theorem Strand.setKreg_fail (t : Strand) (r : Fin 8) (x : RegCell 64) : (t.setKreg r x).fail = t.fail := by
  unfold Strand.setKreg; split <;> rfl
@[simp] theorem Strand.setKreg_hold (t : Strand) (r : Fin 8) (x : RegCell 64) : (t.setKreg r x).hold = t.hold := by
  unfold Strand.setKreg; split <;> rfl
@[simp] theorem Strand.setKreg_res (t : Strand) (r : Fin 8) (x : RegCell 64) : (t.setKreg r x).res = t.res := by
  unfold Strand.setKreg; split <;> rfl
@[simp] theorem Strand.setKreg_arrived (t : Strand) (r : Fin 8) (x : RegCell 64) : (t.setKreg r x).arrived = t.arrived := by
  unfold Strand.setKreg; split <;> rfl
@[simp] theorem Strand.setKreg_acq (t : Strand) (r : Fin 8) (x : RegCell 64) : (t.setKreg r x).acq = t.acq := by
  unfold Strand.setKreg; split <;> rfl
@[simp] theorem Strand.setKreg_replay (t : Strand) (r : Fin 8) (x : RegCell 64) : (t.setKreg r x).replay = t.replay := by
  unfold Strand.setKreg; split <;> rfl
@[simp] theorem Strand.setKreg_faults (t : Strand) (r : Fin 8) (x : RegCell 64) : (t.setKreg r x).faults = t.faults := by
  unfold Strand.setKreg; split <;> rfl
@[simp] theorem Strand.setKreg_denied (t : Strand) (r : Fin 8) (x : RegCell 64) : (t.setKreg r x).denied = t.denied := by
  unfold Strand.setKreg; split <;> rfl
@[simp] theorem Strand.setKreg_wfaults (t : Strand) (r : Fin 8) (x : RegCell 64) : (t.setKreg r x).wfaults = t.wfaults := by
  unfold Strand.setKreg; split <;> rfl
@[simp] theorem Strand.setKreg_trap (t : Strand) (r : Fin 8) (x : RegCell 64) : (t.setKreg r x).trap = t.trap := by
  unfold Strand.setKreg; split <;> rfl
@[simp] theorem Strand.setKreg_handler (t : Strand) (r : Fin 8) (x : RegCell 64) : (t.setKreg r x).handler = t.handler := by
  unfold Strand.setKreg; split <;> rfl
@[simp] theorem Strand.setKreg_home (t : Strand) (r : Fin 8) (x : RegCell 64) : (t.setKreg r x).home = t.home := by
  unfold Strand.setKreg; split <;> rfl
@[simp] theorem Strand.setKreg_gslot (t : Strand) (r : Fin 8) (x : RegCell 64) : (t.setKreg r x).gslot = t.gslot := by
  unfold Strand.setKreg; split <;> rfl
@[simp] theorem Strand.setKreg_returning (t : Strand) (r : Fin 8) (x : RegCell 64) : (t.setKreg r x).returning = t.returning := by
  unfold Strand.setKreg; split <;> rfl
@[simp] theorem Strand.setKreg_start (t : Strand) (r : Fin 8) (x : RegCell 64) : (t.setKreg r x).start = t.start := by
  unfold Strand.setKreg; split <;> rfl
@[simp] theorem Strand.setKreg_preempt (t : Strand) (r : Fin 8) (x : RegCell 64) : (t.setKreg r x).preempt = t.preempt := by
  unfold Strand.setKreg; split <;> rfl
@[simp] theorem Strand.setKreg_saving (t : Strand) (r : Fin 8) (x : RegCell 64) : (t.setKreg r x).saving = t.saving := by
  unfold Strand.setKreg; split <;> rfl
@[simp] theorem Strand.setKreg_slot (t : Strand) (r : Fin 8) (x : RegCell 64) : (t.setKreg r x).slot = t.slot := by
  unfold Strand.setKreg; split <;> rfl
@[simp] theorem Strand.setKreg_mask (t : Strand) (r : Fin 8) (x : RegCell 64) : (t.setKreg r x).mask = t.mask := by
  unfold Strand.setKreg; split <;> rfl
@[simp] theorem Strand.setKreg_pos (t : Strand) (r : Fin 8) (x : RegCell 64) : (t.setKreg r x).pos = t.pos := by
  unfold Strand.setKreg; split <;> rfl
@[simp] theorem Strand.setKreg_barPos (t : Strand) (r : Fin 8) (x : RegCell 64) : (t.setKreg r x).barPos = t.barPos := by
  unfold Strand.setKreg; split <;> rfl
@[simp] theorem Strand.setKreg_accs (t : Strand) (r : Fin 8) (x : RegCell 64) : (t.setKreg r x).accs = t.accs := by
  unfold Strand.setKreg; split <;> rfl
@[simp] theorem Strand.setKreg_prio (t : Strand) (r : Fin 8) (x : RegCell 64) : (t.setKreg r x).prio = t.prio := by
  unfold Strand.setKreg; split <;> rfl
@[simp] theorem Strand.setKreg_ctl (t : Strand) (r : Fin 8) (x : RegCell 64) : (t.setKreg r x).ctl = t.ctl := by
  unfold Strand.setKreg; split <;> rfl
@[simp] theorem Strand.setKreg_lcore (t : Strand) (r : Fin 8) (x : RegCell 64) : (t.setKreg r x).lcore = t.lcore := by
  unfold Strand.setKreg; split <;> rfl
@[simp] theorem Strand.setKreg_part (t : Strand) (r : Fin 8) (x : RegCell 64) : (t.setKreg r x).part = t.part := by
  unfold Strand.setKreg; split <;> rfl
@[simp] theorem Strand.setKreg_startNo (t : Strand) (r : Fin 8) (x : RegCell 64) : (t.setKreg r x).startNo = t.startNo := by
  unfold Strand.setKreg; split <;> rfl
@[simp] theorem Strand.setKreg_born (t : Strand) (r : Fin 8) (x : RegCell 64) : (t.setKreg r x).born = t.born := by
  unfold Strand.setKreg; split <;> rfl
@[simp] theorem Strand.setKreg_mark (t : Strand) (r : Fin 8) (x : RegCell 64) : (t.setKreg r x).mark = t.mark := by
  unfold Strand.setKreg; split <;> rfl
@[simp] theorem Strand.setKreg_limit (t : Strand) (r : Fin 8) (x : RegCell 64) : (t.setKreg r x).limit = t.limit := by
  unfold Strand.setKreg; split <;> rfl
@[simp] theorem Strand.setKreg_seen (t : Strand) (r : Fin 8) (x : RegCell 64) : (t.setKreg r x).seen = t.seen := by
  unfold Strand.setKreg; split <;> rfl

/-! ### wrM -/

@[simp] theorem Strand.wrM_sid (t : Strand) (r : Fin 8) (x : Word) : (t.wrM r x).sid = t.sid := rfl
@[simp] theorem Strand.wrM_kind (t : Strand) (r : Fin 8) (x : Word) : (t.wrM r x).kind = t.kind := rfl
@[simp] theorem Strand.wrM_pc (t : Strand) (r : Fin 8) (x : Word) : (t.wrM r x).pc = t.pc := rfl
@[simp] theorem Strand.wrM_dom (t : Strand) (r : Fin 8) (x : Word) : (t.wrM r x).dom = t.dom := rfl
@[simp] theorem Strand.wrM_permit (t : Strand) (r : Fin 8) (x : Word) : (t.wrM r x).permit = t.permit := rfl
@[simp] theorem Strand.wrM_g (t : Strand) (r : Fin 8) (x : Word) : (t.wrM r x).g = t.g := rfl
@[simp] theorem Strand.wrM_o (t : Strand) (r : Fin 8) (x : Word) : (t.wrM r x).o = t.o := rfl
@[simp] theorem Strand.wrM_wins (t : Strand) (r : Fin 8) (x : Word) : (t.wrM r x).wins = t.wins := rfl
@[simp] theorem Strand.wrM_spillPend (t : Strand) (r : Fin 8) (x : Word) : (t.wrM r x).spillPend = t.spillPend := rfl
@[simp] theorem Strand.wrM_v (t : Strand) (r : Fin 8) (x : Word) : (t.wrM r x).v = t.v := rfl
@[simp] theorem Strand.wrM_k (t : Strand) (r : Fin 8) (x : Word) : (t.wrM r x).k = t.k := rfl
@[simp] theorem Strand.wrM_staged (t : Strand) (r : Fin 8) (x : Word) : (t.wrM r x).staged = t.staged := rfl
@[simp] theorem Strand.wrM_frames (t : Strand) (r : Fin 8) (x : Word) : (t.wrM r x).frames = t.frames := rfl
@[simp] theorem Strand.wrM_recs (t : Strand) (r : Fin 8) (x : Word) : (t.wrM r x).recs = t.recs := rfl
@[simp] theorem Strand.wrM_depth (t : Strand) (r : Fin 8) (x : Word) : (t.wrM r x).depth = t.depth := rfl
@[simp] theorem Strand.wrM_store (t : Strand) (r : Fin 8) (x : Word) : (t.wrM r x).store = t.store := rfl
@[simp] theorem Strand.wrM_nx (t : Strand) (r : Fin 8) (x : Word) : (t.wrM r x).nx = t.nx := rfl
@[simp] theorem Strand.wrM_fflags (t : Strand) (r : Fin 8) (x : Word) : (t.wrM r x).fflags = t.fflags := rfl
@[simp] theorem Strand.wrM_strict (t : Strand) (r : Fin 8) (x : Word) : (t.wrM r x).strict = t.strict := rfl
@[simp] theorem Strand.wrM_vtime (t : Strand) (r : Fin 8) (x : Word) : (t.wrM r x).vtime = t.vtime := rfl
@[simp] theorem Strand.wrM_caller (t : Strand) (r : Fin 8) (x : Word) : (t.wrM r x).caller = t.caller := rfl
@[simp] theorem Strand.wrM_launch (t : Strand) (r : Fin 8) (x : Word) : (t.wrM r x).launch = t.launch := rfl
@[simp] theorem Strand.wrM_reject (t : Strand) (r : Fin 8) (x : Word) : (t.wrM r x).reject = t.reject := rfl
@[simp] theorem Strand.wrM_unack (t : Strand) (r : Fin 8) (x : Word) : (t.wrM r x).unack = t.unack := rfl
@[simp] theorem Strand.wrM_cap (t : Strand) (r : Fin 8) (x : Word) : (t.wrM r x).cap = t.cap := rfl
@[simp] theorem Strand.wrM_capId (t : Strand) (r : Fin 8) (x : Word) : (t.wrM r x).capId = t.capId := rfl
@[simp] theorem Strand.wrM_wsig (t : Strand) (r : Fin 8) (x : Word) : (t.wrM r x).wsig = t.wsig := rfl
@[simp] theorem Strand.wrM_lates (t : Strand) (r : Fin 8) (x : Word) : (t.wrM r x).lates = t.lates := rfl
@[simp] theorem Strand.wrM_cmds (t : Strand) (r : Fin 8) (x : Word) : (t.wrM r x).cmds = t.cmds := rfl
@[simp] theorem Strand.wrM_reports (t : Strand) (r : Fin 8) (x : Word) : (t.wrM r x).reports = t.reports := rfl
@[simp] theorem Strand.wrM_rem (t : Strand) (r : Fin 8) (x : Word) : (t.wrM r x).rem = t.rem := rfl
@[simp] theorem Strand.wrM_fail (t : Strand) (r : Fin 8) (x : Word) : (t.wrM r x).fail = t.fail := rfl
@[simp] theorem Strand.wrM_hold (t : Strand) (r : Fin 8) (x : Word) : (t.wrM r x).hold = t.hold := rfl
@[simp] theorem Strand.wrM_res (t : Strand) (r : Fin 8) (x : Word) : (t.wrM r x).res = t.res := rfl
@[simp] theorem Strand.wrM_arrived (t : Strand) (r : Fin 8) (x : Word) : (t.wrM r x).arrived = t.arrived := rfl
@[simp] theorem Strand.wrM_acq (t : Strand) (r : Fin 8) (x : Word) : (t.wrM r x).acq = t.acq := rfl
@[simp] theorem Strand.wrM_replay (t : Strand) (r : Fin 8) (x : Word) : (t.wrM r x).replay = t.replay := rfl
@[simp] theorem Strand.wrM_faults (t : Strand) (r : Fin 8) (x : Word) : (t.wrM r x).faults = t.faults := rfl
@[simp] theorem Strand.wrM_denied (t : Strand) (r : Fin 8) (x : Word) : (t.wrM r x).denied = t.denied := rfl
@[simp] theorem Strand.wrM_wfaults (t : Strand) (r : Fin 8) (x : Word) : (t.wrM r x).wfaults = t.wfaults := rfl
@[simp] theorem Strand.wrM_trap (t : Strand) (r : Fin 8) (x : Word) : (t.wrM r x).trap = t.trap := rfl
@[simp] theorem Strand.wrM_handler (t : Strand) (r : Fin 8) (x : Word) : (t.wrM r x).handler = t.handler := rfl
@[simp] theorem Strand.wrM_home (t : Strand) (r : Fin 8) (x : Word) : (t.wrM r x).home = t.home := rfl
@[simp] theorem Strand.wrM_gslot (t : Strand) (r : Fin 8) (x : Word) : (t.wrM r x).gslot = t.gslot := rfl
@[simp] theorem Strand.wrM_returning (t : Strand) (r : Fin 8) (x : Word) : (t.wrM r x).returning = t.returning := rfl
@[simp] theorem Strand.wrM_start (t : Strand) (r : Fin 8) (x : Word) : (t.wrM r x).start = t.start := rfl
@[simp] theorem Strand.wrM_preempt (t : Strand) (r : Fin 8) (x : Word) : (t.wrM r x).preempt = t.preempt := rfl
@[simp] theorem Strand.wrM_saving (t : Strand) (r : Fin 8) (x : Word) : (t.wrM r x).saving = t.saving := rfl
@[simp] theorem Strand.wrM_slot (t : Strand) (r : Fin 8) (x : Word) : (t.wrM r x).slot = t.slot := rfl
@[simp] theorem Strand.wrM_mask (t : Strand) (r : Fin 8) (x : Word) : (t.wrM r x).mask = t.mask := rfl
@[simp] theorem Strand.wrM_pos (t : Strand) (r : Fin 8) (x : Word) : (t.wrM r x).pos = t.pos := rfl
@[simp] theorem Strand.wrM_barPos (t : Strand) (r : Fin 8) (x : Word) : (t.wrM r x).barPos = t.barPos := rfl
@[simp] theorem Strand.wrM_accs (t : Strand) (r : Fin 8) (x : Word) : (t.wrM r x).accs = t.accs := rfl
@[simp] theorem Strand.wrM_prio (t : Strand) (r : Fin 8) (x : Word) : (t.wrM r x).prio = t.prio := rfl
@[simp] theorem Strand.wrM_ctl (t : Strand) (r : Fin 8) (x : Word) : (t.wrM r x).ctl = t.ctl := rfl
@[simp] theorem Strand.wrM_lcore (t : Strand) (r : Fin 8) (x : Word) : (t.wrM r x).lcore = t.lcore := rfl
@[simp] theorem Strand.wrM_part (t : Strand) (r : Fin 8) (x : Word) : (t.wrM r x).part = t.part := rfl
@[simp] theorem Strand.wrM_startNo (t : Strand) (r : Fin 8) (x : Word) : (t.wrM r x).startNo = t.startNo := rfl
@[simp] theorem Strand.wrM_born (t : Strand) (r : Fin 8) (x : Word) : (t.wrM r x).born = t.born := rfl
@[simp] theorem Strand.wrM_mark (t : Strand) (r : Fin 8) (x : Word) : (t.wrM r x).mark = t.mark := rfl
@[simp] theorem Strand.wrM_limit (t : Strand) (r : Fin 8) (x : Word) : (t.wrM r x).limit = t.limit := rfl
@[simp] theorem Strand.wrM_seen (t : Strand) (r : Fin 8) (x : Word) : (t.wrM r x).seen = t.seen := rfl

/-! ### settle -/

@[simp] theorem Strand.settle_sid (t : Strand) : t.settle.sid = t.sid := rfl
@[simp] theorem Strand.settle_kind (t : Strand) : t.settle.kind = t.kind := rfl
@[simp] theorem Strand.settle_pc (t : Strand) : t.settle.pc = t.pc := rfl
@[simp] theorem Strand.settle_dom (t : Strand) : t.settle.dom = t.dom := rfl
@[simp] theorem Strand.settle_permit (t : Strand) : t.settle.permit = t.permit := rfl
@[simp] theorem Strand.settle_mail (t : Strand) : t.settle.mail = t.mail := rfl
@[simp] theorem Strand.settle_staged (t : Strand) : t.settle.staged = t.staged := rfl
@[simp] theorem Strand.settle_frames (t : Strand) : t.settle.frames = t.frames := rfl
@[simp] theorem Strand.settle_recs (t : Strand) : t.settle.recs = t.recs := rfl
@[simp] theorem Strand.settle_depth (t : Strand) : t.settle.depth = t.depth := rfl
@[simp] theorem Strand.settle_store (t : Strand) : t.settle.store = t.store := rfl
@[simp] theorem Strand.settle_nx (t : Strand) : t.settle.nx = t.nx := rfl
@[simp] theorem Strand.settle_fflags (t : Strand) : t.settle.fflags = t.fflags := rfl
@[simp] theorem Strand.settle_strict (t : Strand) : t.settle.strict = t.strict := rfl
@[simp] theorem Strand.settle_vtime (t : Strand) : t.settle.vtime = t.vtime := rfl
@[simp] theorem Strand.settle_caller (t : Strand) : t.settle.caller = t.caller := rfl
@[simp] theorem Strand.settle_launch (t : Strand) : t.settle.launch = t.launch := rfl
@[simp] theorem Strand.settle_reject (t : Strand) : t.settle.reject = t.reject := rfl
@[simp] theorem Strand.settle_unack (t : Strand) : t.settle.unack = t.unack := rfl
@[simp] theorem Strand.settle_cap (t : Strand) : t.settle.cap = t.cap := rfl
@[simp] theorem Strand.settle_capId (t : Strand) : t.settle.capId = t.capId := rfl
@[simp] theorem Strand.settle_wsig (t : Strand) : t.settle.wsig = t.wsig := rfl
@[simp] theorem Strand.settle_lates (t : Strand) : t.settle.lates = t.lates := rfl
@[simp] theorem Strand.settle_cmds (t : Strand) : t.settle.cmds = t.cmds := rfl
@[simp] theorem Strand.settle_reports (t : Strand) : t.settle.reports = t.reports := rfl
@[simp] theorem Strand.settle_rem (t : Strand) : t.settle.rem = t.rem := rfl
@[simp] theorem Strand.settle_fail (t : Strand) : t.settle.fail = t.fail := rfl
@[simp] theorem Strand.settle_hold (t : Strand) : t.settle.hold = t.hold := rfl
@[simp] theorem Strand.settle_res (t : Strand) : t.settle.res = t.res := rfl
@[simp] theorem Strand.settle_arrived (t : Strand) : t.settle.arrived = t.arrived := rfl
@[simp] theorem Strand.settle_acq (t : Strand) : t.settle.acq = t.acq := rfl
@[simp] theorem Strand.settle_replay (t : Strand) : t.settle.replay = t.replay := rfl
@[simp] theorem Strand.settle_faults (t : Strand) : t.settle.faults = t.faults := rfl
@[simp] theorem Strand.settle_denied (t : Strand) : t.settle.denied = t.denied := rfl
@[simp] theorem Strand.settle_wfaults (t : Strand) : t.settle.wfaults = t.wfaults := rfl
@[simp] theorem Strand.settle_trap (t : Strand) : t.settle.trap = t.trap := rfl
@[simp] theorem Strand.settle_handler (t : Strand) : t.settle.handler = t.handler := rfl
@[simp] theorem Strand.settle_home (t : Strand) : t.settle.home = t.home := rfl
@[simp] theorem Strand.settle_gslot (t : Strand) : t.settle.gslot = t.gslot := rfl
@[simp] theorem Strand.settle_returning (t : Strand) : t.settle.returning = t.returning := rfl
@[simp] theorem Strand.settle_start (t : Strand) : t.settle.start = t.start := rfl
@[simp] theorem Strand.settle_preempt (t : Strand) : t.settle.preempt = t.preempt := rfl
@[simp] theorem Strand.settle_saving (t : Strand) : t.settle.saving = t.saving := rfl
@[simp] theorem Strand.settle_slot (t : Strand) : t.settle.slot = t.slot := rfl
@[simp] theorem Strand.settle_mask (t : Strand) : t.settle.mask = t.mask := rfl
@[simp] theorem Strand.settle_pos (t : Strand) : t.settle.pos = t.pos := rfl
@[simp] theorem Strand.settle_barPos (t : Strand) : t.settle.barPos = t.barPos := rfl
@[simp] theorem Strand.settle_accs (t : Strand) : t.settle.accs = t.accs := rfl
@[simp] theorem Strand.settle_prio (t : Strand) : t.settle.prio = t.prio := rfl
@[simp] theorem Strand.settle_ctl (t : Strand) : t.settle.ctl = t.ctl := rfl
@[simp] theorem Strand.settle_lcore (t : Strand) : t.settle.lcore = t.lcore := rfl
@[simp] theorem Strand.settle_part (t : Strand) : t.settle.part = t.part := rfl
@[simp] theorem Strand.settle_startNo (t : Strand) : t.settle.startNo = t.startNo := rfl
@[simp] theorem Strand.settle_born (t : Strand) : t.settle.born = t.born := rfl
@[simp] theorem Strand.settle_mark (t : Strand) : t.settle.mark = t.mark := rfl
@[simp] theorem Strand.settle_limit (t : Strand) : t.settle.limit = t.limit := rfl
@[simp] theorem Strand.settle_seen (t : Strand) : t.settle.seen = t.seen := rfl

/-! ### free -/

@[simp] theorem Strand.free_sid (t : Strand) (r : Reg) : (t.free r).sid = t.sid := by
  cases r <;> simp [Strand.free]
@[simp] theorem Strand.free_kind (t : Strand) (r : Reg) : (t.free r).kind = t.kind := by
  cases r <;> simp [Strand.free]
@[simp] theorem Strand.free_pc (t : Strand) (r : Reg) : (t.free r).pc = t.pc := by
  cases r <;> simp [Strand.free]
@[simp] theorem Strand.free_dom (t : Strand) (r : Reg) : (t.free r).dom = t.dom := by
  cases r <;> simp [Strand.free]
@[simp] theorem Strand.free_permit (t : Strand) (r : Reg) : (t.free r).permit = t.permit := by
  cases r <;> simp [Strand.free]
@[simp] theorem Strand.free_spillPend (t : Strand) (r : Reg) : (t.free r).spillPend = t.spillPend := by
  cases r <;> simp [Strand.free]
@[simp] theorem Strand.free_staged (t : Strand) (r : Reg) : (t.free r).staged = t.staged := by
  cases r <;> simp [Strand.free]
@[simp] theorem Strand.free_frames (t : Strand) (r : Reg) : (t.free r).frames = t.frames := by
  cases r <;> simp [Strand.free]
@[simp] theorem Strand.free_recs (t : Strand) (r : Reg) : (t.free r).recs = t.recs := by
  cases r <;> simp [Strand.free]
@[simp] theorem Strand.free_depth (t : Strand) (r : Reg) : (t.free r).depth = t.depth := by
  cases r <;> simp [Strand.free]
@[simp] theorem Strand.free_store (t : Strand) (r : Reg) : (t.free r).store = t.store := by
  cases r <;> simp [Strand.free]
@[simp] theorem Strand.free_nx (t : Strand) (r : Reg) : (t.free r).nx = t.nx := by
  cases r <;> simp [Strand.free]
@[simp] theorem Strand.free_fflags (t : Strand) (r : Reg) : (t.free r).fflags = t.fflags := by
  cases r <;> simp [Strand.free]
@[simp] theorem Strand.free_strict (t : Strand) (r : Reg) : (t.free r).strict = t.strict := by
  cases r <;> simp [Strand.free]
@[simp] theorem Strand.free_vtime (t : Strand) (r : Reg) : (t.free r).vtime = t.vtime := by
  cases r <;> simp [Strand.free]
@[simp] theorem Strand.free_caller (t : Strand) (r : Reg) : (t.free r).caller = t.caller := by
  cases r <;> simp [Strand.free]
@[simp] theorem Strand.free_launch (t : Strand) (r : Reg) : (t.free r).launch = t.launch := by
  cases r <;> simp [Strand.free]
@[simp] theorem Strand.free_reject (t : Strand) (r : Reg) : (t.free r).reject = t.reject := by
  cases r <;> simp [Strand.free]
@[simp] theorem Strand.free_unack (t : Strand) (r : Reg) : (t.free r).unack = t.unack := by
  cases r <;> simp [Strand.free]
@[simp] theorem Strand.free_cap (t : Strand) (r : Reg) : (t.free r).cap = t.cap := by
  cases r <;> simp [Strand.free]
@[simp] theorem Strand.free_capId (t : Strand) (r : Reg) : (t.free r).capId = t.capId := by
  cases r <;> simp [Strand.free]
@[simp] theorem Strand.free_wsig (t : Strand) (r : Reg) : (t.free r).wsig = t.wsig := by
  cases r <;> simp [Strand.free]
@[simp] theorem Strand.free_lates (t : Strand) (r : Reg) : (t.free r).lates = t.lates := by
  cases r <;> simp [Strand.free]
@[simp] theorem Strand.free_cmds (t : Strand) (r : Reg) : (t.free r).cmds = t.cmds := by
  cases r <;> simp [Strand.free]
@[simp] theorem Strand.free_reports (t : Strand) (r : Reg) : (t.free r).reports = t.reports := by
  cases r <;> simp [Strand.free]
@[simp] theorem Strand.free_rem (t : Strand) (r : Reg) : (t.free r).rem = t.rem := by
  cases r <;> simp [Strand.free]
@[simp] theorem Strand.free_fail (t : Strand) (r : Reg) : (t.free r).fail = t.fail := by
  cases r <;> simp [Strand.free]
@[simp] theorem Strand.free_hold (t : Strand) (r : Reg) : (t.free r).hold = t.hold := by
  cases r <;> simp [Strand.free]
@[simp] theorem Strand.free_res (t : Strand) (r : Reg) : (t.free r).res = t.res := by
  cases r <;> simp [Strand.free]
@[simp] theorem Strand.free_arrived (t : Strand) (r : Reg) : (t.free r).arrived = t.arrived := by
  cases r <;> simp [Strand.free]
@[simp] theorem Strand.free_acq (t : Strand) (r : Reg) : (t.free r).acq = t.acq := by
  cases r <;> simp [Strand.free]
@[simp] theorem Strand.free_replay (t : Strand) (r : Reg) : (t.free r).replay = t.replay := by
  cases r <;> simp [Strand.free]
@[simp] theorem Strand.free_faults (t : Strand) (r : Reg) : (t.free r).faults = t.faults := by
  cases r <;> simp [Strand.free]
@[simp] theorem Strand.free_denied (t : Strand) (r : Reg) : (t.free r).denied = t.denied := by
  cases r <;> simp [Strand.free]
@[simp] theorem Strand.free_wfaults (t : Strand) (r : Reg) : (t.free r).wfaults = t.wfaults := by
  cases r <;> simp [Strand.free]
@[simp] theorem Strand.free_trap (t : Strand) (r : Reg) : (t.free r).trap = t.trap := by
  cases r <;> simp [Strand.free]
@[simp] theorem Strand.free_handler (t : Strand) (r : Reg) : (t.free r).handler = t.handler := by
  cases r <;> simp [Strand.free]
@[simp] theorem Strand.free_home (t : Strand) (r : Reg) : (t.free r).home = t.home := by
  cases r <;> simp [Strand.free]
@[simp] theorem Strand.free_gslot (t : Strand) (r : Reg) : (t.free r).gslot = t.gslot := by
  cases r <;> simp [Strand.free]
@[simp] theorem Strand.free_returning (t : Strand) (r : Reg) : (t.free r).returning = t.returning := by
  cases r <;> simp [Strand.free]
@[simp] theorem Strand.free_start (t : Strand) (r : Reg) : (t.free r).start = t.start := by
  cases r <;> simp [Strand.free]
@[simp] theorem Strand.free_preempt (t : Strand) (r : Reg) : (t.free r).preempt = t.preempt := by
  cases r <;> simp [Strand.free]
@[simp] theorem Strand.free_saving (t : Strand) (r : Reg) : (t.free r).saving = t.saving := by
  cases r <;> simp [Strand.free]
@[simp] theorem Strand.free_slot (t : Strand) (r : Reg) : (t.free r).slot = t.slot := by
  cases r <;> simp [Strand.free]
@[simp] theorem Strand.free_mask (t : Strand) (r : Reg) : (t.free r).mask = t.mask := by
  cases r <;> simp [Strand.free]
@[simp] theorem Strand.free_pos (t : Strand) (r : Reg) : (t.free r).pos = t.pos := by
  cases r <;> simp [Strand.free]
@[simp] theorem Strand.free_barPos (t : Strand) (r : Reg) : (t.free r).barPos = t.barPos := by
  cases r <;> simp [Strand.free]
@[simp] theorem Strand.free_accs (t : Strand) (r : Reg) : (t.free r).accs = t.accs := by
  cases r <;> simp [Strand.free]
@[simp] theorem Strand.free_prio (t : Strand) (r : Reg) : (t.free r).prio = t.prio := by
  cases r <;> simp [Strand.free]
@[simp] theorem Strand.free_ctl (t : Strand) (r : Reg) : (t.free r).ctl = t.ctl := by
  cases r <;> simp [Strand.free]
@[simp] theorem Strand.free_lcore (t : Strand) (r : Reg) : (t.free r).lcore = t.lcore := by
  cases r <;> simp [Strand.free]
@[simp] theorem Strand.free_part (t : Strand) (r : Reg) : (t.free r).part = t.part := by
  cases r <;> simp [Strand.free]
@[simp] theorem Strand.free_startNo (t : Strand) (r : Reg) : (t.free r).startNo = t.startNo := by
  cases r <;> simp [Strand.free]
@[simp] theorem Strand.free_born (t : Strand) (r : Reg) : (t.free r).born = t.born := by
  cases r <;> simp [Strand.free]
@[simp] theorem Strand.free_mark (t : Strand) (r : Reg) : (t.free r).mark = t.mark := by
  cases r <;> simp [Strand.free]
@[simp] theorem Strand.free_limit (t : Strand) (r : Reg) : (t.free r).limit = t.limit := by
  cases r <;> simp [Strand.free]
@[simp] theorem Strand.free_seen (t : Strand) (r : Reg) : (t.free r).seen = t.seen := by
  cases r <;> simp [Strand.free]

/-! ### The common part of an instruction -/

/-- Everything that an instruction can do: it finds no strand and is the model's fault; or it stops, with the strand at its own
address; or its own meaning completes, and the strand retires. -/
theorem issue_cases {o : Op} {body : Env → Res} {s : State} :
    (s.strand s.cur = none ∧ issue o body s = .fault .noStrand) ∨
    (∃ t x, s.strand s.cur = some t ∧ prep o s.taken s.cur t = .error x ∧
      issue o body s = .next (s.taken.stopped s.cur t (o.h.after o.len) x)) ∨
    (∃ t e x, s.strand s.cur = some t ∧ prep o s.taken s.cur t = .ok e ∧ body e = .error x ∧
      issue o body s = .next (s.taken.stopped s.cur t (o.h.after o.len) (x.issued (s.lineAt s.cur t)))) ∨
    (∃ t e s1 t1 g, s.strand s.cur = some t ∧ prep o s.taken s.cur t = .ok e ∧ body e = .ok (s1, t1, g) ∧
      issue o body s = .next (s1.retire s.cur o.h t1 g (o.h.after o.len))) := by
  cases hs : s.strand s.cur with
  | none => exact .inl ⟨rfl, by unfold issue; show (match s.strand s.cur with | none => _ | some o' => _) = _; rw [hs]⟩
  | some t =>
    refine .inr ?_
    cases hp : prep o s.taken s.cur t with
    | error x =>
      refine .inl ⟨t, x, rfl, hp, ?_⟩
      unfold issue
      show (match s.strand s.cur with | none => _ | some o' => _) = _
      rw [hs]
      show Host.Outcome.next (match prep o s.taken s.cur t with | .error x => _ | .ok e => _) = _
      rw [hp]; rfl
    | ok e =>
      refine .inr ?_
      cases hb : body e with
      | error x =>
        refine .inl ⟨t, e, x, rfl, hp, hb, ?_⟩
        unfold issue
        show (match s.strand s.cur with | none => _ | some o' => _) = _
        rw [hs]
        show Host.Outcome.next (match prep o s.taken s.cur t with | .error x => _ | .ok e => _) = _
        rw [hp]; simp only [hb]; rfl
      | ok r =>
        obtain ⟨s1, t1, g⟩ := r
        refine .inr ⟨t, e, s1, t1, g, rfl, hp, hb, ?_⟩
        unfold issue
        show (match s.strand s.cur with | none => _ | some o' => _) = _
        rw [hs]
        show Host.Outcome.next (match prep o s.taken s.cur t with | .error x => _ | .ok e => _) = _
        rw [hp]; simp only [hb]

/-- An instruction never refuses. -/
theorem issue_not_refused {o : Op} {body : Env → Res} {s : State} {r : Refusal} : issue o body s ≠ .refused r := by
  rcases issue_cases (o := o) (body := body) (s := s) with ⟨_, h⟩ | ⟨t, x, _, _, h⟩ | ⟨t, e, x, _, _, _, h⟩ | ⟨t, e, s1, t1, g, _, _, _, h⟩ <;>
    rw [h] <;> simp

/-- An instruction completes or stops wherever its context holds a strand. -/
theorem issue_next {o : Op} {body : Env → Res} {s : State} {t : Strand} (h : s.strand s.cur = some t) :
    ∃ s', issue o body s = .next s' := by
  rcases issue_cases (o := o) (body := body) (s := s) with ⟨hn, _⟩ | ⟨t, x, _, _, h⟩ | ⟨t, e, x, _, _, _, h⟩ | ⟨t, e, s1, t1, g, _, _, _, h⟩
  · rw [h] at hn; cases hn
  all_goals exact ⟨_, h⟩

/-! ### The canonical form under shared operations -/

theorem State.canonical_modSid {s : State} (h : s.canonical = true) (sid : Nat) (f : Strand → Strand) : (s.modSid sid f).canonical = true := by
  unfold State.modSid
  split
  · exact State.canonical_setStrand h _ _
  · exact h

theorem State.canonical_ackFlight {s : State} (h : s.canonical = true) (id sid r : Nat) (fl : Option (Nat × Word × Nat)) :
    (s.ackFlight id sid r fl).canonical = true := by
  unfold State.ackFlight
  exact State.canonical_of_eq h rfl rfl rfl

theorem State.canonical_send {s : State} (h : s.canonical = true) (f : Flight) : (s.send f).canonical = true := by
  unfold State.send
  exact State.canonical_of_eq h rfl rfl rfl

theorem State.canonical_retire {s : State} (h : s.canonical = true) (c : CtxRef) (hd : Hd) (t : Strand) (g : Go) (len : Nat) :
    (s.retire c hd t g len).canonical = true := by
  unfold State.retire
  split
  · exact h
  · exact State.canonical_setStrand h _ _

end Sys2Proof.Machine
end

