-- ==== Sys2Proof/Tests/Slice0.lean ====
section
/-! SUPPORT. The model's own tests: ill-formed terms that WellFormed refuses, words written out from the encoding tables of the spec, one
step of the spec's worked examples, and for each statement concrete states and operands that meet its hypotheses. -/
open Sys2Proof Sys2Proof.Machine
namespace Sys2Proof.Tests
set_option Elab.async false

/-! ### Small states and operands -/

def h0 : Hd := ⟨false, none⟩
def s (n : Fin 32) : SSrc := ⟨n, false⟩
def sK (n : Fin 32) : SSrc := ⟨n, true⟩
def v (n : Fin 32) : VSrc := ⟨n, false⟩
def vK (n : Fin 32) : VSrc := ⟨n, true⟩
def k (n : Fin 8) : KSrc := ⟨n, false⟩

/-- A leaf of a present page of domain 0 with every right. -/
def leafTo (pa : Nat) : Leaf := ⟨pa, 0, 0, false, true, true, true, true, true, true, true⟩

/-- A launch packet of kind 1 with N = 4, PRIO 3 and every barrier. -/
def packet0 : Packet :=
  ⟨1, false, false, true, false, 3, 0x10000, 0x20100, 4, #v[1, 0, 0, 0], 1, 4, 0, 1, 0x3F, 0, 1, (0, 0), (0, 0), 0, 0⟩

/-- Launch 1 of partition 0 on cores 0 and 1. -/
def launch0 : Launch := ⟨1, 0, 0, packet0, [(0, 0), (1, 1)], 0, [], 0, 7, false⟩

def window0 : Window := ⟨.replicate 8 (.of 0), .replicate 8 (.of 0)⟩

/-- A record strand of launch 1 at 0x10000, with two resident windows, a launch position and four accumulators. -/
def strand0 : Strand :=
  { Strand.blank 50 .record 0x10000 with
    start := none, permit := true, launch := 1, wins := [window0, window0], depth := 1, barPos := true, pos := some 0, accs := [0, 1, 2, 3] }

/-- A strand with registers set. -/
def regs (t : Strand) (l : List (Fin 32 × Word)) : Strand := l.foldl (fun t e => t.wrS e.1 e.2) t

def lineIn : LineMeta := ⟨some 0, false, false, .clear, none⟩

/-- Core 0 issues t; pages 1 to 5 map to themselves; sixteen lines from 0x20000 and sixteen from 0x40000 are in the L2. -/
def world (t : Strand) : State :=
  { State.reset with
    ready := true, phase := 5, plimit := 1000, issuing := true, cur := ⟨.core 0, 0⟩, nextId := 100
    units := [(0, { CoreUnit.reset with en := true, strands := [(0, t)], wbs := 0x40000 }), (1, { CoreUnit.reset with en := true })]
    tlb := [1, 2, 3, 4, 5].map fun v => ⟨0, 0, v, 1, [], leafTo (65536 * v)⟩
    lines := ((List.range 16).map fun i => (0x400 + i, lineIn)) ++ ((List.range 16).map fun i => (0x800 + i, lineIn))
    parts := [(0, { Part.reset with mode := 1, mapbase := 0x8000 })], launches := [(1, launch0)]
    tiles := [(0, { Tile.reset with trapbase := 0x50000 })] }

/-- The same with a change to core 0. -/
def worldIn (t : Strand) (f : CoreUnit → CoreUnit) : State := (world t).modUnit (.core 0) f

/-- Eight bytes at an address of device memory. -/
def poke (s : State) (a n x : Nat) : State := { s with mem := Memory.writeN s.mem a n x }

/-! ### Ill-formed terms -/

/-- R224, R107: class 3. -/
theorem test_wf_refuses_class3 :
    Instr.wf (.ld h0 .d true false .core 1 ⟨s 2, .imm 0⟩) = false ∧ Instr.wf (.ldf h0 .d true false .core 1 ⟨s 2, .imm 0⟩) = false ∧
    Instr.wf (.fence h0 .plain .sys) = false ∧ Instr.wf (.ifence h0 .sys) = false := by decide +kernel

/-- R183: an element type outside each opcode's subset. -/
theorem test_wf_refuses_types :
    Instr.wf (.vld h0 .e2m1 0 1 ⟨s 2, .imm 0⟩) = false ∧ Instr.wf (.vst h0 .e2m1 0 ⟨s 2, .imm 0⟩ (v 1)) = false ∧
    Instr.wf (.vlds h0 .e2m1 0 1 ⟨s 2, .imm 0⟩) = false ∧ Instr.wf (.vsts h0 .e2m1 0 ⟨s 2, .imm 0⟩ (v 1)) = false ∧
    Instr.wf (.vgath h0 .i8 0 1 (s 2) (v 3) 0) = false ∧ Instr.wf (.vscat h0 .f16 0 (s 2) (v 3) (v 4) 0) = false ∧
    Instr.wf (.vadd h0 .e4m3 0 1 (v 2) (v 3)) = false ∧ Instr.wf (.vsub h0 .e5m2 0 1 (v 2) (v 3)) = false ∧
    Instr.wf (.vmul h0 .e2m1 0 1 (v 2) (v 3)) = false ∧ Instr.wf (.vfma h0 .e4m3 0 1 (v 2) (v 3) (v 4)) = false ∧
    Instr.wf (.vdiv h0 .i32 0 1 (v 2) (v 3)) = false ∧ Instr.wf (.vsqrt h0 .i64 0 1 (v 2)) = false ∧
    Instr.wf (.vabs h0 .e4m3 0 1 (v 2)) = false ∧ Instr.wf (.vneg h0 .e5m2 0 1 (v 2)) = false := by decide +kernel

/-- R183–R187: the same for the integer operations, the moves and the reductions; an unsigned minimum of floats. -/
theorem test_wf_refuses_more_types :
    Instr.wf (.vmin h0 .f32 0 true 1 (v 2) (v 3)) = false ∧ Instr.wf (.vmax h0 .e4m3 0 false 1 (v 2) (v 3)) = false ∧
    Instr.wf (.vand h0 .f32 0 1 (v 2) (v 3)) = false ∧ Instr.wf (.vor h0 .f16 0 1 (v 2) (v 3)) = false ∧
    Instr.wf (.vxor h0 .e4m3 0 1 (v 2) (v 3)) = false ∧ Instr.wf (.vshl h0 .f64 0 1 (v 2) (.imm 1)) = false ∧
    Instr.wf (.vshr h0 .bf16 0 1 (v 2) (.imm 1)) = false ∧ Instr.wf (.vsar h0 .f32 0 1 (v 2) (.imm 1)) = false ∧
    Instr.wf (.vsel h0 .e2m1 0 1 (v 2) (v 3) (k 4)) = false ∧ Instr.wf (.vbcast h0 .e2m1 0 1 (s 2)) = false ∧
    Instr.wf (.vext h0 .e2m1 1 (v 2) (.imm 0)) = false ∧ Instr.wf (.vins h0 .e2m1 1 (s 2) (.imm 0)) = false ∧
    Instr.wf (.vperm h0 .e2m1 0 1 (v 2) (v 3)) = false ∧ Instr.wf (.vred h0 .e2m1 0 .add 1 (v 2)) = false := by decide +kernel

/-- R185, R188–R190: conditions, conversions, quantisation, mask instructions. -/
theorem test_wf_refuses_vector_forms :
    Instr.wf (.vcmp h0 .i8 0 6 1 (v 2) (v 3)) = false ∧ Instr.wf (.vcmp h0 .f32 0 5 1 (v 2) (v 3)) = false ∧
    Instr.wf (.vcvt h0 .e2m1 0 6 .rne false 0 1 (v 2)) = false ∧ Instr.wf (.vcvt h0 .f32 0 8 .rne false 4 1 (v 2)) = false ∧
    Instr.wf (.vcvt h0 .f32 0 12 .rne false 0 1 (v 2)) = false ∧ Instr.wf (.vcvt h0 .f16 0 11 .rne false 0 1 (v 2)) = false ∧
    Instr.wf (.vcvt h0 .i8 0 10 .rne false 0 1 (v 2)) = false ∧ Instr.wf (.vqntScaled h0 .f32 0 .rne false 0 1 (v 2) (s 3)) = false ∧
    Instr.wf (.kop h0 .or 1 (k 2) none) = false ∧ Instr.wf (.kmov h0 (.s 1) (.s (s 2))) = false ∧
    Instr.wf (.viota h0 .f32 0 (.v 1)) = false ∧ Instr.wf (.viota h0 .e2m1 0 (.k 1)) = false := by decide +kernel

/-- R247, R289, R337, R131, R132: classes 5, 6 and 7. -/
theorem test_wf_refuses_classes_5_to_7 :
    Instr.wf (.mma h0 .f16 true 0 (s 1) (s 2) 0 0) = false ∧ Instr.wf (.msta h0 .f32 true 0 (s 1) none 0) = false ∧
    Instr.wf (.msta h0 .bx4 false 0 (s 1) none 0) = false ∧ Instr.wf (.msta h0 .f32 false 0 (s 1) (some (s 2)) 0) = false ∧
    Instr.wf (.mova h0 1 0 (.imm 64)) = false ∧ Instr.wf (.cpy2 h0 0 1 (s 2) (s 3) (s 4) (s 5) 0) = false ∧
    Instr.wf (.cpyg h0 0 1 (s 2) (s 3) (s 4) (s 5) 0) = false ∧ Instr.wf (.barw h0 .tile 1 (.imm 0x800)) = false ∧
    Instr.wf (.waitf h0 1 (s 2) (.imm 0xFFF)) = false ∧ Instr.wf (.vtadv h0 (.imm 0x800)) = false ∧ Instr.wf (.cget h0 1 (.imm 32)) = false ∧
    Instr.wf (.idle h0 1 (.imm 0x800)) = false ∧ Instr.wf (.resume h0 (s 1) (.imm 2)) = false ∧ Instr.wf (.mfc h0 1 0x007) = false ∧
    Instr.wf (.mtc h0 (s 1) 0x10D) = false ∧ Instr.wf (.mtc h0 (s 1) 0x00B) = false := by decide +kernel

/-- Events whose numbers the part does not have. -/
theorem test_wf_refuses_events :
    Instr.wf (.issueSelect (.core 1024)) = false ∧ Instr.wf (.contextTakesWork ⟨.core 0, 8⟩) = false ∧
    Instr.wf (.contextTakesWork ⟨.kp 31, 20⟩) = false ∧ Instr.wf (.notifyWrite (.host 64) 0) = false ∧
    Instr.wf (.notifyWrite (.door 64) 0) = false ∧ Instr.wf (.dependenceEval 64) = false ∧ Instr.wf (.coretagWrite 1024 0) = false ∧
    Instr.wf (.kptagWrite 32 0) = false ∧ Instr.wf (.lnresv 64 0) = false ∧ Instr.wf (.replicaEpoch 4) = false ∧
    Instr.wf (.tenctlRun 64) = false ∧ Instr.wf (.keyRetire 64) = false ∧ Instr.wf (.vfReset 0) = false := by decide +kernel

/-! ### Words -/

/-- `nop`; `.live o0, i6, i7`; `br.geu l2!, l3, +8`; `bri.eq g1, -1, -4`; `bk.none k1, k2!, +4`; `jmp +64`; `jmpr i7, -8`; `call +4`; `callr l0, 2047`; `ret`; `xcall -4`; `xcallr o1!`. -/
theorem test_decode_class0_a :
    decodeTableWord 64 0x0 = some (.nop h0) ∧
    decodeTableWord 64 0x300000403 = some (.liveMaskWord 0xC0000100) ∧
    decodeTableWord 64 0x20401324014010 = some (.br h0 .geu (sK 18) (s 19) 2) ∧
    decodeTableWord 96 0xFFFFFFFFFFF0007F02000021 = some (.bri h0 .eq (s 1) 0xFFF 0xFFFFFFFF) ∧
    decodeTableWord 64 0x10804282008030 = some (.bk h0 .none (k 1) ⟨2, true⟩ 1) ∧
    decodeTableWord 96 0x100000000000000041 = some (.jmp h0 16) ∧
    decodeTableWord 64 0xFF8000003E000050 = some (.jmpr h0 (s 31) 0xFF8) ∧
    decodeTableWord 96 0x10000000000000061 = some (.call h0 1) ∧
    decodeTableWord 64 0x7FF0000020000070 = some (.callr h0 (s 16) 0x7FF) ∧
    decodeTableWord 64 0x80 = some (.ret h0) ∧
    decodeTableWord 96 0xFFFFFFFF0000000000000091 = some (.xcall h0 0xFFFFFFFF) ∧
    decodeTableWord 64 0x4000120000A0 = some (.xcallr h0 (sK 9) 0) := by decide +kernel

/-- `xret`; `gate`; `ends, W = 1`; `yield l1, -1`; `trap 7`; `svc -2`; `bkpt 1`; `graft h3, g1, g2!, rw`. -/
theorem test_decode_class0_b :
    decodeTableWord 64 0xB0 = some (.xret h0) ∧
    decodeTableWord 64 0xC0 = some (.gate h0) ∧
    decodeTableWord 64 0xD4 = some (.ends ⟨true, none⟩) ∧
    decodeTableWord 64 0xFFF0007F220000E0 = some (.yield h0 (s 17) (.imm 0xFFF)) ∧
    decodeTableWord 64 0x700000000000F0 = some (.trap h0 7) ∧
    decodeTableWord 64 0xFFE0000000000100 = some (.svc h0 0xFFE) ∧
    decodeTableWord 64 0x10000000000110 = some (.bkpt h0 1) ∧
    decodeTableWord 64 0x308002036C0120 = some (.graft h0 3 (s 1) (sK 2) 3) := by decide +kernel

/-- `add.w l1, l2!, m3`; `sub m0, g5, -7`; `mul o7, m7, i1!`; `mulh.w l1, l2!, m3`; `mulhu m0, g5, -7`; `div o7, m7, i1!`; `divu.w l1, l2!, m3`; `rem m0, g5, -7`; `remu o7, m7, i1!`; `and.w l1, l2!, m3`; `or m0, g5, -7`; `xor o7, m7, i1!`. -/
theorem test_decode_class1_a :
    decodeTableWord 64 0x405324444800 = some (.add h0 true (.s 17) (.s 18 true) (.reg (.m 3))) ∧
    decodeTableWord 64 0xFF90007F0B400810 = some (.sub h0 false (.m 0) (.s 5 false) (.imm 0xFF9)) ∧
    decodeTableWord 64 0x8019AE3C0820 = some (.mul h0 false (.s 15) (.m 7) (.reg (.s 25 true))) ∧
    decodeTableWord 64 0x405324444830 = some (.mulh h0 true (.s 17) (.s 18 true) (.reg (.m 3))) ∧
    decodeTableWord 64 0xFF90007F0B400840 = some (.mulhu h0 false (.m 0) (.s 5 false) (.imm 0xFF9)) ∧
    decodeTableWord 64 0x8019AE3C0850 = some (.div h0 false (.s 15) (.m 7) (.reg (.s 25 true))) ∧
    decodeTableWord 64 0x405324444860 = some (.divu h0 true (.s 17) (.s 18 true) (.reg (.m 3))) ∧
    decodeTableWord 64 0xFF90007F0B400870 = some (.rem h0 false (.m 0) (.s 5 false) (.imm 0xFF9)) ∧
    decodeTableWord 64 0x8019AE3C0880 = some (.remu h0 false (.s 15) (.m 7) (.reg (.s 25 true))) ∧
    decodeTableWord 64 0x405324444890 = some (.and h0 true (.s 17) (.s 18 true) (.reg (.m 3))) ∧
    decodeTableWord 64 0xFF90007F0B4008A0 = some (.or h0 false (.m 0) (.s 5 false) (.imm 0xFF9)) ∧
    decodeTableWord 64 0x8019AE3C08B0 = some (.xor h0 false (.s 15) (.m 7) (.reg (.s 25 true))) := by decide +kernel

/-- `andn.w l1, l2!, m3`; `shl m0, g5, -7`; `shr o7, m7, i1!`; `sar.w l1, l2!, m3`; `rol m0, g5, -7`; `min o7, m7, i1!`; `max.w l1, l2!, m3`; `minu m0, g5, -7`; `maxu o7, m7, i1!`; `set.ltu.w g3, l0, 9`; `sel g1, g2, g3, g4!`; `clz g1, g2`. -/
theorem test_decode_class1_b :
    decodeTableWord 64 0x4053244448C0 = some (.andn h0 true (.s 17) (.s 18 true) (.reg (.m 3))) ∧
    decodeTableWord 64 0xFF90007F0B4008D0 = some (.shl h0 false (.m 0) (.s 5 false) (.imm 0xFF9)) ∧
    decodeTableWord 64 0x8019AE3C08E0 = some (.shr h0 false (.s 15) (.m 7) (.reg (.s 25 true))) ∧
    decodeTableWord 64 0x4053244448F0 = some (.sar h0 true (.s 17) (.s 18 true) (.reg (.m 3))) ∧
    decodeTableWord 64 0xFF90007F0B400900 = some (.rol h0 false (.m 0) (.s 5 false) (.imm 0xFF9)) ∧
    decodeTableWord 64 0x8019AE3C0910 = some (.min h0 false (.s 15) (.m 7) (.reg (.s 25 true))) ∧
    decodeTableWord 64 0x405324444920 = some (.max h0 true (.s 17) (.s 18 true) (.reg (.m 3))) ∧
    decodeTableWord 64 0xFF90007F0B400930 = some (.minu h0 false (.m 0) (.s 5 false) (.imm 0xFF9)) ∧
    decodeTableWord 64 0x8019AE3C0940 = some (.maxu h0 false (.s 15) (.m 7) (.reg (.s 25 true))) ∧
    decodeTableWord 64 0x90007F200E4950 = some (.set h0 .ltu true (.s 3) (.s 16 false) (.imm 9)) ∧
    decodeTableWord 64 0x1020304040960 = some (.sel h0 false (.s 1) (.s 2 false) (.reg (.s 3 false)) (sK 4)) ∧
    decodeTableWord 64 0x4040970 = some (.clz h0 false (.s 1) (.s 2 false)) := by decide +kernel

/-- `ctz.w m1, g2!`; `popc g1, m2`; `ext l1, l2, 8, 12`; `extu.w l1, l2, g3`; `ins g1, g2, 0, 64, g3`; `lea g1, g2, m3, 7`; `li m2, -1`; `li.x g7, 2^63`; `bswap.w g1, g2`. -/
theorem test_decode_class1_c :
    decodeTableWord 64 0x400005444980 = some (.ctz h0 true (.m 1) (.s 2 true)) ∧
    decodeTableWord 64 0xA4040990 = some (.popc h0 false (.s 1) (.m 2)) ∧
    decodeTableWord 64 0x2C80007F244409A0 = some (.ext h0 false (.s 17) (.s 18 false) (.imm 0x2C8)) ∧
    decodeTableWord 64 0x3244449B0 = some (.extu h0 true (.s 17) (.s 18 false) (.reg (.s 3 false))) ∧
    decodeTableWord 64 0xFC0001FF040409C0 = some (.ins h0 false (.s 1) (.s 2 false) (.imm 0xFC0) (s 3)) ∧
    decodeTableWord 64 0x700053040409D0 = some (.lea h0 (.s 1) (.s 2 false) (.m 3) 7) ∧
    decodeTableWord 96 0xFFFFFFFF00000000014809E1 = some (.li h0 (.m 2) 0xFFFFFFFF) ∧
    decodeTableWord 128 0x800000000000000000000000001C09E2 = some (.liX h0 (.s 7) 0x8000000000000000) ∧
    decodeTableWord 64 0x40449F0 = some (.bswap h0 true (.s 1) (.s 2 false)) := by decide +kernel

/-- `fadd.f64.rne`; `fsub.f32.rtz`; `fmul.f16.rdn`; `fma.f32.rtz l1, l2, l3, l4`; `fnms.bf16.rup`; `fdiv.f16`; `fsqrt.f64.rup`; `fmin.f32`; `fmax.f16`; `fabs.bf16`; `fneg.f64`; `fset.ne.f32`. -/
theorem test_decode_class2_a :
    decodeTableWord 64 0x304041000 = some (.fadd h0 .f64 .rne 1 (s 2) (s 3)) ∧
    decodeTableWord 64 0x800304055010 = some (.fsub h0 .f32 .rtz 1 (s 2) (sK 3)) ∧
    decodeTableWord 64 0x304069020 = some (.fmul h0 .f16 .rdn 1 (s 2) (s 3)) ∧
    decodeTableWord 64 0xA1324455030 = some (.fma h0 .f32 .rtz 17 (s 18) (s 19) (s 20)) ∧
    decodeTableWord 64 0x142030407D040 = some (.fnms h0 .bf16 .rup 1 (sK 2) (s 3) (sK 4)) ∧
    decodeTableWord 64 0x304049050 = some (.fdiv h0 .f16 .rne 1 (s 2) (s 3)) ∧
    decodeTableWord 64 0x4071060 = some (.fsqrt h0 .f64 .rup 1 (s 2)) ∧
    decodeTableWord 64 0x304045070 = some (.fmin h0 .f32 1 (s 2) (s 3)) ∧
    decodeTableWord 64 0x304049080 = some (.fmax h0 .f16 1 (s 2) (s 3)) ∧
    decodeTableWord 64 0x404D090 = some (.fabs h0 .bf16 1 (s 2)) ∧
    decodeTableWord 64 0x40410A0 = some (.fneg h0 .f64 1 (s 2)) ∧
    decodeTableWord 64 0x400003040450B0 = some (.fset h0 .f32 .ne 1 (s 2) (s 3)) := by decide +kernel

/-- `fclass.f16`; `fcvt.f64.bf16.rdn`; `ftoi.f32.i32.rtz`; `itof.f16.rne.u`. -/
theorem test_decode_class2_b :
    decodeTableWord 64 0x40490C0 = some (.fclass h0 .f16 1 (s 2)) ∧
    decodeTableWord 64 0x300000040610D0 = some (.fcvt h0 .f64 .rdn .bf16 1 (s 2)) ∧
    decodeTableWord 64 0x200000040550E0 = some (.ftoi h0 .f32 .rtz .i32 1 (s 2)) ∧
    decodeTableWord 64 0x100000040490F0 = some (.itof h0 .f16 .rne true 1 (s 2)) := by decide +kernel

/-- `ld.h.sx.acq.tile g1, [g2-8]`; `st.b [g2+g3!], g1`; `ldf.d g1, [g2]`; `stf.d.rel.sys [g2], g1`; `sete.w.rel.quad [g2!+4]`; `pref.l2 [g2+g3]`; `fence.ar.die`; `ifence.pkg`; `cinv.all`; `cinv [g2+8]`; `repl.deg4 [g2]`; `aadd.w.acq.quad g1, [g2], -1`. -/
theorem test_decode_class3_a :
    decodeTableWord 64 0xFF82017F04055800 = some (.ld h0 .h true true .tile 1 ⟨s 2, .imm 0xFF8⟩) ∧
    decodeTableWord 64 0x800304041810 = some (.st h0 .b false .core 1 ⟨s 2, .reg (sK 3)⟩) ∧
    decodeTableWord 64 0x7F0404D820 = some (.ldf h0 .d false false .core 1 ⟨s 2, .imm 0⟩) ∧
    decodeTableWord 64 0x402FF0404D830 = some (.stf h0 .d true .sys 1 ⟨s 2, .imm 0⟩) ∧
    decodeTableWord 64 0x4440FF04009840 = some (.sete h0 .w true .quad ⟨sK 2, .imm 4⟩) ∧
    decodeTableWord 64 0x8304001850 = some (.pref h0 true ⟨s 2, .reg (s 3)⟩) ∧
    decodeTableWord 64 0x6018000001860 = some (.fence h0 .ar .die) ∧
    decodeTableWord 64 0x20000001870 = some (.ifence h0 .pkg) ∧
    decodeTableWord 64 0x8000001880 = some (.cinv h0 none) ∧
    decodeTableWord 64 0x80007F04001880 = some (.cinv h0 (some ⟨s 2, .imm 8⟩)) ∧
    decodeTableWord 64 0x1FF04001890 = some (.repl h0 .d4 ⟨s 2, .imm 0⟩) ∧
    decodeTableWord 64 0xFFF200FF040498A0 = some (.aadd h0 false .acq .quad 1 (s 2) (.imm 0xFFF)) := by decide +kernel

/-- `aand.d.ar.pkg l1, [i0], l2!`; `aor.w.acq.quad g1, [g2], -1`; `axor.d.ar.pkg l1, [i0], l2!`; `amin.w.acq.quad g1, [g2], -1`; `amax.d.ar.pkg l1, [i0], l2!`; `aminu.w.acq.quad g1, [g2], -1`; `amaxu.d.ar.pkg l1, [i0], l2!`; `aswp.w.acq.quad g1, [g2], -1`; `acas.d.ar.pkg l1, [i0], l2!`; `adec.d.rel.pkg g0, [l2]`; `radd.f32.rel.pkg [i2], l5!`. -/
theorem test_decode_class3_b :
    decodeTableWord 64 0x682123044D8B0 = some (.aand h0 true .ar .pkg 17 (s 24) (.reg (sK 18))) ∧
    decodeTableWord 64 0xFFF200FF040498C0 = some (.aor h0 false .acq .quad 1 (s 2) (.imm 0xFFF)) ∧
    decodeTableWord 64 0x682123044D8D0 = some (.axor h0 true .ar .pkg 17 (s 24) (.reg (sK 18))) ∧
    decodeTableWord 64 0xFFF200FF040498E0 = some (.amin h0 false .acq .quad 1 (s 2) (.imm 0xFFF)) ∧
    decodeTableWord 64 0x682123044D8F0 = some (.amax h0 true .ar .pkg 17 (s 24) (.reg (sK 18))) ∧
    decodeTableWord 64 0xFFF200FF04049900 = some (.aminu h0 false .acq .quad 1 (s 2) (.imm 0xFFF)) ∧
    decodeTableWord 64 0x682123044D910 = some (.amaxu h0 true .ar .pkg 17 (s 24) (.reg (sK 18))) ∧
    decodeTableWord 64 0xFFF200FF04049920 = some (.aswp h0 false .acq .quad 1 (s 2) (.imm 0xFFF)) ∧
    decodeTableWord 64 0x682123044D930 = some (.acas h0 true .ar .pkg 17 (s 24) (.reg (sK 18))) ∧
    decodeTableWord 64 0x402002400D940 = some (.adec h0 .rel .pkg 0 (s 18)) ∧
    decodeTableWord 64 0x4821534009950 = some (.radd h0 false true .pkg (s 26) (sK 21)) := by decide +kernel

/-- `vld.f32.m1 v2, [g3+16]`; `vst.i8 [g3+g4], v5!`; `vlds.i64 v2, [g3], -8`; `vsts.f16.m7 [g3], g4!, v5`; `vgath.i32 v2, g3, v4, 2`; `vscat.f64 g3, v4, v5, 3`; `vadd.m2 v1, v2!, v3`; `vsub.m2 v1, v2!, v3`; `vmul.m2 v1, v2!, v3`; `vfma.f32.m2 v3, v1, v2!, v4`; `vdiv.f64 v1, v2, v3`; `vsqrt.f32 v1, v2`. -/
theorem test_decode_class4_a :
    decodeTableWord 64 0x102007F0689A000 = some (.vld h0 .f32 1 2 ⟨s 3, .imm 16⟩) ∧
    decodeTableWord 64 0x1128406002010 = some (.vst h0 .i8 0 ⟨s 3, .reg (s 4)⟩ (vK 5)) ∧
    decodeTableWord 64 0xFF80007F0688E020 = some (.vlds h0 .i64 0 2 ⟨s 3, .imm 0xFF8⟩) ∧
    decodeTableWord 64 0xE928406012030 = some (.vsts h0 .f16 7 ⟨s 3, .reg (sK 4)⟩ (v 5)) ∧
    decodeTableWord 64 0x2000240688A040 = some (.vgath h0 .i32 0 2 (s 3) (v 4) 2) ∧
    decodeTableWord 64 0x3012A40601E050 = some (.vscat h0 .f64 0 (s 3) (v 4) (v 5) 3) ∧
    decodeTableWord 64 0x4402344842060 = some (.vadd h0 .i8 2 1 (vK 2) (v 3)) ∧
    decodeTableWord 64 0x4402344852070 = some (.vsub h0 .f16 2 1 (vK 2) (v 3)) ∧
    decodeTableWord 64 0x4402344856080 = some (.vmul h0 .bf16 2 1 (vK 2) (v 3)) ∧
    decodeTableWord 64 0x49222428DA090 = some (.vfma h0 .f32 2 3 (v 1) (vK 2) (v 4)) ∧
    decodeTableWord 64 0x234485E0A0 = some (.vdiv h0 .f64 0 1 (v 2) (v 3)) ∧
    decodeTableWord 64 0x4485A0B0 = some (.vsqrt h0 .f32 0 1 (v 2)) := by decide +kernel

/-- `vmin.i16.u v1, v2, v3`; `vmax.f32 v1, v2, v3`; `vabs.i32 v1, v2`; `vneg.f16 v1, v2`; `vand.i64 v31, v2, v3`; `vor.i64 v31, v2, v3`; `vxor.i64 v31, v2, v3`; `vshl.i8 v1, v2, 3`; `vshr.i16 v1, v2, v3`; `vsar.i32 v1, v2, v3!`; `vcmp.geu.i8 k1, v2, v3`; `vsel.f32 v1, v2, v3, k4!`. -/
theorem test_decode_class4_b :
    decodeTableWord 64 0x100023448460C0 = some (.vmin h0 .i16 0 true 1 (v 2) (v 3)) ∧
    decodeTableWord 64 0x234485A0D0 = some (.vmax h0 .f32 0 false 1 (v 2) (v 3)) ∧
    decodeTableWord 64 0x4484A0E0 = some (.vabs h0 .i32 0 1 (v 2)) ∧
    decodeTableWord 64 0x448520F0 = some (.vneg h0 .f16 0 1 (v 2)) ∧
    decodeTableWord 64 0x2344FCE100 = some (.vand h0 .i64 0 31 (v 2) (v 3)) ∧
    decodeTableWord 64 0x2344FCE110 = some (.vor h0 .i64 0 31 (v 2) (v 3)) ∧
    decodeTableWord 64 0x2344FCE120 = some (.vxor h0 .i64 0 31 (v 2) (v 3)) ∧
    decodeTableWord 64 0x30007F44842130 = some (.vshl h0 .i8 0 1 (v 2) (.imm 3)) ∧
    decodeTableWord 64 0x2344846140 = some (.vshr h0 .i16 0 1 (v 2) (.reg (v 3))) ∧
    decodeTableWord 64 0x80234484A150 = some (.vsar h0 .i32 0 1 (v 2) (.reg (vK 3))) ∧
    decodeTableWord 64 0x50002345042160 = some (.vcmp h0 .i8 0 5 1 (v 2) (v 3)) ∧
    decodeTableWord 64 0x122234485A170 = some (.vsel h0 .f32 0 1 (v 2) (v 3) ⟨4, true⟩) := by decide +kernel

/-- `vbcast.e4m3 v1, g2`; `vext.i8 g1, v2, 63`; `vins.f64 v1, g2, g3!`; `vperm.e5m2.m1 v1, v2, v3`; `vred.max.e4m3 g1, v2`; `vcvt.f32.e4m3 v3, v2, 1`; `vcvt.i8.i32.sat.m1 v3, v2, 3`; `vqnt.e4m3.rtz.sat v5, v1, g2, 3`; `vqnt.e2m1.scale v5, v1, v2, 1`; `kop.andn k1, k2, k3!`; `kop.not k1, k2`; `kmov k1, g2`. -/
theorem test_decode_class4_c :
    decodeTableWord 64 0x4862180 = some (.vbcast h0 .e4m3 0 1 (s 2)) ∧
    decodeTableWord 64 0x3F0007F44042190 = some (.vext h0 .i8 1 (v 2) (.imm 63)) ∧
    decodeTableWord 64 0x80030485E1A0 = some (.vins h0 .f64 1 (s 2) (.reg (sK 3))) ∧
    decodeTableWord 64 0x20023448661B0 = some (.vperm h0 .e5m2 1 1 (v 2) (v 3)) ∧
    decodeTableWord 64 0x200000440621C0 = some (.vred h0 .e4m3 0 .max 1 (v 2)) ∧
    decodeTableWord 64 0x10800000448DA1D0 = some (.vcvt h0 .f32 0 8 .rne false 1 3 (v 2)) ∧
    decodeTableWord 64 0x34220000448C21D0 = some (.vcvt h0 .i8 1 2 .rne true 3 3 (v 2)) ∧
    decodeTableWord 64 0x30500100429621E0 = some (.vqntScaled h0 .e4m3 0 .rtz true 3 5 (v 1) (s 2)) ∧
    decodeTableWord 64 0x500000224296A1E0 = some (.vqntBlock h0 true 1 5 (v 1) (v 2)) ∧
    decodeTableWord 64 0x308043850421F0 = some (.kop h0 .andn 1 (k 2) (some ⟨3, true⟩)) ∧
    decodeTableWord 64 0x400000850421F0 = some (.kop h0 .and 1 (k 2) none) ∧
    decodeTableWord 64 0x5042200 = some (.kmov h0 (.k 1) (.s (s 2))) := by decide +kernel

/-- `kmov g1, k2`; `kpop.i8 g1, k2`; `viota.i32.m1 v2`; `viota.f32 k2`. -/
theorem test_decode_class4_d :
    decodeTableWord 64 0x84042200 = some (.kmov h0 (.s 1) (.k (k 2))) ∧
    decodeTableWord 64 0x84042210 = some (.kpop h0 .i8 1 (k 2)) ∧
    decodeTableWord 64 0x200000088A220 = some (.viota h0 .i32 1 (.v 2)) ∧
    decodeTableWord 64 0x109A220 = some (.viota h0 .f32 0 (.k 2)) := by decide +kernel

/-- `mma.e4m3 a0, l2, l3, 64, 32`; `mma.int8.sat a7, g1!, g2, 1, 65535`; `mma.bx4 a1, i2, i3, i4!, i5, 64, 16`; `mzero a3`; `mlda a2, g1, 128`; `msta.bx4 a1, l4, l5, 16`; `msta.e4m3.sat a1, l4, 32`; `mova v4, a1, 63`; `cpy.c1 o2, o3, g0, 4096`; `cpy2.c3 g1, g2, g3, g4, g5!, 128`; `cpyg.c0 g1, g2, g3!, g4, g5, 1`; `cpwait.c2 g1`. -/
theorem test_decode_class5_a :
    decodeTableWord 96 0x2000400000001325222801 = some (.mma h0 .e4m3 false 0 (s 18) (s 19) 64 32) ∧
    decodeTableWord 96 0xFFFF000100024002033C2801 = some (.mma h0 .int8 true 7 (sK 1) (s 2) 1 65535) ∧
    decodeTableWord 128 0x10004010000E9C0000001B3526A802 = some (.mmaBx4 h0 1 (s 26) (s 27) (sK 28) (s 29) 64 16) ∧
    decodeTableWord 64 0x12C2810 = some (.mzero h0 3) ∧
    decodeTableWord 64 0x800007F03282820 = some (.mlda h0 2 (s 1) (.imm 128)) ∧
    decodeTableWord 96 0x1000000A802926A831 = some (.msta h0 .bx4 false 1 (s 20) (some (s 21)) 16) ∧
    decodeTableWord 96 0x100200000000029262831 = some (.msta h0 .e4m3 true 1 (s 20) none 32) ∧
    decodeTableWord 64 0x3F0007F92902840 = some (.mova h0 4 1 (.imm 63)) ∧
    decodeTableWord 96 0x10000000000016286861 = some (.cpy h0 1 10 (s 11) (s 0) 4096) ∧
    decodeTableWord 128 0x8020000284000000030404E872 = some (.cpy2 h0 3 1 (s 2) (s 3) (s 4) (sK 5) 128) ∧
    decodeTableWord 128 0x1000002840000800304042882 = some (.cpyg h0 0 1 (s 2) (sK 3) (s 4) (s 5) 1) ∧
    decodeTableWord 64 0x200A890 = some (.cpwait h0 2 (some (s 1))) := by decide +kernel

/-- `cpwait.c2.all`; `cpstat.c3 g1`; `cpfill.c0 g1, g2, g3, 0`. -/
theorem test_decode_class5_b :
    decodeTableWord 64 0x1000000000A890 = some (.cpwait h0 2 none) ∧
    decodeTableWord 64 0x4E8A0 = some (.cpstat h0 3 1) ∧
    decodeTableWord 96 0x3040428B1 = some (.cpfill h0 0 1 (s 2) (s 3) 0) := by decide +kernel

/-- `spawn g1!`; `bar.tile`; `barw.die l1, 2000`; `waitf g1, g2, g3`; `send l5, +64`; `post l2, -1`; `vtadv 2047`; `cnew g1, 256`; `cins l1, g0, +256`; `cdel g1`; `cset g1, g2!, -4`; `cget g1, 31`. -/
theorem test_decode_class6_a :
    decodeTableWord 64 0x400002003000 = some (.spawn h0 (sK 1)) ∧
    decodeTableWord 64 0xB010 = some (.bar h0 .tile) ∧
    decodeTableWord 64 0x7D00007F0044F020 = some (.barw h0 .die 17 (.imm 2000)) ∧
    decodeTableWord 64 0x304043030 = some (.waitf h0 1 (s 2) (.reg (s 3))) ∧
    decodeTableWord 96 0x10000000002A003041 = some (.send h0 (s 21) (s 0) 16) ∧
    decodeTableWord 64 0xFFF0007F24003050 = some (.post h0 (s 18) (.imm 0xFFF)) ∧
    decodeTableWord 64 0x7FF0007F00003060 = some (.vtadv h0 (.imm 2047)) ∧
    decodeTableWord 96 0x1000000000002003071 = some (.cnew h0 (s 1) 256) ∧
    decodeTableWord 96 0x400000000022003081 = some (.cins h0 (s 17) (s 0) 64) ∧
    decodeTableWord 64 0x2003090 = some (.cdel h0 (s 1)) ∧
    decodeTableWord 96 0xFFFFFFFF00008002020030A1 = some (.cset h0 (s 1) (sK 2) 0xFFFFFFFF) ∧
    decodeTableWord 64 0x1F0007F000430B0 = some (.cget h0 1 (.imm 31)) := by decide +kernel

/-- `cship`; `cdone`. -/
theorem test_decode_class6_b :
    decodeTableWord 64 0x30C0 = some (.cship h0) ∧
    decodeTableWord 64 0x30D0 = some (.cdone h0) := by decide +kernel

/-- `mfc l1, cycle`; `mtc trapbase, l2`; `eret.next`; `tlbi.all`; `tlbi.va l1`; `tlbi.ipa l1!`; `sect.tag g1, g2`; `sect.zero g1`; `sect.clrp g1`; `creinj g1`; `snap`; `idle g1, 2047`. -/
theorem test_decode_class7_a :
    decodeTableWord 64 0x110000000443800 = some (.mfc h0 17 0x011) ∧
    decodeTableWord 64 0x1020000024003810 = some (.mtc h0 (s 18) 0x102) ∧
    decodeTableWord 64 0x10000000003820 = some (.eret h0 true) ∧
    decodeTableWord 64 0x3830 = some (.tlbiAll h0) ∧
    decodeTableWord 64 0x10000022003830 = some (.tlbiVa h0 (s 17)) ∧
    decodeTableWord 64 0x20400022003830 = some (.tlbiIpa h0 (sK 17)) ∧
    decodeTableWord 64 0x202003840 = some (.sectTag h0 (s 1) (s 2)) ∧
    decodeTableWord 64 0x10000002003840 = some (.sectZero h0 (s 1)) ∧
    decodeTableWord 64 0x20000002003840 = some (.sectClrp h0 (s 1)) ∧
    decodeTableWord 64 0x2003850 = some (.creinj h0 (s 1)) ∧
    decodeTableWord 64 0x3860 = some (.snap h0) ∧
    decodeTableWord 64 0x7FF0007F00043870 = some (.idle h0 1 (.imm 2047)) := by decide +kernel

/-- `resume l3, 0`. -/
theorem test_decode_class7_b :
    decodeTableWord 64 0x7F26003880 = some (.resume h0 (s 19) (.imm 0)) := by decide +kernel

/-- R105, R113: an S = 1 instruction with its live-mask word, and a live-mask word whose bits [63:61] are not zero. -/
theorem test_decode_safe_point :
    decodeTableWord 128 0x0000_0003_0000_0403_0010_007F_1020_0808 =
      some (.add ⟨false, some 0xC0000100⟩ false (.s 8) (.s 8 false) (.imm 1)) ∧
    decodeTableWord 128 0x2000_0000_0000_0003_0010_007F_1020_0808 = none ∧ decodeTableWord 64 0x2000_0000_0000_0003 = none := by decide +kernel

/-- R115: an unassigned opcode, a LEN that is not permitted, a condition code, an unused field, K on a mail register, M in class 1, and
B = 127 where no immediate is taken are no instruction. -/
theorem test_decode_refuses :
    decodeTableWord 64 0x0000_0000_0000_0130 = none ∧ decodeTableWord 64 0x0000_0000_0000_0020 = none ∧
    decodeTableWord 64 0x0000_0000_0001_8010 = none ∧ decodeTableWord 64 0x0000_0000_0004_0000 = none ∧
    decodeTableWord 64 0x0000_4000_A000_0800 = none ∧ decodeTableWord 64 0x0002_0000_0000_0800 = none ∧
    decodeTableWord 64 0x0000_007F_0000_9950 = none := by decide +kernel

/-! ### Witnesses: what meets the hypotheses of each statement -/

def ownBase : Word := 0x7F_FFFF_FFC0_0000

def h1 : Hd := ⟨true, some 0x40000000⟩

theorem witness_NoEffectAndGraft :
    let t := regs strand0 [(1, BitVec.ofNat 64 (2 ^ 55 - 1)), (2, 0xFFFFFFFFFFFFFFFF)]
    (world t).admits t (op h0 8 []) ∧ (world t).admits t (op h1 8 []) ∧ (world t).admits t (op ⟨false, none⟩ 8 []) ∧
    (world t).admits t (op h0 8 (SSrc.src (sK 1) ++ SSrc.src (s 2))) := by decide +kernel

theorem witness_BranchesAndJumps :
    let t := regs strand0 [(1, 0x10FFC)]
    (world t).admits t (opJ h0 8 (SSrc.src (s 1) ++ SSrc.src (s 0))) ∧ (world t).reaches t (t.pc + (0x7FF : BitVec 12).signExtend 64 * 4) ∧
    (world t).reaches t (t.pc + 8) ∧ (world t).admits t (opJ h0 12 (SSrc.src (s 1))) ∧
    (world t).reaches t (t.pc + (0x7FFFFFFF : BitVec 32).signExtend 64 * 4) = false ∧
    (world t).reaches t (t.pc + (0x3FFF : BitVec 32).signExtend 64 * 4) ∧
    (world t).admits t (opJ h0 8 (KSrc.src (k 1) ++ KSrc.src (k 0))) ∧ (world t).admits t (opJ h0 12 []) ∧
    (world t).admits t (opJ h0 8 (SSrc.src (sK 1))) ∧ (world t).reaches t 0x10FFC := by decide +kernel

theorem witness_CallsAndReturns :
    let t := { strand0 with wins := List.replicate 7 window0, depth := 479 }
    let r := regs strand0 [(31, 0x10008)]
    (world t).admits t (opJ h0 12 []) ∧ (world t).reaches t 0x10100 ∧ t.depth + t.frames.length < 480 ∧ t.wins.length < 8 ∧
    (world t).admits t (opJ h0 8 (SSrc.src (s 1))) ∧
    (world r).admits r (opJ h0 8 [(.s 31, false)]) ∧ r.wins = (r.wins.getD 0 window0) :: window0 :: [] ∧ r.depth ≠ 0 ∧ r.depth ≠ r.floor ∧
    (world r).reaches r ((r.atIssue h0).rdS 31) := by decide +kernel

/-- A strand with one crossing, entered at its second window. -/
def crossed : Strand :=
  { strand0 with
    wins := [window0, window0, window0], depth := 2, frames := [⟨.replicate 4 none, 0, 2⟩]
    recs := [⟨0x10010, 0, 2, .replicate 8 (.of 5), .replicate 4 none⟩] }

theorem witness_DomainCrossings :
    let t := { strand0 with depth := 478, wins := List.replicate 7 window0 }
    let w := poke { world t with lines := NMap.set (world t).lines 0x202 lineIn } 0x10100 8 0xC0
    homeDie (lineOf (leafAddr (leafTo 0x10000) 0x10100)) = udie w.cur.unit ∧
    w.plainLine t.part (lineOf (leafAddr (leafTo 0x10000) 0x10100)) = true ∧ w.invs = [] ∧
    w.admits t (opJ h0 12 []) ∧ w.admits t (opJ h0 8 (SSrc.src (s 1))) ∧ regionOf 0x10100 = .paged ∧
    w.taken.xlate (udie w.cur.unit) 0 0x10100 false t.wfaults = .ok (leafTo 0x10000) ∧
    w.taken.isGate w.cur.unit t.part (leafTo 0x10000) 0x10100 = true ∧ t.depth + t.frames.length < 479 ∧ t.wins.length < 8 ∧
    t.recs.length < 16 ∧ (∀ r : Fin 32, 1 ≤ r.val → r.val ≤ 7 → (t.atIssue h0).pendingReg (.s r) = false) ∧
    (world crossed).admits crossed (opJ h0 8 []) ∧ (∀ x, crossed.handler = some x → x.cross < crossed.frames.length) ∧
    (∀ c ∈ crossed.cmds, c.cites = some crossed.frames.length → c.st ≠ .live) ∧ (∀ r ∈ crossed.reports, r.cites ≠ some crossed.frames.length) ∧
    (2 : Nat) ≤ crossed.depth ∧ (crossed.atIssue h0).wins.drop (crossed.depth - 2) = window0 :: window0 :: [window0] := by decide +kernel

theorem witness_EndsFreesTheContext :
    let t := { strand0 with handler := some ⟨0x10, 0x10000, 0x20000, 1, 0⟩ }
    (world strand0).admits strand0 (opJ h0 8 []) ∧ (world strand0).calm strand0 ∧ strand0.cap = none ∧
    (world t).admits t (opJ h0 8 []) ∧ (world t).calm t ∧ t.cap = none := by decide +kernel

/-- A record at 0x20000 with its frame at 0x40000. -/
def withRecord (s : State) (count : Nat) : State := poke (poke s 0x20000 8 count) 0x20010 8 0x40000

/-- A strand that may yield on the record at g1, and its state with this count and control word in the record. -/
def yielding : Strand := { regs strand0 [(1, 0x20000)] with wins := [window0], depth := 0 }
def yieldWorld (count : Nat) : State := poke (withRecord (world yielding) count) 0x20018 8 (0x3FFFF * 2 ^ 16)

theorem witness_YieldSuspends :
    let t := yielding
    let o := opJ ⟨true, none⟩ 8 (SSrc.src (s 1) ++ SB.src (.imm 0xFFF))
    let t0 := t.atIssue ⟨true, none⟩
    ∀ w ∈ [yieldWorld 1, yieldWorld 2],
      w.memWf ∧ w.admits t o ∧ t.kind ≠ .service ∧ t.depth = 0 ∧ t.frames = [] ∧ t.cap = none ∧ w.calm t ∧ t.lates = [] ∧ t.cmdBusy = false ∧
      t.res = none ∧ w.taken.check (who w.cur t) (t0.rdS 1) 32 32 .both .adec = .ok (.mem (leafTo 0x20000) 0x20000) ∧ paKind 0x20000 = .mem ∧
      recordWord w 0x20000 2 = 0x40000 ∧ w.taken.zeroPlace (who w.cur t) 0x40000 .write = .ok (leafTo 0x40000, 0x40000) ∧
      paKind 0x40000 = .mem ∧ (w.unit w.cur.unit).sb = [] ∧ w.readyLine t.part (lineOf 0x20000) ∧ w.readyLine t.part (lineOf 0x40000) ∧
      w.readyLine t.part (lineOf 0x40000 + 1) ∧ (∀ x ∈ [0x20000, 0x40000], ∀ y ∈ [0x400, 0x800, 0x801], w.bitOff t.part x y) ∧ takesEntry w (.tile 0 0) := by
  unfold takesEntry; decide +kernel

/-- The record of the first of these states goes to the tile's queue, whatever memory holds. -/
theorem witness_YieldSuspends_route (stays : Nat → Prop) :
    recordWord (yieldWorld 1) 0x20000 0 + (0xFFF : BitVec 12).signExtend 64 = 0 ∧
    routesTo (yieldWorld 1) (.tile 0 0) 0 0 0x20000 (launchedCtl (recordWord (yieldWorld 1) 0x20000 3) 1) stays := by
  have h : launchedCtl (recordWord (yieldWorld 1) 0x20000 3) 1 = 0x7FFFF0000 := by decide +kernel
  exact ⟨by decide +kernel, fun m _ => by rw [h]; rfl⟩

/-- The line of the trap record of store 0 is in the L2. -/
def withTrapLine (s : State) : State := { s with lines := NMap.set s.lines 0x9FF lineIn }

def trapStrand : Strand := { strand0 with wins := [window0], depth := 0 }

theorem witness_DeliberateTrapsEnterTheHandler :
    (withTrapLine (world trapStrand)).admits trapStrand (opJ h0 8 []) ∧
    (withTrapLine (world trapStrand)).canMigrate ⟨.core 0, 0⟩ trapStrand (leafTo 0x40000) 0x4FFC0 := by
  unfold State.canMigrate; decide +kernel

theorem witness_IntegerTwoOperands :
    let t := { regs strand0 [(1, 0x8000000000000000)] with mail := strand0.mail.set 3 (some ⟨7, false, 0⟩) }
    (world t).admits t (op h0 8 (ISrc.src (.s 1 true) ++ IB.src (.imm 0xFFF))) ∧
    (world t).admits t (op h1 8 (ISrc.src (.m 3) ++ IB.src (.reg (.s 1 false)))) := by decide +kernel

theorem witness_IntegerOtherForms :
    (world strand0).admits strand0 (op h0 8 (ISrc.src (.s 1 false))) ∧
    (world strand0).admits strand0 (op h0 8 (ISrc.src (.s 1 false) ++ IB.src (.imm 0xFFF) ++ SSrc.src (s 3))) ∧
    (world strand0).admits strand0 (op h0 8 (ISrc.src (.s 1 false) ++ ISrc.src (.s 2 true))) ∧
    (world strand0).admits strand0 (op h0 12 []) ∧ (world strand0).admits strand0 (op h0 16 []) := by decide +kernel

theorem witness_FloatResults :
    (world strand0).admits strand0 (op h0 8 (SSrc.src (s 1))) ∧ (world strand0).admits strand0 (op h0 8 (SSrc.src (s 1) ++ SSrc.src (sK 2))) ∧
    (world strand0).admits strand0 (op h0 8 (SSrc.src (s 1) ++ SSrc.src (s 2) ++ SSrc.src (s 3))) := by decide +kernel

theorem witness_FloatClasses : (world strand0).admits strand0 (op h0 8 (SSrc.src (sK 1))) := by decide +kernel

/-- The least and the largest finite value of each format; a third; and numbers of each kind for the operations. -/
theorem witness_ResultsAreExactValuesRoundedOnce :
    (∀ e ∈ [(Fmt.f64, 0x7FEFFFFFFFFFFFFF), (Fmt.f32, 0x7F7FFFFF), (Fmt.f16, 0x7BFF), (Fmt.bf16, 0x7F7F), (Fmt.e4m3 false, 0x7E),
      (Fmt.e4m3 true, 0x77), (Fmt.e5m2, 0x7B), (Fmt.e2m1, 0x7)],
      e.2 < 2 ^ e.1.width ∧ (e.1.value e.2).isNan = false ∧ (e.1.value e.2).isInf = false ∧ 1 < 2 ^ e.1.width ∧
        (e.1.value 1).isNan = false ∧ (e.1.value 1).isInf = false) ∧
    (let x := Fmt.f32.value 0x40200000
     let z := Fmt.f32.value 0x80000000
     x.isFin = true ∧ x.rat ≠ 0 ∧ 0 < x.rat ∧ (Fmt.f32.value 0xC0200000).rat < 0 ∧ z.isFin = true ∧ z.rat = 0 ∧
      Fmt.f32.value 0x7F800000 = .inf false ∧ (Fmt.f32.value 0x7F800001).isNan = true ∧ x.rat = 5 / 2 ∧
      Fmt.f32.value 0x3F800000 = .fin false 0x800000 (-23) ∧ Fmt.f32.value 0x40000000 = .fin false 0x800000 (-22)) := by decide +kernel

/-- One is below two, and two is not below one. -/
theorem witness_ResultsAreExactValuesRoundedOnce_below :
    (FV.fin false 0x800000 (-23)).below (.fin false 0x800000 (-22)) ∧ ¬ (FV.fin false 0x800000 (-22)).below (.fin false 0x800000 (-23)) := by
  change (FV.fin false 0x800000 (-23)).rat < (FV.fin false 0x800000 (-22)).rat ∧
    ¬ (FV.fin false 0x800000 (-22)).rat < (FV.fin false 0x800000 (-23)).rat
  decide +kernel

/-- Two and a half rounds to two, and a number beyond a byte's range is one that rounds to an integer. -/
theorem witness_ResultsAreExactValuesRoundedOnce_int : roundsToInt .rne (5 / 2) 2 ∧ roundsToInt .rtz 300 300 ∧ roundsToInt .rup (-300) (-300) := by
  simp only [roundsToInt]; decide +kernel

/-- A strand whose g1 waits for the result 5 of the long-latency instruction 7, v3 for the lanes of 8, and 9 has flags alone. -/
def awaiting : Strand :=
  (({ (strand0.awaitS 1 7) with lates := [⟨7, .s 5, 1, []⟩, ⟨8, .v 9 3 32, 1, []⟩, ⟨9, .none, 1, []⟩] } : Strand).setVreg 3
    { strand0.vreg 3 with pend := true, late := some 8 })

theorem witness_LongLatencyResults :
    (world strand0).admits strand0 (op h0 8 (SSrc.src (s 1) ++ SSrc.src (s 2))) ∧ (world strand0).admits strand0 (op h0 8 (SSrc.src (s 1))) ∧
    fmtOfE strand0.nx .f32 = some .f32 ∧ (world strand0).admits strand0 (opW h0 8 (VSrc.src (v 1) ++ VSrc.src (v 2) ++ mergeSrc 1 3) 3) ∧
    (world strand0).admits strand0 (opW h0 8 (VSrc.src (v 1) ++ mergeSrc 0 3) 3) ∧
    (world awaiting).strand ⟨.core 0, 0⟩ = some awaiting ∧ awaiting.lates.find? (fun x => x.id == 7) = some ⟨7, .s 5, 1, []⟩ ∧
    (awaiting.sreg 1).late = some 7 ∧ (awaiting.sreg 2).late ≠ some 7 ∧ awaiting.lates.find? (fun x => x.id == 8) = some ⟨8, .v 9 3 32, 1, []⟩ ∧
    (awaiting.vreg 3).late = some 8 ∧ (awaiting.vreg 4).late ≠ some 8 ∧ awaiting.lates.find? (fun x => x.id == 9) = some ⟨9, .none, 1, []⟩ ∧
    (let t := { strand0 with lates := [⟨7, .s 5, 1, []⟩] }
     (∀ y ∈ t.g.toList ++ t.o.toList, y.late ≠ some 7) ∧ (∀ y ∈ t.v.toList, y.late ≠ some 7) ∧
       ∀ z ∈ t.wins, ∀ y ∈ z.l.toList ++ z.i.toList, y.late ≠ some 7) := by decide +kernel

theorem witness_VectorLaneOperations :
    ETy.i8.isInt = true ∧ fmtOfE strand0.nx .f16 = some .f16 ∧
    (world strand0).admits strand0 (opW h0 8 (VSrc.src (v 1) ++ VSrc.src (vK 2) ++ VSrc.src (v 3) ++ mergeSrc 1 4) 4) ∧
    (world strand0).admits strand0 (opW h0 8 (VSrc.src (v 1) ++ VB.src (.imm 3) ++ mergeSrc 0 4) 4) := by decide +kernel

theorem witness_VectorMovesAndCompares :
    (world strand0).admits strand0 (opW h0 8 (VSrc.src (v 1) ++ VSrc.src (v 2) ++ KSrc.src (k 1) ++ mergeSrc 1 4) 4) ∧
    (world strand0).admits strand0 (opW h0 8 (SSrc.src (s 1) ++ mergeSrc 1 4) 4) ∧ (world strand0).admits strand0 (op h0 8 (msrc 1)) ∧
    (world strand0).admits strand0 (opV h0 8 (VSrc.src (v 1) ++ SB.src (.imm 0xFFF))) ∧
    (world strand0).admits strand0 (opW h0 8 (SSrc.src (s 1) ++ SB.src (.imm 63) ++ [(.v 4, false)]) 4) ∧
    (world strand0).admits strand0 (opV h0 8 (VSrc.src (v 1) ++ VSrc.src (v 2) ++ msrc 1)) ∧
    Cond.ofCode 5 = some .geu ∧ FCond.ofCode 4 = some .ne := by decide +kernel

theorem witness_VectorReductionsConversionsMasks :
    (world strand0).admits strand0 (opV h0 8 (VSrc.src (v 1) ++ msrc 1)) ∧
    (world strand0).admits strand0 (opW h0 8 (VSrc.src (v 1) ++ msrc 1 ++ [(.v 4, false)]) 4) ∧
    (let ls := 512 / srcWidth 8; let n := min ls ETy.f32.lanes; n ≠ 0 ∧ 3 < max ls ETy.f32.lanes / n) ∧
    (world strand0).admits strand0 (opW h0 8 (VSrc.src (v 1) ++ SSrc.src (s 2) ++ msrc 0 ++ [(.v 4, false)]) 4) ∧ ETy.e4m3.width = 8 ∧
    (world strand0).admits strand0 (opW h0 8 (VSrc.src (v 1) ++ VSrc.src (v 2) ++ [(.v 4, false)]) 4) ∧
    (world strand0).admits strand0 (op h0 8 (KSrc.src (k 1) ++ KSrc.src (k 2))) ∧ (world strand0).admits strand0 (op h0 8 (KSrc.src (k 1))) ∧
    (world strand0).admits strand0 (op h0 8 (SKSrc.src (.s (s 1)))) := by decide +kernel

/-- Core 0 with eight full bytes in its scratchpad and the first word full. -/
def worldSp (t : Strand) : State := worldIn t fun x => { x with sp := Memory.writeN [] 0 8 0x8877665544332211, full := [0] }

def own1 : Strand := regs strand0 [(1, ownBase)]
def mem1 : Strand := regs strand0 [(1, 0x20000)]

theorem witness_LoadsComplete :
    let w := worldSp own1
    let ad : Addr := ⟨s 1, .imm 0⟩
    w.admits own1 (op h0 8 (Addr.src ad)) ∧ own1.rem = [] ∧ (w.unit (w.homeUnit own1)).matrixAt own1.sid 0 8 = false ∧ spPoisoned (w.unit (w.homeUnit own1)) 0 8 = false ∧
    w.taken.check (who w.cur own1) ((own1.atIssue h0).address ad) 8 8 .read .plain = .ok (.own 0) ∧
    w.taken.check (who w.cur own1) ((own1.atIssue h0).address ad) 8 8 .read .full = .ok (.own 0) ∧
    fullBit (w.unit (w.homeUnit own1)) 0 = true ∧ own1.seen = none ∧ w.ownLate (w.homeUnit own1) = false ∧
    (let t := { own1 with seen := some 5 }
     (worldSp t).admits t (op h0 8 (Addr.src ad)) ∧
      (worldSp t).taken.check (who w.cur t) ((t.atIssue h0).address ad) 8 8 .read .full = .ok (.own 0)) ∧
    (world mem1).admits mem1 (op h0 8 (Addr.src ad)) ∧ mem1.rem = [] ∧
    (world mem1).taken.check (who w.cur mem1) ((mem1.atIssue h0).address ad) 8 8 .read .plain = .ok (.mem (leafTo 0x20000) 0x20000) ∧
    paKind 0x20000 = .mem ∧ (world mem1).plainLine 0 (lineOf 0x20000) ∧ (world mem1).quietLine w.cur.unit mem1 (lineOf 0x20000) ∧
    homeDie (lineOf 0x20000) = udie w.cur.unit ∧
    (((world mem1).unit w.cur.unit).l1.any fun y => !y.host && y.line == lineOf 0x20000) = false := by decide +kernel

/-- A load of 0x20000 by g1 that is still to be performed. -/
def loadLate : Late := ⟨7, .s 0, 0, [⟨0, .mem (leafTo 0x20000) .home, 0x20000, 8, false, .load⟩]⟩
def loadingOne : Strand := { (strand0.awaitS 1 7) with lates := [loadLate] }

theorem witness_LoadsComplete_performed :
    let w := world loadingOne
    let u := w.cur.unit
    w.strand w.cur = some loadingOne ∧ (loadingOne.lates.find? fun x => x.id == 7) = some loadLate ∧ (loadingOne.sreg 1).late = some 7 ∧
    paKind 0x20000 = .mem ∧ w.plainLine loadingOne.part (lineOf 0x20000) ∧ homeDie (lineOf 0x20000) = udie u ∧
    ((w.unit u).sb.any fun e => e.line == lineOf 0x20000) = false ∧
    ((w.unit u).l1.any fun y => !y.host && y.line == lineOf 0x20000) = false := by decide +kernel

/-- A strand whose g1 waits for an access of the first bytes of its own scratchpad that is still to be performed, and one that waits for
nothing of it. -/
def ownLater (n : Nat) (sx : Bool) (op : LateOp) : Late := ⟨7, .s 0, 0, [⟨0, .own, 0, n, sx, op⟩]⟩
def awaitsOwn (n : Nat) (sx : Bool) (op : LateOp) : Strand := { (strand0.awaitS 1 7) with lates := [ownLater n sx op] }
def owesOwn (n : Nat) (sx : Bool) (op : LateOp) : Strand := { strand0 with lates := [{ ownLater n sx op with val := .none }] }

theorem witness_LoadsComplete_performed_own :
    let t := awaitsOwn 8 false .load
    let w := worldSp t
    w.strand w.cur = some t ∧ (t.lates.find? fun x => x.id == 7) = some (ownLater 8 false .load) ∧ (t.sreg 1).late = some 7 ∧
    w.ownBefore (homeOf w.cur t).unit 7 = false := by decide +kernel

theorem witness_StoresToOwnScratchpad_performed :
    let t := owesOwn 8 false (.put .full 5)
    let w := worldSp t
    w.memWf ∧ w.strand w.cur = some t ∧ (t.lates.find? fun x => x.id == 7) = some { ownLater 8 false (.put .full 5) with val := .none } ∧
    w.ownBefore (homeOf w.cur t).unit 7 = false := by decide +kernel

theorem witness_AtomicsOnOwnScratchpad_performed :
    let t := awaitsOwn 4 true (.rmw 4 3 0 none)
    let z := owesOwn 8 true (.rmw 9 3 0 none)
    (worldSp t).memWf ∧ (worldSp t).strand ⟨.core 0, 0⟩ = some t ∧
    (t.lates.find? fun x => x.id == 7) = some (ownLater 4 true (.rmw 4 3 0 none)) ∧ (t.sreg 1).late = some 7 ∧
    (worldSp t).ownBefore (homeOf ⟨.core 0, 0⟩ t).unit 7 = false ∧
    (z.lates.find? fun x => x.id == 7).map Late.val = some .none ∧ (worldSp z).ownBefore (homeOf ⟨.core 0, 0⟩ z).unit 7 = false := by
  decide +kernel

theorem witness_StoresToOwnScratchpad :
    let w := worldSp own1
    let ad : Addr := ⟨s 1, .imm 8⟩
    w.memWf ∧ w.admits own1 (op h0 8 (dsrc 2 ++ Addr.src ad)) ∧ w.admits own1 (op h0 8 (Addr.src ad)) ∧ (w.unit (w.homeUnit own1)).matrixAt own1.sid 0 8 = false ∧ w.calm own1 ∧
    w.taken.check (who w.cur own1) ((own1.atIssue h0).address ad) 8 8 .write .plain = .ok (.own 8) ∧
    w.taken.check (who w.cur own1) ((own1.atIssue h0).address ad) 8 8 .write .full = .ok (.own 8) := by decide +kernel

/-- A store-buffer entry for eight bytes of line 0x400, with or without a release. -/
def sbe (rel : Option RelInfo) : SbEntry := ⟨7, 50, 0, 0x400, 0xFF, 0x8877665544332211, false, rel⟩

theorem witness_StoresToMemoryAndDrains :
    let w := world mem1
    let ad : Addr := ⟨s 1, .imm 8⟩
    w.admits mem1 (op h0 8 (dsrc 2 ++ Addr.src ad)) ∧ w.calm mem1 ∧ (w.unit w.cur.unit).sb.length < 32 ∧ paKind 0x20008 = .mem ∧
    w.pushHeld (lineOf 0x20008) = false ∧ (w.homeReqs.any fun r => r.2.sid == mem1.sid && lineOf r.2.pa == lineOf 0x20008) = false ∧
    mem1.loadingAt false 0x20008 8 = false ∧
    w.taken.check (who w.cur mem1) ((mem1.atIssue h0).address ad) 8 8 .write .plain = .ok (.mem (leafTo 0x20000) 0x20008) ∧
    (∀ e ∈ [sbe none, sbe (some ⟨.pkg, 0, false⟩)],
      let d := worldIn mem1 fun x => { x with sb := [e] }
      d.memWf ∧ (d.unit w.cur.unit).sb[0]? = some e ∧ ((d.unit w.cur.unit).sb.take 0).any (fun f => f.line == e.line) = false ∧
      paKind (128 * e.line) = .mem ∧ d.plainLine e.part e.line ∧ d.pushHeld e.line = false) := by decide +kernel

theorem witness_AtomicsOnOwnScratchpad :
    let w := worldSp own1
    w.memWf ∧ w.admits own1 (op h0 8 (SSrc.src (s 1) ++ SB.src (.imm 0xFFF))) ∧
    w.admits own1 (op h0 8 (SSrc.src (s 1) ++ SB.src (.reg (s 2)) ++ dsrc 3)) ∧ own1.rem = [] ∧ (w.unit (w.homeUnit own1)).matrixAt own1.sid 0 8 = false ∧ w.calm own1 ∧
    spPoisoned (w.unit (w.homeUnit own1)) 0 8 = false ∧ w.ownLate (w.homeUnit own1) = false ∧
    w.taken.check (who w.cur own1) ((own1.atIssue h0).rdS 1) 8 8 .both .atomic = .ok (.own 0) ∧
    w.taken.check (who w.cur own1) ((own1.atIssue h0).rdS 1) 4 4 .both .atomic = .ok (.own 0) := by decide +kernel

theorem witness_AtomicsOnMemory :
    let w := world mem1
    w.memWf ∧ w.admits mem1 (op h0 8 (SSrc.src (s 1) ++ SB.src (.imm 0x7FF))) ∧
    w.admits mem1 (op h0 8 (SSrc.src (s 1) ++ SB.src (.reg (s 2)) ++ dsrc 3)) ∧ mem1.rem = [] ∧ w.calm mem1 ∧ paKind 0x20000 = .mem ∧
    w.plainLine 0 (lineOf 0x20000) ∧ w.quietLine w.cur.unit mem1 (lineOf 0x20000) ∧
    w.taken.check (who w.cur mem1) ((mem1.atIssue h0).rdS 1) 8 8 .both .atomic = .ok (.mem (leafTo 0x20000) 0x20000) := by decide +kernel

/-- A strand that waits in g1 for what an access of 0x20000 returns, and one that has issued it for g0. -/
def owing (n : Nat) (op : LateOp) : Late := ⟨7, .s 0, 0, [⟨0, .mem (leafTo 0x20000) .home, 0x20000, n, true, op⟩]⟩
def owingOne (n : Nat) (op : LateOp) : Strand := { (strand0.awaitS 1 7) with lates := [owing n op] }
def owingNone (n : Nat) (op : LateOp) : Strand := { strand0 with lates := [{ owing n op with val := .none }] }

theorem witness_AtomicsOnMemory_performed :
    let w := world (owingOne 4 (.rmw 4 3 0 none))
    let z := owingNone 8 (.rmw 9 3 0 (some ⟨.pkg, 0, false⟩))
    w.memWf ∧ w.strand w.cur = some (owingOne 4 (.rmw 4 3 0 none)) ∧
    ((owingOne 4 (.rmw 4 3 0 none)).lates.find? fun x => x.id == 7) = some (owing 4 (.rmw 4 3 0 none)) ∧
    ((owingOne 4 (.rmw 4 3 0 none)).sreg 1).late = some 7 ∧ paKind 0x20000 = .mem ∧ w.plainLine strand0.part (lineOf 0x20000) ∧
    w.pushHeld (lineOf 0x20000) = false ∧ ((w.unit w.cur.unit).sb.any fun e => e.line == lineOf 0x20000) = false ∧
    (world z).strand w.cur = some z ∧ (z.lates.find? fun x => x.id == 7).map Late.val = some .none := by decide +kernel

/-- The record at 0x20000 with this count, for any core. -/
def recordWorld (count : Nat) : State := poke (withRecord (world mem1) count) 0x20018 8 (0x3FFFF * 2 ^ 16)

theorem witness_RecordsArePushedAtZero :
    ∀ w ∈ [recordWorld 1, recordWorld 0],
      w.memWf ∧ w.admits mem1 (op h0 8 (SSrc.src (s 1))) ∧ w.calm mem1 ∧ paKind 0x20000 = .mem ∧ w.plainLine 0 (lineOf 0x20000) ∧
      w.quietLine w.cur.unit mem1 (lineOf 0x20000) ∧ w.bitOff 0 0x20000 (lineOf 0x20000) ∧
      w.taken.check (who w.cur mem1) ((mem1.atIssue h0).rdS 1) 32 32 .both .adec = .ok (.mem (leafTo 0x20000) 0x20000) ∧
      takesEntry w (.tile 0 0) ∧ w.routeOf 0 0 0x20000 (launchedCtl (recordWord w 0x20000 3) 1) = .tile 0 0 := by
  unfold takesEntry; decide +kernel

/-- An ADEC of the record that is still to be performed. -/
def decLate : Late := ⟨7, .s 0, 0, [⟨0, .mem (leafTo 0x20000) .home, 0x20000, 32, false, .dec 0x20000 none⟩]⟩

theorem witness_RecordsArePushedAtZero_performed :
    let t : Strand := { (strand0.awaitS 1 7) with lates := [decLate] }
    let w := poke (withRecord (world t) 1) 0x20018 8 (0x3FFFF * 2 ^ 16)
    w.memWf ∧ w.strand w.cur = some t ∧ (t.lates.find? fun x => x.id == 7) = some decLate ∧ (t.sreg 1).late = some 7 ∧ paKind 0x20000 = .mem ∧
    w.plainLine t.part (lineOf 0x20000) ∧ w.pushHeld (lineOf 0x20000) = false ∧ w.bitOff t.part 0x20000 (lineOf 0x20000) ∧
    ((w.unit w.cur.unit).sb.any fun e => e.line == lineOf 0x20000) = false ∧ takesEntry w (.tile 0 0) := by
  unfold takesEntry; decide +kernel

/-- Its counter is one in the first state and zero in the second, and it goes to the tile's queue, whatever memory holds. -/
theorem witness_RecordsArePushedAtZero_route (stays : Nat → Prop) :
    recordWord (recordWorld 1) 0x20000 0 - 1 = 0 ∧ recordWord (recordWorld 0) 0x20000 0 = 0 ∧
    routesTo (recordWorld 1) (.tile 0 0) 0 0 0x20000 (launchedCtl (recordWord (recordWorld 1) 0x20000 3) 1) stays := by
  have h : launchedCtl (recordWord (recordWorld 1) 0x20000 3) 1 = 0x7FFFF0000 := by decide +kernel
  exact ⟨by decide +kernel, by decide +kernel, fun m _ => by rw [h]; rfl⟩

theorem witness_RaddSendsContribution :
    let w := world mem1
    w.admits mem1 (op h0 8 (SSrc.src (s 1) ++ SSrc.src (sK 2))) ∧ w.calm mem1 ∧ paKind 0x20000 = .mem ∧
    w.quietLine w.cur.unit mem1 (lineOf 0x20000) ∧ w.hostHas (lineOf 0x20000) (byteMask (0x20000 % 128) 8) = false ∧
    w.taken.check (who w.cur mem1) ((mem1.atIssue h0).rdS 1) 8 8 .both .radd = .ok (.mem (leafTo 0x20000) 0x20000) := by decide +kernel

theorem witness_HintsFencesAndCacheControls :
    let w := world mem1
    let o := op h0 8 (Addr.src ⟨s 1, .imm 0⟩)
    let x := world own1
    w.admits mem1 o ∧ w.taken.check (who w.cur mem1) 0x20000 1 1 .read .plain = .ok (.mem (leafTo 0x20000) 0x20000) ∧
    x.admits own1 o ∧ x.taken.check (who w.cur own1) 0xFFFFFFFFFFFFFFFF 1 1 .read .plain ≠ .error .miss ∧ w.admits mem1 (op h0 8 []) ∧
    regionOf 0x20000 = .paged ∧ w.taken.xlate (udie w.cur.unit) 0 0x20000 false [] = .ok (leafTo 0x20000) ∧
    paKind (leafAddr (leafTo 0x20000) 0x20000) = .mem ∧ reach mem1.frames 0 (leafTo 0x20000) 0x20000 1 .write = true ∧ regionOf ownBase ≠ .paged ∧
    w.calm mem1 ∧ uref (ukey (.kp 31)) = .kp 31 ∧ uref (ukey (.core 1023)) = .core 1023 := by decide +kernel

/-- Two active lanes of 1 byte in the own scratchpad, and two in device memory. -/
theorem witness_VectorLoadsComplete :
    let x : Instr := .vlds h0 .i8 1 3 ⟨s 1, .imm 7⟩
    let ready (t : Strand) (w : State) (u : UnitRef) : Prop := w.admits t (opW h0 8 (Addr.src ⟨s 1, .imm 7⟩ ++ mergeSrc 1 3) 3) ∧
      w.admits t (opW h0 8 (SSrc.src (s 1) ++ VSrc.src (v 2) ++ mergeSrc 1 3) 3) ∧ t.rem = [] ∧ t.replay = none ∧ u = w.homeUnit t
    (let t := { own1 with k := own1.k.set 1 (.of 0x3) }
     let w := worldSp t
     ready t w (.core 0) ∧ ∀ i : Fin 2,
      w.taken.check (who w.cur t) (laneAddress (t.atIssue h0) .i8 i.val x) 1 1 .read .plain = .ok (.own (7 * i.val)) ∧
      (w.unit (.core 0)).matrixAt t.sid (7 * i.val) 1 = false ∧ spPoisoned (w.unit (.core 0)) (7 * i.val) 1 = false) ∧
    (let t := { mem1 with k := own1.k.set 1 (.of 0x3) }
     let w := world t
     ready t w (.core 0) ∧ ∀ i : Fin 2,
      let pa := 0x20000 + 7 * i.val
      w.taken.check (who w.cur t) (laneAddress (t.atIssue h0) .i8 i.val x) 1 1 .read .plain = .ok (.mem (leafTo 0x20000) pa) ∧
      paKind pa = .mem ∧ w.plainLine t.part (lineOf pa) ∧ w.quietLine (.core 0) t (lineOf pa) ∧ homeDie (lineOf pa) = udie (.core 0) ∧
      ((w.unit (.core 0)).l1.any fun y => !y.host && y.line == lineOf pa) = false) := by decide +kernel

/-- Two active lanes at one word of the own scratchpad, and at one of device memory. -/
theorem witness_VectorStoresComplete :
    let x : Instr := .vsts h0 .i64 1 ⟨s 1, .imm 0⟩ (v 2)
    let ready (t : Strand) (w : State) : Prop := w.memWf ∧ w.admits t (opV h0 8 (Addr.src ⟨s 1, .imm 0⟩ ++ VSrc.src (v 2) ++ msrc 1)) ∧
      w.admits t (opV h0 8 (SSrc.src (s 1) ++ VSrc.src (v 3) ++ VSrc.src (v 2) ++ msrc 1)) ∧ t.rem = [] ∧ t.replay = none ∧
      (w.unit w.cur.unit).sb.length + 2 ≤ 32
    (let t := { own1 with k := own1.k.set 1 (.of 0x3) }
     let w := worldSp t
     ready t w ∧ (w.unit (.core 0)).matrixAt t.sid 0 8 = false ∧
      ∀ i : Fin 2, w.taken.check (who w.cur t) (laneAddress (t.atIssue h0) .i64 i.val x) 8 8 .write .plain = .ok (.own 0)) ∧
    (let t := { mem1 with k := own1.k.set 1 (.of 0x3) }
     let w := world t
     ready t w ∧ paKind 0x20000 = .mem ∧ w.pushHeld (lineOf 0x20000) = false ∧ t.loadingAt false 0x20000 8 = false ∧
      (w.homeReqs.any fun r => r.2.sid == t.sid && lineOf r.2.pa == lineOf 0x20000) = false ∧
      ∀ i : Fin 2, w.taken.check (who w.cur t) (laneAddress (t.atIssue h0) .i64 i.val x) 8 8 .write .plain =
        .ok (.mem (leafTo 0x20000) 0x20000)) := by decide +kernel

theorem witness_MatrixCommandsEnterTheQueue :
    let w := world own1
    let o := opE h0 12 (SSrc.src (s 1) ++ SSrc.src (s 1)) 3
    let ob := opE h0 16 (SSrc.src (s 1) ++ SSrc.src (s 1) ++ SSrc.src (s 1) ++ SSrc.src (s 1)) 3
    let ol := opE h0 8 (SSrc.src (s 1) ++ SB.src (.imm 128)) 3
    let os := opE h0 12 (SSrc.src (s 1) ++ []) 3
    own1.accs[3]? = some 3 ∧ own1.loadingOwn = false ∧ (w.unit (w.homeUnit own1)).mq.length < 2 ∧ w.admits own1 o ∧
    ((w.env own1 o).tile ownBase 64 32 (shapeOf .f16).ra .read).toOption = some 0 ∧
    ((w.env own1 o).tile ownBase 64 (shapeOf .f16).k (shapeOf .f16).rb .read).toOption = some 0 ∧
    w.admits own1 ob ∧ ((w.env own1 ob).tile ownBase 64 32 64 .read).toOption = some 0 ∧
    ((w.env own1 ob).tile ownBase 16 128 16 .read).toOption = some 0 ∧ ((w.env own1 ob).tile ownBase 16 32 16 .read).toOption = some 0 ∧
    ((w.env own1 ob).tile ownBase 128 4 128 .read).toOption = some 0 ∧ w.admits own1 (opE h0 8 [] 3) ∧ w.admits own1 ol ∧
    ((w.env own1 ol).tile ownBase 128 32 128 .read).toOption = some 0 ∧ w.admits own1 os ∧
    ((w.env own1 os).tile ownBase 128 32 (rowBytes .f32) .write).toOption = some 0 ∧
    w.admits own1 { opE h0 8 (SB.src (.imm 63)) 3 with vd := some 4 } := by decide +kernel

theorem witness_CopyCommandsAndTheirWaits :
    let t := regs strand0 [(1, 0x20000), (2, ownBase), (3, 65536), (4, 16)]
    let w := world t
    let u := { t with cmds := [⟨9, .copy 1, none, .live, 0⟩] }
    let c : CCmd := ⟨9, 50, 1, .fill 0x20000 5 4096, 0, [], false, 0, 1, 0, 0⟩
    let y := worldIn u fun x => { x with chan := x.chan.set 1 ⟨some c, 128, [], [], false, 0x20080, 0, [], []⟩ }
    (w.unit (w.homeUnit t)).cq.length < 2 ∧ t.loadingOwn = false ∧ w.homeUnit t = w.cur.unit ∧ w.admits t (op h0 12 (SSrc.src (s 1) ++ SSrc.src (s 0) ++ dsrc 2)) ∧
    ((t.atIssue h0).rdS 0 + (0xFFFFFFFF : BitVec 32).setWidth 64).toNat ≤ 2 ^ 32 ∧
    w.admits t (op h0 16 (SSrc.src (s 1) ++ SSrc.src (s 3) ++ dsrc 2 ++ SSrc.src (s 4) ++ SSrc.src (s 4))) ∧
    ((t.atIssue h0).rdS 3).toNat ≤ 65536 ∧ (16 : BitVec 16).toNat ≤ ((t.atIssue h0).rdS 4).toNat ∧ ((t.atIssue h0).rdS 3).toNat % 4 = 0 ∧
    ((t.atIssue h0).rdS 4).toNat ≤ 65536 ∧
    (t.reports.all fun r => r.ch != 1) = true ∧ w.admits t (op h0 8 (SSrc.src (s 1))) ∧ t.newest 1 = none ∧ w.admits t (op h0 8 []) ∧
    y.admits u (op h0 8 (SSrc.src (s 1))) ∧ u.newest 1 = some ⟨9, .copy 1, none, .live, 0⟩ ∧ (y.unit (y.homeUnit u)).chan[1].runs 9 = true ∧
    (y.unit (y.homeUnit u)).chan[1].faults = [] ∧ ((u.atIssue h0).rdS 1).toNat ≤ (y.unit (y.homeUnit u)).chan[1].wptr.toNat ∧
    (w.unit (w.homeUnit t)).chan[1].err < 256 ∧ (w.unit (w.homeUnit t)).chan[1].runs 9 = false ∧
    (let z := worldIn u fun x => { x with chan := x.chan.set 1 ⟨some c, 128, [3], [], false, 0x20080, 0, [], []⟩ }
     (z.unit (z.homeUnit u)).chan[1].runs 9 = true ∧ (z.unit (z.homeUnit u)).chan[1].faults ≠ []) ∧
    (let g : Strand := { t with home := some ⟨.core 0, 0⟩, cmds := [⟨9, .copy 1, none, .done, 4096⟩] }
     let z : State := { world strand0 with cur := ⟨.kp 0, 4⟩, units := [(1024, { CoreUnit.reset with strands := [(4, g)] })] }
     z.homeUnit g ≠ z.cur.unit ∧ (g.reports.all fun r => r.ch != 1) = true ∧ z.admits g (op h0 8 []) ∧ (g.newest 1).map CmdRec.st = some .done) ∧
    (∀ e ∈ [CmdStatus.done, .stopped 0x13], ({ t with cmds := [⟨9, .copy 1, none, e, 4096⟩] } : Strand).newest 1 = some ⟨9, .copy 1, none, e, 4096⟩) := by
  decide +kernel

theorem witness_WaitsAndVirtualTime :
    let w := world strand0
    let b := { strand0 with res := some 2 }
    let n := { strand0 with barPos := false }
    let x := worldSp own1
    let d := { w with launches := [(1, { launch0 with pkt := { packet0 with det := true } })] }
    let wk := worldIn strand0 fun y => { y with wake := [0] }
    let may (t : Strand) : Bool := t.barPos && (match w.launch t.launch with | some l => l.pkt.bars.getLsbD Scope.sys.code | none => false)
    w.admits strand0 (op h0 8 []) ∧ w.admits strand0 (op h0 8 (SB.src (.imm 2047))) ∧ strand0.res = none ∧ may strand0 = true ∧ may n = false ∧
    (world b).admits b (op h0 8 (SB.src (.imm 0))) ∧ (world n).admits n (op h0 8 []) ∧
    x.admits own1 (op h0 8 (SSrc.src (s 1) ++ SB.src (.imm 2047))) ∧ own1.rem = [] ∧ own1.limit = none ∧
    x.taken.check (who w.cur own1) ((own1.atIssue h0).rdS 1) 8 8 .read .full = .ok (.own 0) ∧ fullBit (x.unit (x.homeUnit own1)) 0 = true ∧
    (world own1).taken.check (who w.cur own1) ((own1.atIssue h0).rdS 1) 8 8 .read .full = .ok (.own 0) ∧
    fullBit ((world own1).unit (x.homeUnit own1)) 0 = false ∧ x.ownLate (x.homeUnit own1) = false ∧
    (world own1).ownLate (x.homeUnit own1) = false ∧ own1.seen = none ∧ ({ own1 with seen := some 5 } : Strand).seen.isSome = true ∧
    (let t := { own1 with res := some 1 }
     (worldSp t).admits t (op h0 8 (SSrc.src (s 1) ++ SB.src (.imm 2047)))) ∧
    w.admits strand0 (opP h0 8 (SB.src (.imm 2047))) ∧ (w.unit w.cur.unit).wake.contains w.cur.ctx = false ∧ strand0.preempt = false ∧
    strand0.limit = none ∧ wk.admits strand0 (opP h0 8 (SB.src (.imm 0))) ∧ (wk.unit w.cur.unit).wake.contains w.cur.ctx = true ∧
    (world b).admits b (opP h0 8 (SB.src (.imm 0))) ∧ d.admits strand0 (op h0 8 (SB.src (.imm 2047))) ∧
    w.admits strand0 (op h0 8 (SB.src (.imm 1))) ∧ (match w.launch 1 with | some l => l.pkt.det | none => false) = false ∧
    (match d.launch 1 with | some l => l.pkt.det | none => false) = true := by decide +kernel

/-- Partition 0's mapping table puts logical cores 0 and 1 on cores 0 and 1. -/
def mapped (s : State) : State := poke (poke s 0x8000 4 0x80000000) 0x8004 4 0x80000001

theorem witness_MessagesAreSent :
    let t := regs strand0 [(1, 1), (2, 0x10003), (3, 0x3FF00), (4, 0x3FFFF), (5, 0x40000), (6, 0xFC0001), (7, 9)]
    let w := mapped (world t)
    w.admits t (op h0 12 (SSrc.src (s 1) ++ SSrc.src (s 0) ++ msgSrc)) ∧ w.coreAt 0 1 = some (0, 1) ∧ (1 : Nat) < 0x3_FF00 ∧
    w.admits t (op h0 12 (SSrc.src (s 1) ++ SSrc.src (s 2) ++ msgSrc)) ∧ ((t.atIssue h0).rdS 2).toNat ≠ 0 ∧
    w.admits t (op h0 12 (SSrc.src (s 3) ++ SSrc.src (s 0) ++ msgSrc)) ∧ 0x3_FF00 ≤ ((t.atIssue h0).rdS 3).toNat ∧
    ((t.atIssue h0).rdS 4).toNat < 2 ^ 18 ∧ w.admits t (op h0 8 (SSrc.src (s 6) ++ SB.src (.imm 0xFFF))) ∧
    ((t.atIssue h0).rdS 6).toNat < 2 ^ 24 ∧ w.coreAt 0 (((t.atIssue h0).rdS 6).toNat % 2 ^ 18) = some (0, 1) ∧
    w.admits t (op h0 12 (SSrc.src (s 5) ++ SSrc.src (s 0) ++ msgSrc)) ∧ 2 ^ 18 ≤ ((t.atIssue h0).rdS 5).toNat ∧
    ((t.atIssue h0).rdS 7).toNat < 0x3_FF00 ∧ w.coreAt 0 ((t.atIssue h0).rdS 7).toNat = none := by decide +kernel

theorem witness_CapsulesEnterTheFabric :
    let w := world mem1
    let t := regs strand0 [(1, 4)]
    let z := { world t with parts := [(0, { Part.reset with mode := 1, parkbase := 0x20000 - 0x100 - 4 * 17408, parks := [⟨4, 1, 7⟩] })] }
    let P := z.part 0
    w.admits mem1 (op h0 12 (SSrc.src (s 1))) ∧ ((mem1.atIssue h0).rdS 1).toNat % 256 = 0 ∧ 0x20000 % 65536 + 256 + 256 ≤ 65536 ∧
    w.taken.check (who w.cur mem1) ((mem1.atIssue h0).rdS 1) (256 + 256) 1 .read .plain = .ok (.mem (leafTo 0x20000) 0x20000) ∧
    (w.unit w.cur.unit).sb = [] ∧ mem1.loadingAt false 0x20000 512 = false ∧ (∀ i : Fin 512, paKind (0x20000 + i.val) = .mem ∧
      w.plainLine 0 (lineOf (0x20000 + i.val)) ∧ w.pushHeld (lineOf (0x20000 + i.val)) = false) ∧
    z.admits t (opP h0 8 (SSrc.src (s 1))) ∧ (P.parks.find? fun x => x.slot == 4) = some ⟨4, 1, 7⟩ ∧ (z.unit z.cur.unit).sb = [] ∧
    t.loadingAt false 0x20000 17152 = false ∧ z.pushWait = [] ∧ P.parkbase.toNat + 17408 * 4 + 0x100 = 0x20000 ∧ min (Memory.readN z.mem (0x20000 + 0x1C) 4) 16384 = 0 ∧
    (∀ i : Fin 256, paKind (0x20000 + i.val) = .mem ∧ z.plainLine 0 (lineOf (0x20000 + i.val))) := by decide +kernel

/-- A strand that holds the capsule of mortise 1 at stop 2, and its core: twelve stops, a payload of 256 bytes, every stop core 1. -/
def holder (regs' : List (Fin 32 × Word)) : Strand := { regs strand0 regs' with cap := some ⟨1, 2⟩ }

def worldCap (t : Strand) (stops : Nat) : State :=
  mapped (worldIn t fun x =>
    let b := mortOff (.core 0) x 1
    let m := Memory.writeN (Memory.writeN [] (b + 0x18) 1 stops) (b + 0x1C) 4 256
    { x with
      sp := (List.range 12).foldl (fun m j => Memory.writeN m (b + 0x48 + 16 * j) 8 4) m
      mort := x.mort.set 1 (some ⟨1, 0, 5, 0, .running 50⟩) })

theorem witness_CapsuleItineraryChanges :
    let t := holder [(1, 0xFFFFE), (2, 0)]
    let w := worldCap t 11
    let full := worldCap t 12
    let base := mortOff (w.homeUnit t) (w.unit (w.homeUnit t)) 1
    w.memWf ∧ t.cap = some ⟨1, 2⟩ ∧ w.ownLate (w.homeUnit t) = false ∧ full.ownLate (full.homeUnit t) = false ∧
    w.admits t (op h0 8 (SB.src (.imm 31))) ∧
    spPoisoned (w.unit (w.homeUnit t)) (base + 8 * 31) 8 = false ∧ t.dom = w.spByte (w.homeUnit t) (base + 0x1B) ∧
    (w.spByte (w.homeUnit t) (base + 0x18)).toNat = 11 ∧ (full.spByte (w.homeUnit t) (base + 0x18)).toNat = 12 ∧
    w.admits t (op h0 12 (SSrc.src (s 1) ++ SSrc.src (s 2))) ∧ placeOk ((t.atIssue h0).rdS 1).toNat = true ∧
    w.admits t (op h0 8 (SSrc.src (s 2))) ∧ full.admits t (op h0 8 (SSrc.src (s 2))) := by decide +kernel

theorem witness_CapsulesLeaveTheirMortise :
    let t := holder []
    let w := worldCap t 12
    let base := mortOff (w.homeUnit t) (w.unit (w.homeUnit t)) 1
    w.admits t (op h0 8 []) ∧ t.cap = some ⟨1, 2⟩ ∧ (w.unit (w.homeUnit t)).mort[1] = some ⟨1, 0, 5, 0, .running 50⟩ ∧ t.matrixBusy = false ∧ w.ownLate (w.homeUnit t) = false ∧
    Memory.readN (w.unit (w.homeUnit t)).sp (base + 0x18) 1 = 12 ∧ Memory.readN (w.unit (w.homeUnit t)).sp (base + 0x48 + 16 * 3) 8 = 4 ∧
    w.coreAt 0 1 = some (w.pkgNo, 1) := by decide +kernel

theorem witness_ControlRegistersRead :
    let t := holder []
    (world t).admits t { op h0 8 [] with priv := false } ∧ (world t).admits t { op h0 8 [] with priv := true } ∧
    t.cap = some ⟨1, 2⟩ ∧ strand0.cap = none ∧ (world strand0).admits strand0 { op h0 8 [] with priv := false } ∧
    isKp ((world t).homeUnit t) = false ∧
    isKp (State.homeUnit { world strand0 with cur := ⟨.kp 0, 0⟩, units := [(1024, { CoreUnit.reset with strands := [(0, strand0)] })] } strand0) = true := by
  decide +kernel

theorem witness_ControlRegistersWritten :
    let t := regs strand0 [(1, 3), (2, BitVec.ofNat 64 (2 ^ 64 - 2 ^ 21))]
    let x := (world t).unit (.core 0)
    (world t).admits t (opP h0 8 (SSrc.src (s 1))) ∧ (world t).admits t (opP h0 8 (SSrc.src (sK 2))) ∧ x.sb = [] ∧
    (world t).ownLate ((world t).homeUnit t) = false ∧
    ((t.atIssue h0).rdS 1).toNat < 4 ∧ x.strands.length = 1 ∧ x.resvAcc = [] ∧ x.resvSp = none ∧ x.mort[0] = none ∧ x.mort[1] = none ∧
    x.inbox = [] ∧ ((t.atIssue h0).rdS 2).toNat % 2 ^ 21 = 0 ∧ ((t.atIssue h0).rdS 1).toNat % 2 ^ 21 ≠ 0 := by decide +kernel

theorem witness_PrivilegedInstructionsTrapOutsideDomain0 :
    let t := { strand0 with dom := 1 }
    (world t).strand (world t).cur = some t ∧ t.dom ≠ 0 ∧ 0x100 ≤ (0x100 : BitVec 12).toNat ∧ (0x100 : BitVec 12).toNat ≤ 0x10C ∧
    0x110 ≤ (0x12F : BitVec 12).toNat ∧ (0x12F : BitVec 12).toNat ≤ 0x12F ∧ (0x00D : BitVec 12).toNat ∈ [0x008, 0x009, 0x00A, 0x00D] := by decide +kernel

theorem witness_EretLeavesTheHandler :
    let t := { strand0 with handler := some ⟨0x10, 0x10000, 0x20000, 1, 0⟩ }
    let w := world t
    w.admits t { op h0 8 [] with priv := true, falls := false } ∧ t.crossings ≤ 0 ∧ t.depth = 1 ∧ t.lates = [] ∧ w.calm t ∧
    (t.atIssue h0).wins = [window0, window0] ∧ (w.unit w.cur.unit).sb = [] ∧
    w.taken.zeroPlace (who w.cur t) (0x20000 + 16) .read = .ok (leafTo 0x20000, 0x20010) ∧
    w.taken.zeroPlace (who w.cur t) (0x20000 + 8) .read = .ok (leafTo 0x20000, 0x20008) ∧ paKind 0x20010 = .mem ∧
    w.plainLine 0 (lineOf 0x20010) := by decide +kernel

theorem witness_TlbiInvalidates :
    let t := regs strand0 [(1, BitVec.ofNat 64 (2 ^ 55 - 1))]
    (world t).admits t (opP h0 8 []) ∧ (world t).admits t (opP h0 8 (SSrc.src (s 1))) ∧ (world t).calm t ∧ (world t).usesLeft 0 = false ∧
    ((t.atIssue h0).rdS 1).toNat < 2 ^ 55 ∧ (∃ e ∈ (world t).tlb, e.part = t.part ∧ e.vpage / e.span = 5 / e.span) := by decide +kernel

theorem witness_SectionsAreTaggedAndCleared :
    let t := regs strand0 [(1, ownBase + 0x60000), (2, 0x3FF), (3, 0x20000)]
    let w := world t
    w.calm t ∧ regionOf ((t.atIssue h0).rdS 1) = .own 0x60000 ∧ 0x60000 < spSize (w.homeUnit t) (w.unit (w.homeUnit t)) ∧ 0x60000 / 65536 = 6 ∧
    w.admits t (opP h0 8 (SSrc.src (s 1) ++ SSrc.src (s 2))) ∧ ((t.atIssue h0).rdS 2).toNat < 2 ^ 10 ∧ w.admits t (opP h0 8 (SSrc.src (s 1))) ∧
    6 + 1 ≠ spSize (w.homeUnit t) (w.unit (w.homeUnit t)) / 65536 ∧ w.memWf ∧ w.admits t (opP h0 8 (SSrc.src (s 3))) ∧ t.res = none ∧
    w.taken.check (who w.cur t) 0x20000 128 128 .write .plain = .ok (.mem (leafTo 0x20000) 0x20000) ∧ regionOf 0x20000 = .paged ∧
    paKind 0x20000 = .mem ∧ w.quietLine w.cur.unit t (lineOf 0x20000) ∧ w.hostHas (lineOf 0x20000) fullMask = false ∧
    w.uncopied (lineOf 0x20000) = true ∧ (w.die (homeDie (lineOf 0x20000))).failed = false ∧ w.sectBusy (ukey (w.homeUnit t)) 6 = false ∧
    ∀ e ∈ w.allStrands, e.2.loadingOwn = false ∧ e.2.loadingFar 0 (65536 * 6) 65536 = false := by decide +kernel

theorem witness_SnapshotTriggers :
    let w := world strand0
    w.ready = true ∧ (1 : Word).getLsbD 0 = true ∧ w.admits strand0 (opP h0 8 []) ∧ w.calm strand0 ∧
    (let a := { w with snapctl := 0xFF0F }; a.snapctl.getLsbD 0 && a.snapctl.getLsbD 1) = true ∧ (w.snapctl.getLsbD 0) = false := by decide +kernel

theorem witness_HostRegisterAccesses :
    let w : State := { world strand0 with
      slots := [(0, { Slot.reset with st := .idle }), (1, { Slot.reset with st := .read })]
      fns := [(0, Fn.reset 0)], resvs := [⟨0, 128, 3⟩] }
    let used := w.launches.map Prod.fst ++ w.resvs.map Resv.num
    w.ready = true ∧ (w.slot ((0 : Word).toNat % 64)).st = .idle ∧ (w.slot ((1 : Word).toNat % 64)).st ≠ .idle ∧ w.fnPart 0 = some 0 ∧
    (0 : Word).toNat % 128 = 0 ∧ (∀ r ∈ w.resvs, ¬ (r.part = 0 ∧ r.va = (0 : Word))) ∧ 2 ∉ used ∧ 1 ∈ used ∧
    (w.unit (.core 5)).idle = true ∧ w.homesHere (.core 5) = false ∧ (65 : Word).toNat % 64 ≠ (w.unit (.core 5)).tag ∧
    (w.unit (.core 0)).idle = false ∧ ((w.unit (.kp 0)).strands.any fun e => decide (e.1 < 4)) = false ∧
    ((({ w with units := [(1024, { CoreUnit.reset with strands := [(2, strand0)] })] } : State).unit (.kp 0)).strands.any
      fun e => decide (e.1 < 4)) = true ∧ (19 : Word).toNat % 32 < 20 ∧ (w.part 0).tstate ≠ 1 ∧ w.tidy ∧ w.tdiRun 0 = false ∧
    (∃ e ∈ w.allStrands, e.2.part = 0 ∧ e.2.kind ≠ .service) ∧ 6 ≤ (27 : Word).toNat % 32 ∧ (27 : Word).toNat % 32 ≤ 27 ∧
    (5 : Word).toNat % 32 < 6 ∧ 27 < (28 : Word).toNat % 32 ∧ (1 : Word).getLsbD 1 = false ∧ (2 : Word).getLsbD 1 = true := by decide +kernel

/-- Descriptors of queues 3 and 4 of partition 0 at 0x40000, their ring at 0x20000, and a packet there and in the next place. -/
def queues (s : State) : State :=
  let desc (s : State) (q : Nat) := poke (poke (poke (poke s (0x40000 + 64 * q) 8 0x20000) (0x40008 + 64 * q) 8 0x3002) (0x40010 + 64 * q) 8 6)
    (0x40018 + 64 * q) 8 5
  let packet (s : State) (a : Nat) := [(0, 0x30401), (8, 0x10000), (0x10, 0x20100), (0x18, 4), (0x20, 1), (0x28, 0x1000041), (0x30, 0x3F)].foldl
    (fun s e => poke s (a + e.1) 8 e.2) s
  { packet (packet (desc (desc s 3) 4) 0x20000) 0x20080 with
    parts := [(0, { Part.reset with mode := 1, mapbase := 0x8000, qtbase := 0x40000 })]
    fns := [(0, Fn.reset 0)] }

def slot0 : Slot := { Slot.reset with st := .read, part := 0, qnum := 3, ring := 0x20000, log2n := 2, level := 1, weight := 3, head := 5, tail := 5 }
def entry0 : QEntry := ⟨5, 0x20000, 0x10000, 0x40000, 0, 1, 0, 3, none, none, 9, none, none⟩

theorem witness_QueuesAndPlacement_notify :
    let w := queues (mapped (world strand0))
    let s0 := { w with pend := [(0, 4)] }
    let held := { w with slots := [(2, { slot0 with st := .halt, tail := 5, err := 3 })] }
    let busy := { w with slots := (List.range 64).map fun i => (i, { slot0 with qnum := 100 + i }) }
    let lost := { busy with pend := List.replicate 256 (0, 9) }
    let field (q o : Nat) : Nat := Memory.readN w.mem ((w.part 0).qtbase.toNat + 64 * q + o) 8
    let overfull (q : Nat) : Prop := 2 ^ (field q 8 % 32) < outstanding (field q 0x10) (field q 0x18)
    w.ready = true ∧ (3 : Word).toNat < 256 ∧ w.pend = [] ∧ w.slotOf 0 3 = none ∧ w.freeSlot = some 0 ∧ descBad (w.desc 0 3) = false ∧ ¬ overfull 3 ∧
    s0.slotOf 0 4 = none ∧ s0.freeSlot = some 0 ∧ descBad (s0.desc 0 4) = false ∧ ¬ overfull 4 ∧
    held.slotOf 0 3 = some 2 ∧ outstanding (field 3 0x10) (held.slot 2).head ≤ 2 ^ (held.slot 2).log2n ∧
    busy.slotOf 0 3 = none ∧ busy.freeSlot = none ∧ (∀ j : Fin 64, (busy.slot j.val).st ≠ .idle) ∧ (0, 3) ∉ busy.pend ∧ busy.pend.length < 256 ∧
    lost.freeSlot = none ∧ lost.slotOf 0 3 = none ∧ (∀ j : Fin 64, (lost.slot j.val).st ≠ .idle) ∧ (0, 3) ∉ lost.pend ∧
    256 ≤ lost.pend.length := by decide +kernel

theorem witness_QueuesAndPlacement_turn :
    let w := { queues (mapped (world strand0)) with slots := [(0, slot0)] }
    let a := { w with slots := [(0, { slot0 with head := 6 })] }
    let x := w.slot 0
    let k := packetOf (Memory.readBytes w.mem 0x20080 128)
    let field (o : Nat) : Nat := Memory.readN w.mem (0x40000 + 64 * 3 + o) 8
    w.nextTurn.map Prod.fst = some 0 ∧ a.nextTurn.map Prod.fst = some 0 ∧ outstanding (field 0x10) 6 = 0 ∧ outstanding (field 0x10) x.head ≠ 0 ∧ x.packetVa = 0x20080 ∧
    regionOf x.packetVa = .paged ∧ w.xlate 0 0 x.packetVa false [] = .ok (leafTo 0x20000) ∧
    (∀ j : Fin 128, paKind (0x20080 + j.val) = .mem ∧ w.plainLine 0 (lineOf (0x20080 + j.val))) ∧
    (w.packetCheck 0 (Memory.readBytes w.mem 0x20080 128) k).toOption = some [(0, 0)] ∧ k.kind = 1 ∧ regionOf k.entry = .paged ∧
    w.xlate 0 0 k.entry false [] = .ok (leafTo 0x10000) ∧ paBacked (leafAddr (leafTo 0x10000) k.entry) = true := by decide +kernel

theorem witness_QueuesAndPlacement_admit :
    let k := { packet0 with dep1 := (0x20300, 5) }
    let w := { queues (mapped (world strand0)) with slots := [(0, { slot0 with st := .depwait, packet := some packet0 })] }
    let d := { w with slots := [(0, { slot0 with st := .depwait, packet := some k })] }
    let a := { w with slots := [(0, { slot0 with st := .placewait, packet := some packet0, cores := [(0, 1)] })] }
    let free := a.modUnit (.core 1) fun x => { x with acc := [] }
    (w.slot 0).st = .depwait ∧ packet0.dep1.1 = 0 ∧ packet0.dep2.1 = 0 ∧ k.dep2.1 = 0 ∧ k.dep1.1 ≠ 0 ∧ regionOf k.dep1.1 = .paged ∧
    d.xlate 0 0 k.dep1.1 false [] = .ok (leafTo 0x20000) ∧ paKind 0x20300 = .mem ∧ d.plainLine 0 (lineOf 0x20300) ∧
    (free.slot 0).st = .placewait ∧ (free.part 0).tstate = 0 ∧ free.heldBack 0 = false ∧
    ((free.slot 0).cores.all fun e => free.fitsNow packet0 e.2) = true ∧ free.launchNo 0 (free.slot 0).packetVa = some 2 := by decide +kernel

theorem witness_QueuesAndPlacement_entries :
    let la := { launch0 with pkt := { packet0 with pinned := true } }
    let w := { world strand0 with launches := [(1, la)] }
    let f := (world strand0).setQueue (.tile 0 3) ⟨List.replicate 3 entry0, [entry0], 0⟩
    let p := { world strand0 with pushWait := [(9, (.tile 0 3, entry0))] }
    la.pkt.kind = 1 ∧ la.isPinned = true ∧ la.coreIdx 1 = some 1 ∧ la.nextIdx 1 = some 1 ∧ (w.queue (.core 1)).ring = [] ∧
    (w.tile 0).holds (.core 1) = false ∧ w.waitsAtHome (.core 1) = false ∧ (w.queue (.core 1)).q.length < 64 ∧
    (f.queue (.tile 0 3)).ring = [entry0] ∧ (f.queue (.tile 0 3)).q.length < queueCap (.tile 0 3) ∧
    NMap.find p.pushWait 9 = some (.tile 0 3, entry0) ∧ (∀ e ∈ p.pushWait, e.1 < 9 → e.2.1 ≠ .tile 0 3) ∧ (p.queue (.tile 0 3)).ring = [] ∧
    (p.tile (queueTile (.tile 0 3))).holds (.tile 0 3) = false := by decide +kernel

def message0 : Message := ⟨#v[1, 2, 3, 4], 0x10020, 7, 1, true, 0, 5, 50, 2, 0, 1, 9, none⟩

theorem witness_WorkStarts :
    let w := world strand0
    let m := w.modUnit (.core 1) fun x => { x with inbox := [.msg message0] }
    let st (e : QEntry) : State := { w.setQueue (.tile 0 3) ⟨[e], [], 0⟩ with launches := [(1, { launch0 with next := [(0, 9)] })] }
    let saved : QEntry := { entry0 with mark := some ⟨50, [], [], 0, 0, 0, 50, []⟩, saved := some ⟨0, 3, .record, some 1, some (1, 2)⟩ }
    let ck : Mort := ⟨1, 0, 0, 0, .landed⟩
    let cp := w.modUnit (.core 1) fun x => { x with mort := x.mort.set 0 (some ck) }
    let kp := w.modUnit (.kp 0) fun x => { x with en := true, strands := [(2, strand0)] }
    w.ready = true ∧ (w.unit (.core 1)).en = true ∧ (w.part 0).tstate = 0 ∧ w.freeCtx (.core 1) = some 0 ∧ w.freeStore (.core 1) = some 0 ∧
    m.freeCtx (.core 1) = some 0 ∧ m.chooseWork 1 = some (.message message0) ∧ m.workStore (.core 1) (.message message0) = some 0 ∧
    (st entry0).freeCtx (.core 1) = some 0 ∧
    (∃ p, (st entry0).chooseWork 1 = some (.entry (.tile 0 3) entry0 p)) ∧ (∃ p, (st saved).chooseWork 1 = some (.entry (.tile 0 3) saved p)) ∧
    (st saved).workStore (.core 1) (.entry (.tile 0 3) saved none) = some 2 ∧
    cp.freeCtx (.core 1) = some 0 ∧ cp.chooseWork 1 = some (.capsule 0 ck 0) ∧
    Memory.readN (cp.unit (.core 1)).sp (mortOff (.core 1) (cp.unit (.core 1)) 0 + 0x19) 1 = 0 ∧ w.chooseWork 1 = some (.index launch0 0 0) ∧
    (kp.strand ⟨.kp 0, (0x20002 : Word).toNat % 4⟩).isSome = true ∧ kp.strand ⟨.kp 0, (0x20001 : Word).toNat % 4⟩ = none ∧
    (kp.unit (.kp 0)).en = true ∧ regionOf 0x20000 = .paged ∧ kp.xlate 0 (kp.unit (.kp 0)).tag 0x20000 false [] = .ok (leafTo 0x20000) ∧
    paKind 0x20000 = .mem ∧ kp.plainLine 0 (lineOf 0x20000) ∧ kp.freeStore (.kp 0) = some 1 := by
  refine ⟨?_, ?_, ?_, ?_, ?_, ?_, ?_, ?_, ?_, ⟨some 0, ?_⟩, ⟨some 1, ?_⟩, ?_, ?_, ?_, ?_, ?_, ?_, ?_, ?_, ?_, ?_, ?_, ?_, ?_⟩ <;> decide +kernel

/-- A save area at 0x20000 that names o1, with a value, and k1, undetermined; its forty lines are in the L2. -/
theorem witness_WorkStarts_restores :
    let t := { strand0 with wins := [window0], depth := 0, slot := some (0, 3) }
    let w : State := { poke (poke (poke (world t) 0x20000 8 (2 ^ 3 + 2 ^ 58)) 0x20038 8 2) 0x20108 8 77 with
      lines := (List.range 40).map fun i => (0x400 + i, lineIn) }
    let r (o : Nat) : Nat := Memory.readN w.mem (0x20000 + o) 8
    t.lates = [] ∧ (∃ w0, t.wins = [w0]) ∧ (w.unit (.core 0)).sb = [] ∧ (w.unit (.core 0)).inbox.length ≤ 64 ∧ 0x20000 % 256 = 0 ∧
    (∀ a, a < 0x1400 → paKind (0x20000 + a) = .mem ∧ w.plainLine t.part (lineOf (0x20000 + a)) ∧ w.pushHeld (lineOf (0x20000 + a)) = false) ∧
    r 0 / 2 ^ 50 % 2 ^ 8 = 0 ∧ r 0x28 % 128 = 0 ∧ r 0x10 / 2 ^ 7 % 2 = 0 ∧ r 0x10 / 2 ^ 31 % 4 ≠ 2 ∧ r 0 / 2 ^ 3 % 2 = 1 ∧ r 0x108 = 77 := by
  refine ⟨?_, ⟨window0, ?_⟩, ?_, ?_, ?_, ?_, ?_, ?_, ?_, ?_, ?_, ?_⟩
  case refine_6 =>
    intro a ha
    have hL : lineOf (0x20000 + a) = 0x400 + a / 128 := by unfold lineOf; omega
    refine ⟨?_, ?_⟩
    · unfold paKind
      rw [if_pos (by omega), if_pos (by omega)]
    rw [hL]
    obtain ⟨i, hi, he⟩ : ∃ i, i < 40 ∧ a / 128 = i := ⟨a / 128, by omega, rfl⟩
    rw [he]
    clear he hL ha
    revert i
    decide +kernel
  all_goals decide +kernel

theorem witness_SchedulingEvents :
    let w := world strand0
    let t := { strand0 with arrived := some .tile, hold := some .barrier, limit := some 9 }
    let b := world t
    let la := { launch0 with pkt := { packet0 with det := true, n := 1 }, cores := [(0, 0)], next := [(0, 9)] }
    let bd := { world t with launches := [(1, la)] }
    let tw := { strand0 with hold := some (.timed (some (0, 3))), limit := some 9 }
    let ti := { strand0 with hold := some (.idle 0 0 true), limit := some 9 }
    let done := { launch0 with next := [(0, 9), (1, 9), (2, 9), (3, 9)], pkt := { packet0 with done := 0x20018, inc := 3 } }
    let idle := { w.modUnit (.core 0) (fun x => { x with strands := [] }) with launches := [(1, done)] }
    w.pick (.core 0) = some 0 ∧ w.strand ⟨.core 0, 0⟩ = some strand0 ∧
    bd.tidy ∧ bd.phaseDone la .tile ([0].filter fun p => groupOf .tile p == 0) = true ∧
    (∃ e ∈ bd.allStrands, e = (⟨.core 0, 0⟩, t)) ∧ b.itsPhaseDone ⟨.core 0, 0⟩ t = false ∧ (world tw).stillHeld ⟨.core 0, 0⟩ tw = true ∧
    (world ti).stillHeld ⟨.core 0, 0⟩ ti = true ∧ la.pkt.det = true ∧
    (({ world strand0 with launches := [(1, la)] } : State).floorOf la) ≠ [] ∧
    done.num = 1 ∧ done.exhausted = true ∧ idle.launchBusy 1 = false ∧ (idle.part 0).tstate ≠ 2 ∧ idle.usesLeft 0 = false ∧ idle.invs = [] ∧ idle.flights = [] ∧
    idle.memWf ∧
    regionOf done.pkt.done = .paged ∧ idle.xlate 0 0 done.pkt.done true [] = .ok (leafTo 0x20000) ∧ paKind 0x20018 = .mem ∧
    idle.plainLine 0 (lineOf 0x20018) ∧ idle.pushHeld (lineOf 0x20018) = false ∧ packet0.done = 0 := by
  decide +kernel

/-- Sixteen strands of a pre-emptible launch hold core 0, strand 65 started last; a second record waits for another strand's end. -/
theorem witness_SchedulingEvents_preempts :
    let e := { entry0 with ctl := 7 }
    let la := { launch0 with pkt := { packet0 with preempt := true } }
    let f (i : Nat) : Strand := { strand0 with sid := 50 + i, startNo := i, preempt := i == 3 }
    let c : CtxRef := ⟨.core 0, 7⟩
    let w : State := { ((world strand0).modUnit (.core 0) fun x => { x with strands := (List.range 8).map fun i => (i, f i) }).setQueue
      (.core 0) ⟨[{ e with asked := some 53 }, e], [], 0⟩ with launches := [(1, la)] }
    (w.queue (.core 0)).q = [{ e with asked := some 53 }] ++ e :: [] ∧ w.asks (.core 0) { e with asked := some 53 } = none ∧
    (∀ p ∈ w.eligible (.core 0) e, w.freeCtx (.core p) = none) ∧ (∀ y ∈ w.allStrands, e.asked = some y.2.sid → y.2.preempt = false) ∧
    (c, f 7) ∈ w.allStrands ∧ (∃ p ∈ w.eligible (.core 0) e, c.unit = .core p) ∧
    (f 7).prio < Nat.min (ctlPrio e.ctl) 7 ∧
    (f 7).preempt = false ∧ (f 7).kind ≠ .service ∧ (∃ z, w.launch (f 7).launch = some z ∧ z.pkt.preempt = true) ∧
    (∀ y ∈ w.allStrands, y ≠ (c, f 7) → y.2.startNo < (f 7).startNo) := by
  refine ⟨?_, ?_, ?_, ?_, ?_, ⟨0, ?_, rfl⟩, ?_, ?_, ?_, ⟨{ launch0 with pkt := { packet0 with preempt := true } }, ?_⟩, ?_⟩
  · decide +kernel
  · decide +kernel
  · decide +kernel
  · decide +kernel
  · decide +kernel
  · decide +kernel
  · decide +kernel
  · decide +kernel
  · decide +kernel
  · decide +kernel
  · decide +kernel

theorem witness_CachesAndReplicas :
    let f : Fill := ⟨0x400, false, true, false, 0, 77⟩
    let w : State := { worldIn strand0 fun x => { x with fills := [f, { f with live := false }] } with
      repFills := [⟨1, 5, 0, false, true, 6⟩, ⟨1, 6, 0, false, false, 7⟩], invs := [⟨1, 7, [50], [], false⟩], reps := [⟨1, 7, 0, true, 3⟩]
      regions := [(0, ⟨1, 70, 3⟩)] }
    let t := { strand0 with acq := some ⟨5, 1, 3, false⟩, hold := some .acquire }
    let a (sat : Bool) (tab : List (Nat × Nat)) := worldIn t fun x =>
      { x with acqTab := tab, replies := [⟨51, ⟨0x401, 3, 0, true⟩⟩, ⟨50, ⟨0x400, 3, 0, sat⟩⟩] }
    (w.unit (.core 0)).fills[0]? = some f ∧ f.live = true ∧ (w.unit (.core 0)).fills[1]? = some { f with live := false } ∧
    w.repFills[0]?.map RepFill.live = some true ∧ w.repFills[1]?.map RepFill.live = some false ∧ w.invs[0]? = some ⟨1, 7, [50], [], false⟩ ∧
    (w.line 0x400).owner = some 0 ∧ (w.regions.map Prod.fst).Nodup ∧ (0, (⟨1, 70, 3⟩ : Region)) ∈ w.regions ∧
    NMap.find w.regions 5 = none ∧ (a true []).tidy ∧ ((a true []).unit (.core 0)).replies[1]? = some ⟨50, ⟨0x400, 3, 0, true⟩⟩ ∧
    ((a false [(0x400, 3)]).unit (.core 0)).replies[1]? = some ⟨50, ⟨0x400, 3, 0, false⟩⟩ ∧ (a false [(0x400, 3)]).tidy ∧
    (∀ y ∈ ((a true []).unit (.core 0)).replies.take 1, sliceNo y.info.line ≠ sliceNo 0x400) ∧
    ((a false [(0x400, 3)]).unit (.core 0)).acqTab.find? (fun y => y.1 == 0x400) = some (0x400, 3) ∧
    (a true []).findSid 50 = some (⟨.core 0, 0⟩, t) := by decide +kernel

theorem witness_HomesServeContributionsAndTheHost :
    let r : HomeReq := ⟨.core 0, 50, 0, 0x20008, true, 5, 9, none⟩
    let w : State := { world strand0 with homeReqs := [(89, { r with sid := 51, pa := 0x20010 }), (90, r)], snoops := [⟨0x402, true⟩], hostOwn := [(0x402, true)] }
    NMap.find w.homeReqs 90 = some r ∧
    (∀ e ∈ w.homeReqs, e.1 < 90 → (e.2.sid = r.sid → lineOf e.2.pa ≠ lineOf r.pa) ∧ (e.2.key = r.key → e.2.pa ≠ r.pa)) ∧ paKind r.pa = .mem ∧
    w.plainLine r.part (lineOf r.pa) ∧ (w.die (homeDie (lineOf 0x20000))).failed = false ∧
    w.pushHeld (lineOf r.pa) = false ∧ w.reds = [] ∧ w.slotWords (sliceNo (lineOf r.pa)) < 256 ∧ w.memWf ∧
    visibleOk 0x20000 64 = true ∧ (∀ L, w.pushHeld L = false) ∧ paOfVisible 0x20000 = 0x20000 ∧
    (∀ i : Fin 64, paKind (0x20000 + i.val) = .mem ∧ w.hasSlots (lineOf (0x20000 + i.val)) = false ∧
      (w.line (lineOf (0x20000 + i.val))).poison = false ∧ (w.line (lineOf (0x20000 + i.val))).dram ≠ .poisoned ∧
      w.stale (w.line (lineOf (0x20000 + i.val))) = false ∧ (w.die (homeDie (lineOf (0x20000 + i.val)))).failed = false) ∧
    w.snoops.contains ⟨0x402, true⟩ = true ∧ paKind (128 * 0x402) = .mem ∧ (w.die (homeDie 0x402)).failed = false := by
  refine ⟨?_, ?_, ?_, ?_, ?_, ?_, ?_, ?_, ?_, ?_, fun L => rfl, ?_, ?_, ?_, ?_, ?_⟩ <;> decide +kernel

theorem witness_TranslationEvents :
    let leaf : Walk := ⟨0, 0, 9, false, .leaf (leafTo 0x20000) 16 [(7, 1)], [0x20008], [], [.strand 50]⟩
    let both : Walk := { leaf with write := true, dSet := [0x20008] }
    let f : WalkFault := ⟨none, true, 2, false, 5, false⟩
    let fault : Walk := { leaf with aSet := [], res := .fault f [(7, 1)] }
    let w : State := { world strand0 with
      walks := [(5, leaf), (6, fault), (7, both)], atsReqs := [(5, ⟨0, 1, 2, 3, .strand 50⟩)] }
    NMap.find w.walks 5 = some leaf ∧ w.hasWalker 5 0 = true ∧ NMap.find w.walks 7 = some both ∧ (w.part 0).tstate ≠ 2 ∧ w.hasWalker 7 0 = true ∧
    paKind 0x20008 = .mem ∧ w.plainLine 0 (lineOf 0x20008) = true ∧ w.memWf ∧
    w.bitOff 0 0x20008 (lineOf 0x20008) ∧ (w.mem.read 0x20008).getLsbD 4 = false ∧ NMap.find w.walks 6 = some fault ∧ w.hasWalker 6 0 = true ∧ fault.who = [.strand 50] ∧
    w.findSid 50 = some (⟨.core 0, 0⟩, strand0) ∧
    w.ready = true ∧ (0x10200 : Word).toNat / 2 ^ 8 % 4 ≠ 3 ∧ w.usesLeft 0 = false ∧ NMap.find w.atsReqs 5 = some ⟨0, 1, 2, 3, .strand 50⟩ := by
  decide +kernel

def fault0 : FaultRec := ⟨7, some 9, 0, 0, 0, true, false, .strand 60, 1, 3, 1, #v[0x20000, 1, 2, 3, 4, 5]⟩

theorem witness_FaultsAreAnswered :
    let t := regs strand0 [(1, 9), (2, 8)]
    let p := { strand0 with sid := 60, hold := some .parked, faults := [7] }
    let w : State := { (world t).modUnit (.core 1) fun x => { x with strands := [(2, p)] } with
      faults := [fault0, { fault0 with id := 8, fid := some 10, host := true }, { fault0 with id := 11, fid := none }] }
    w.admits t (opP h0 8 (SSrc.src (s 1) ++ SB.src (.imm 1))) ∧ w.admits t (opP h0 8 (SSrc.src (s 2) ++ SB.src (.imm 0))) ∧ w.calm t ∧
    w.faultOf ((t.atIssue h0).rdS 1).toNat = some fault0 ∧ (∀ g ∈ w.faults, g.fid ≠ some ((t.atIssue h0).rdS 2).toNat) ∧
    fault0.part = t.part ∧ fault0.vf = 0 ∧ fault0.host = false ∧ w.tidy ∧ fault0.who = .strand p.sid ∧ w.findSid 60 = some (⟨.core 1, 2⟩, p) ∧
    p.trap = none ∧ p.denied = none ∧ ukey (UnitRef.core 1) ≠ ukey w.cur.unit ∧ w.ready = true ∧
    w.faultOf ((0x1_0000_0009 : Word).toNat % 2 ^ 32) = some fault0 ∧ w.faultOf 10 = some { fault0 with id := 8, fid := some 10, host := true } ∧
    (w.faults.find? fun g => g.id == 11 && g.fid.isNone) = some { fault0 with id := 11, fid := none } ∧
    w.pfRequests < 64 ∧ ((w.die 0).fbtail - (w.die 0).fbhead).toNat < 4096 := by decide +kernel

def trap0 : TrapInfo := ⟨0x13, 2, 3, 0x10010, 0x10018, 0x1234, 5, 6, 1, 3⟩
def handler0 : Handler := ⟨0x10, 0x10000, 0x20000, 1, 0⟩

theorem witness_TrapsSavesAndPoison_traps :
    let t := { strand0 with wins := [window0], depth := 0, store := 0, trap := some trap0 }
    let w := { world t with lines := [(0x9FF, lineIn)] }
    let d := { strand0 with trap := some trap0, handler := some handler0 }
    let r := { strand0 with returning := true, home := some ⟨.core 0, 3⟩, hold := some .trap }
    let z := (world strand0).modUnit (.kp 0) fun x => { x with strands := [(4, r)] }
    w.strand ⟨.core 0, 0⟩ = some t ∧ t.faults = [] ∧ (w.part t.part).tstate ≠ 2 ∧ w.canMigrate ⟨.core 0, 0⟩ t (leafTo 0x40000) 0x4FFC0 ∧
    (world d).strand ⟨.core 0, 0⟩ = some d ∧ d.cap = none ∧ z.strand ⟨.kp 0, 4⟩ = some r ∧ ukey (UnitRef.core 0) ≠ ukey (UnitRef.kp 0) ∧
    z.freeCtx (.core 0) = some 1 := by unfold State.canMigrate; decide +kernel

theorem witness_TrapsSavesAndPoison_saves :
    let t := { strand0 with wins := [window0], depth := 0, saving := some 0x10020, mask := some 5, preempt := true }
    let w : State := { world t with
      dies := (world t).dies.map fun (d : Die) => ({ d with savebase := 0x100000 } : Die)
      lines := [(0x400, { lineIn with dirty := true }), (0x401, { lineIn with owner := none })] }
    w.strand ⟨.core 0, 0⟩ = some t ∧ (∀ e ∈ w.allStrands, e.2.loadingOwn = false ∧ e.2.loading = false) ∧ (w.part t.part).tstate ≠ 2 ∧ t.faults = [] ∧ t.returning = false ∧ (w.unit (.core 0)).sb = [] ∧ w.hostOwn = [] ∧
    (∀ L, w.hostHas L fullMask = false) ∧ w.calmAt (.core 0) t ∧ t.lates = [] ∧ t.cmdBusy = false ∧ t.frames = [] ∧ t.kind = .record ∧
    t.cap = none ∧ w.freeSave 0 = some 0 ∧ w.pushWait = [] ∧ (∀ q, (w.queue q).q = [] ∧ (w.queue q).ring = []) ∧ (∀ x, (w.tile x).ovf = []) ∧
    w.launch 1 = some launch0 ∧ (∃ e ∈ w.allStrands, e = (⟨.core 0, 0⟩, t)) ∧ (w.line 0x400).owner.isSome = true ∧ (w.line 0x400).dirty = true ∧
    (w.line 0x401).owner = none := by
  refine ⟨?_, ?_, ?_, ?_, ?_, ?_, ?_, fun L => rfl, ?_, ?_, ?_, ?_, ?_, ?_, ?_, ?_, ?_, ?_, ?_, ?_, ?_, ?_, ?_⟩
  case refine_16 =>
    intro q; cases q with
    | core n => rcases n with _ | _ | n <;> exact ⟨rfl, rfl⟩
    | tile a b => rcases a with _ | a <;> exact ⟨rfl, rfl⟩
  case refine_17 => intro x; rcases x with _ | x <;> rfl
  all_goals decide +kernel

def capsule0 : Capsule := ⟨.replicate 256 0, .replicate 40 1, 1, 0, 0, none⟩

theorem witness_CapsulesTravel_enter :
    let p : ParkWait := ⟨5, capsule0, 0x13, 0x10, false, 0, 2, none⟩
    let w : State := { mapped (world strand0) with
      parkWait := [(5, p)], flights := [(5, .hop 1 1 3 capsule0)], parts := [(0, { Part.reset with mode := 1, mapbase := 0x8000, parkbase := 0x100000 })] }
    NMap.find w.parkWait 5 = some p ∧ (∀ e ∈ w.parkWait, e.1 < 5 → e.2.cap.part ≠ 0) ∧ w.freePark 0 = some 0 ∧
    NMap.find w.flights 5 = some (.hop 1 1 3 capsule0) ∧ w.memWf ∧ (w.part 0).tstate = 0 ∧ w.coreAt 0 1 = some (w.pkgNo, 1) ∧ (w.tile 0).ovf = [] ∧
    freeMort (w.unit (.core 1)) = some 0 ∧ capsule0.pfx.length = 256 := by decide +kernel

theorem witness_CapsulesTravel_batch :
    let la := { launch0 with pkt := { packet0 with kind := 2, args := 0x20000, n := 1 } }
    let w : State := { poke (poke (world strand0) 0x20000 8 0x20100) 0x2011C 4 40 with launches := [(1, la)] }
    let r := (w.modLaunch 1 fun l => { l with next := NMap.set l.next 0 1 }).feRead 0 0x20000 8
    let b := (r.1.batchImage 0 0x20100).2
    w.launch 1 = some la ∧ la.exhausted = false ∧ (w.part 0).tstate ≠ 2 ∧ r.2.toOption = some [0, 1, 2, 0, 0, 0, 0, 0] ∧ (0x20100 : Nat) % 256 = 0 ∧
    (b.1, b.2.1.length, b.2.2.length) = (0, 256, 40) := by decide +kernel

theorem witness_CapsulesTravel_retire :
    let r : Retire := ⟨5, 50, capsule0.put 8 8 0x20078, 0, [], 4, 0, [], [], .core 0, 0, 0, 0, []⟩
    let e := { r with pos := 40 }
    let w : State := { world strand0 with retires := [(5, r)] }
    let va := r.cap.exit + BitVec.ofNat 64 r.pos
    NMap.find w.retires 5 = some r ∧ r.faults = [] ∧ (w.part 0).tstate ≠ 2 ∧ r.pos < r.cap.payload.length ∧
    Nat.min (128 - va.toNat % 128) (r.cap.payload.length - r.pos) = 4 ∧ (w.asReached r.at_).engPlace r.who va 4 .write = .ok (.mem (leafTo 0x20000) 0x2007C) ∧
    paKind 0x2007C = .mem ∧ 0x2007C % 128 = va.toNat % 128 ∧ w.plainLine 0 (lineOf 0x2007C) ∧ w.pushHeld (lineOf 0x2007C) = false ∧
    w.memWf ∧ e.cap.payload.length ≤ e.pos ∧ e.cap.done = 0 := by decide +kernel

theorem witness_MessagesAndRemoteAccessesArrive :
    let d : Deposit := ⟨0, 3, 2, 0x77, false, 0, 0, 0, 0, 1, none⟩
    let t := { strand0 with sid := 60, unack := 1 }
    let at_ (f : Flight) (x : CoreUnit → CoreUnit) : State :=
      { (mapped (world strand0)).modUnit (.core 1) (fun y => x { y with strands := [(2, t)] }) with flights := [(5, f)] }
    let w := at_ (.message 60 0 1 message0) id
    let a := at_ (.access 60 0 0 1 1 0x10 0 (.load 8)) id
    let bad := at_ (.access 60 0 0 1 1 0x10 1 (.load 8)) id
    let hq : State := { w with fns := [(0, Fn.reset 0), (2, { Fn.reset 0 with hsq := [(3, { HostQ.reset with ring := 0x1000, en := true, log2n := 6 })] })] }
    (∀ e ∈ w.flights, 5 ≤ e.1) ∧ w.pkgNo = 0 ∧ (w.unit (.core 1)).inbox.length < 64 ∧ (w.tile 0).ovf = [] ∧
    w.strand ⟨.core 1, 3⟩ = none ∧ w.strand ⟨.core 1, 2⟩ = some t ∧ w.mayLand (w.unit (.core 1)) t { d with id := w.nextId, sid := some 60 } = true ∧
    w.findSid 60 = some (⟨.core 1, 2⟩, t) ∧ NMap.find a.flights 5 = some (.access 60 0 0 1 1 0x10 0 (.load 8)) ∧
    checkSect (.core 1) (a.unit (.core 1)) 0x10 8 .read 0 = true ∧ spPoisoned (a.unit (.core 1)) 0x10 8 = false ∧ a.tidy ∧ a.memWf ∧
    checkSect (.core 1) (bad.unit (.core 1)) 0x10 8 .read 1 = false ∧ checkSect (.core 1) (a.unit (.core 1)) 0x10 8 .write 0 = true ∧
    checkSect (.core 1) (a.unit (.core 1)) 0x10 8 .write 1 = false ∧ (NMap.getD (hq.fn 2).hsq 3 HostQ.reset).en = true ∧
    (NMap.getD (hq.fn 2).hsq 4 HostQ.reset).en = false ∧ (0 + 2 ^ 64 - 0) % 2 ^ 32 ≠ 2 ^ 6 ∧ hq.memWf ∧ hq.ready = true ∧ hq.fnPart 0 = some 0 ∧
    hq.coreAt 0 ((0x500000001 : Word).toNat % 2 ^ 18) = some (0, 1) := by decide +kernel

theorem witness_SwitchAndLinks :
    let m := { message0 with key := 9 }
    let g : Group := ⟨[(0, 9), (0, 8), (1, 9)], 1, [⟨1, 1, message0⟩], [2]⟩
    let w : State := { world strand0 with groups := [(7, g), (8, { g with got := [] })], flights := [(5, .collective 60 7 1 2 m)] }
    NMap.find w.flights 5 = some (.collective 60 7 1 2 m) ∧ NMap.find w.groups 7 = some g ∧ NMap.find w.groups 6 = none ∧
    ((List.range g.members.length).find? fun k => g.members.getD k (0, 0) == (w.pkgNo, m.key)) = some 0 ∧ 0 ∉ g.late ∧
    (∀ c ∈ g.got, c.idx ≠ 0) ∧ (∃ j ∈ List.range g.members.length, j ≠ 0 ∧ ∀ c ∈ g.got, c.idx ≠ j) ∧
    NMap.find w.groups 8 = some { g with got := [] } ∧ w.ready = true ∧ w.portDown 3 17 = false ∧ (24 : BitVec 256).getLsbD 3 = true ∧
    (24 : BitVec 256).getLsbD 4 = true ∧ (24 : BitVec 256).toNat % 8 ≠ 6 ∧ w.gw = [] ∧ (0 : BitVec 256).getLsbD 3 = false := by decide +kernel

def fill0 : CCmd := ⟨33, 50, 2, .fill 0x7F_FFFF_FFC0_0010 0x0102030405060708 200, 0, [], false, 0, 1, 0, 0⟩

theorem witness_EnginesRun :
    let z : MCmd := ⟨3, 50, .zero 1⟩
    let l : MCmd := ⟨4, 50, .lda 1 16 32⟩
    let w := worldIn strand0 fun x => { x with mq := [z, l], cq := [fill0] }
    let run (c : CCmd) (pos : Nat) (ready : Bool) : State := worldIn strand0 fun x =>
      { x with mrun := some l, chan := x.chan.set 2 { x.chan[2] with cmd := some c, pos := pos, ready := ready } }
    let place (c : CCmd) (s : State) := s.chanPlace (.core 0) c ((s.unit (.core 0)).chan[2]) 0x7F_FFFF_FFC0_0074 12 .write
    let a := run fill0 100 false
    let b := run { fill0 with dom := 1 } 100 false
    let r := run fill0 100 true
    let e := run fill0 200 true
    (w.unit (.core 0)).mrun = none ∧ (w.unit (.core 0)).mq = [z, l] ∧ (w.unit (.core 0)).cq = [fill0] ∧
    ((w.unit (.core 0)).chan[2]).cmd = none ∧ a.copyWaits fill0 = false ∧ b.copyWaits { fill0 with dom := 1 } = false ∧ (a.unit (.core 0)).mrun = some l ∧
    ((a.unit (.core 0)).chan[2]).cmd = some fill0 ∧ a.chanStands fill0 = false ∧ ((a.unit (.core 0)).chan[2]).pos < 200 ∧
    ((a.unit (.core 0)).chan[2]).faults = [] ∧
    Nat.min (128 - (0x7F_FFFF_FFC0_0010 + BitVec.ofNat 64 100 : Word).toNat % 128) (200 - 100) = 12 ∧
    place fill0 a = .ok (.own 0x74) ∧ place { fill0 with dom := 1 } b = .error (.trap cRIGHTS) ∧
    ((r.unit (.core 0)).chan[2]).ready = true ∧ r.memWf ∧ place fill0 r = .ok (.own 0x74) ∧
    fill0.op.total ≤ ((e.unit (.core 0)).chan[2]).pos ∧ e.tidy ∧ e.findSid fill0.sid = some (⟨.core 0, 0⟩, strand0) := by decide +kernel

/-- The matrix engine runs a command of strand 50. -/
def running (op : MOp) : State := worldIn strand0 fun x => { x with mrun := some ⟨4, 50, op⟩ }

theorem witness_EnginesRun_matrix :
    (((running (.mma .f16 false true 1 0x100 128 0x2000 128)).unit (.core 0)).mrun = some ⟨4, 50, .mma .f16 false true 1 0x100 128 0x2000 128⟩) ∧
    (((running (.bx4 1 0x100 16 0x2000 64 0x4000 0x5000)).unit (.core 0)).mrun = some ⟨4, 50, .bx4 1 0x100 16 0x2000 64 0x4000 0x5000⟩) ∧
    (running (.sta .bx4 false true 1 0x100 16 0x4000)).memWf ∧
    (∀ q : Fin 128, ∀ i : Fin 32, ¬ (0x100 + 16 * i.val ≤ 0x4000 + q.val ∧ 0x4000 + q.val < 0x100 + 16 * i.val + 16)) ∧
    (running (.mova 1 3 9)).tidy ∧ (running (.mova 1 3 9)).findSid 50 = some (⟨.core 0, 0⟩, strand0) := by decide +kernel

/-- A channel of core 0 delivers bytes of a command from position 16, whose page is reached. -/
def delivering (op : COp) : CCmd × Channel × State :=
  let c : CCmd := ⟨33, 50, 2, op, 0, [], false, 0, 1, 0, 0⟩
  let w := worldIn strand0 fun x => { x with chan := x.chan.set 2 { x.chan[2] with cmd := some c, pos := 16, ready := true } }
  (c, (w.unit (.core 0)).chan[2], w)

theorem witness_EnginesRun_copies :
    let own (o : Nat) : Word := 0x7F_FFFF_FFC0_0000 + BitVec.ofNat 64 o
    let goes (op : COp) (from_ at_ : Word) (left n : Nat) (p q : Place) : Prop :=
      let (c, y, w) := delivering op
      y.cmd = some c ∧ y.ready = true ∧ w.memWf ∧ y.pos < op.total ∧ n = Nat.min (128 - at_.toNat % 128) left ∧ n ≤ 128 - from_.toNat % 128 ∧
        w.chanStands c = false ∧ w.chanPlace (.core 0) c y at_ n .write = .ok q ∧ w.chanPlace (.core 0) c y from_ n .read = .ok p ∧ y.old = []
    goes (.cpy (own 0x100) (own 0x400) 64) (own 0x410) (own 0x110) 48 48 (.own 0x410) (.own 0x110) ∧
    goes (.cpy (own 0x100) 0x20000 64) 0x20010 (own 0x110) 48 48 (.mem (leafTo 0x20000) 0x20010) (.own 0x110) ∧
    goes (.cpy2 (own 0x100) (own 0x400) 3 32 64 12) (own 0x424) (own 0x144) 8 8 (.own 0x424) (.own 0x144) ∧
    (let op := COp.cpyg (own 0x100) (own 0x400) (own 0x800) 3 32 12
     goes op (own 0x404) (own 0x110) 8 8 (.own 0x404) (.own 0x110) ∧ (delivering op).2.2.chanPlace
       (.core 0) (delivering op).1 (delivering op).2.1 (own 0x804) 4 .read = .ok (.own 0x804) ∧
     spPoisoned ((delivering op).2.2.unit (.core 0)) 0x804 4 = false ∧ Memory.readN ((delivering op).2.2.unit (.core 0)).sp 0x804 4 = 0) ∧
    spPoisoned ((delivering fill0.op).2.2.unit (.core 0)) 0 0x1000 = false ∧ paKind 0x20010 = .mem ∧
    (delivering fill0.op).2.2.plainLine 0 (lineOf 0x20010) = true := by decide +kernel

theorem witness_TenantsAndPower :
    let w : State := { world strand0 with fns := [(0, Fn.reset 0), (3, { Fn.reset 1 with tdi := .run })] }
    w.ready = true ∧ w.tdiRun 0 = false ∧ (w.fn 3).bind = 1 ∧ w.tidy ∧ w.launch 1 = some launch0 ∧ launch0.num = 1 ∧ launch0.part = 0 ∧
    ((world strand0).fn 1).bind = 1 ∧ State.reset.ready = false ∧ State.reset.phase = 1 := by decide +kernel

/-! ### The whole machine -/

theorem witness_StepKeepsCanonicalForm :
    let w : State := { world strand0 with issuing := false, agenda := [.activityForecast] }
    w.canonical = true ∧ (match step w with | .next s' => s'.canonical && s'.agenda.isEmpty | _ => false) = true := by decide +kernel

theorem witness_DecodeAndEncodeAgree :
    (Instr.nop h0).wf = true ∧ (Instr.nop h0).isEvent = false ∧
    decode [0x21, 0x80, 0x00, 0x32, 0x7F, 0x00, 0x40, 0x06, 0x10, 0x00, 0x00, 0x00, 0xFF] = .ok (.bri h0 .lt (s 25) 100 16, 12) := by decide +kernel

theorem witness_StepRunsTheDecodedInstruction :
    let w := State.reset.withFetchWord 64 0x0010_0013_2560_0120
    let i : Instr := .graft h0 0 (s 18) (s 19) 1
    let e : State := { world strand0 with issuing := false }
    let line (t : Strand) : Bool := match w.lineFor w.cur t with
      | .error _ => false
      | .ok x => x.2.x && decide (decode (natToBytes (32 - t.pc.toNat % 32)
          (x.2.data.toNat / 2 ^ (8 * (t.pc.toNat % 64)) % 2 ^ (8 * (32 - t.pc.toNat % 32)))) = .ok (i, 8))
    ((w.strand w.cur).any fun t => decide (t.start = none ∧ t.denied = none ∧ t.pc.toNat % 4 = 0 ∧ t.pc.toNat % 32 ≤ 24 ∧
      regionOf t.pc = .paged ∧ t.permit = true) && line t) = true ∧ w.issuing = true ∧
    e.ready = true ∧ ({ e with freeCtr := e.freeCtr + 1 } : State).urgentEvents.findSome? ({ e with freeCtr := e.freeCtr + 1 } : State).moveOf = none ∧
    e.patience = 0 ∧ e.duty = [] ∧ ({ e with freeCtr := e.freeCtr + 1, patience := 3 } : State).moves ≠ [] := by decide +kernel

/-- The same of a strand that begins: its entry page is translated, and it passes the checks of its start. -/
theorem witness_StepRunsTheDecodedInstruction_begins :
    let t := { strand0 with start := some ⟨true, none, none, false⟩ }
    ∃ s2 t2, (world t).begin_ ⟨.core 0, 0⟩ t ⟨true, none, none, false⟩ = .ok (s2, t2) ∧ t2.denied = none ∧ t2.pc = 0x10000 ∧ t2.permit = true := by
  refine ⟨_, _, rfl, ?_, ?_, ?_⟩ <;> decide +kernel

/-! ### One step of the spec's worked examples -/

/-- The value that a register gets from a step of core 0's strand: at once, or at its writeback. -/
def gets (d : Fin 32) (o : Host.Outcome State Fault Refusal) : Option Word :=
  match o with
  | .next s =>
    (s.strand ⟨.core 0, 0⟩).bind fun t => match (t.sreg d).late with
      | none => some (t.rdS d)
      | some i => (t.lates.find? fun x => x.id == i).bind fun x => match x.val with
        | .s w => some w
        | _ => none
  | _ => none

/-- The flags that a step leaves. -/
def flagsAfter (o : Host.Outcome State Fault Refusal) : Option (BitVec 5) :=
  match o with
  | .next s => (s.strand ⟨.core 0, 0⟩).map fun t => t.lates.foldl (fun f x => f ||| x.flags) t.fflags
  | _ => none

/-- Registers 1 and 2 hold a and b. -/
def ab (a b : Word) : State := world (regs strand0 [(1, a), (2, b)])

def r1 : ISrc := .s 1 false
def r2 : IB := .reg (.s 2 false)

-- R151's table of worked cases
theorem test_div : gets 5 (exec (.div h0 false (.s 5) r1 r2) (ab (-7) 2)) = some (-3) := by decide +kernel
theorem test_div_overflow : gets 5 (exec (.div h0 false (.s 5) r1 r2) (ab 0x8000000000000000 (-1))) = some 0x8000000000000000 := by decide +kernel
theorem test_div_w : gets 5 (exec (.div h0 true (.s 5) r1 r2) (ab 0x80000000 (-1))) = some 0xFFFFFFFF80000000 := by decide +kernel
theorem test_rem : gets 5 (exec (.rem h0 false (.s 5) r1 r2) (ab (-7) 2)) = some (-1) := by decide +kernel
theorem test_divu_zero : gets 5 (exec (.divu h0 true (.s 5) r1 r2) (ab 5 0)) = some 0xFFFFFFFFFFFFFFFF := by decide +kernel
theorem test_remu_zero : gets 5 (exec (.remu h0 false (.s 5) r1 r2) (ab 5 0)) = some 5 := by decide +kernel

-- R152 and R154's examples
theorem test_extu : gets 17 (exec (.extu h0 false (.s 17) r1 (.imm (4 + 7 * 64))) (ab 0x12345 0)) = some 0x34 := by decide +kernel
theorem test_sub_w : gets 19 (exec (.sub h0 true (.s 19) (.s 0 false) (.reg (.s 1 false))) (ab 0x34 0)) = some 0xFFFFFFFFFFFFFFCC := by decide +kernel
theorem test_ext : gets 17 (exec (.ext h0 false (.s 17) r1 (.imm 0x2C8)) (ab 0xABC00 0)) = some 0xFFFFFFFFFFFFFABC := by decide +kernel

-- R181's example: −2.75e9 as F64 to I32 under RTZ; INV is set
theorem test_ftoi : gets 5 (exec (.ftoi h0 .f64 .rtz .i32 5 (s 1)) (ab 0xC1E47D3578000000 0)) = some 0xFFFFFFFF80000000 := by decide +kernel
theorem test_ftoi_flags :
    (flagsAfter (exec (.ftoi h0 .f64 .rtz .i32 5 (s 1)) (ab 0xC1E47D3578000000 0))) = some fInv := by decide +kernel

/-- A vector of equal or listed 32-bit lanes. -/
def lanes32 (l : List Nat) : Vec := BitVec.ofNat 512 (l.foldr (fun x a => x + 2 ^ 32 * a) 0)

-- R173's example: F32 sum of 2^24, 1, 1, 1 in lanes 0 to 3, the other lanes masked off
theorem test_vred :
    gets 5 (exec (.vred h0 .f32 1 .add 5 (v 1)) (world ((strand0.wrV 1 (lanes32 [0x4B800000, 0x3F800000, 0x3F800000, 0x3F800000, 5])).wrK 1 15)))
      = some 0x4B800001 := by decide +kernel

-- R174's example: 12.0, 5.0, −2.5, 0.5, −0.1, 3.2 as a block of BX4, its scale 2.0
def bx4Source : State :=
  world (strand0.wrV 1 (lanes32 [0x41400000, 0x40A00000, 0xC0200000, 0x3F000000, 0xBDCCCCCD, 0x404CCCCD]))

theorem test_vqnt_scale :
    (match exec (.vqntBlock h0 true 1 5 (v 1) (v 2)) bx4Source with
    | .next t => (t.strand t.cur).map fun u => laneGet 32 (u.rdV 5) 1
    | _ => none) = some 0x40000000 := by decide +kernel
theorem test_vqnt_elements :
    (match exec (.vqntBlock h0 false 0 5 (v 1) (v 2)) bx4Source with
    | .next t => (t.strand t.cur).map fun u => (laneGet 8 (u.rdV 5) 0, laneGet 8 (u.rdV 5) 1, laneGet 8 (u.rdV 5) 2)
    | _ => none) = some (0x47, 0x0A, 0x38) := by decide +kernel

-- R76's example: 14 indices on six launch cores; core 4 takes 4 and then 10
theorem test_pinned_indices :
    let l := { launch0 with
      pkt := { packet0 with pinned := true, n := 14 }, cores := [(0, 0), (1, 1), (2, 2), (32, 256), (33, 257), (34, 258)], next := [] }
    l.nextIdx 4 = some 4 ∧ ({ l with next := [(4, 10)] } : Launch).nextIdx 4 = some 10 ∧ l.nextIdx 2 = some 2 := by decide +kernel

/-- The pc of core 0's strand after a step. -/
def pcAfter (o : Host.Outcome State Fault Refusal) : Option Word :=
  match o with
  | .next s => (s.strand ⟨.core 0, 0⟩).map Strand.pc
  | _ => none

-- R137, R138: targets are pc + 4 × SExt(offset); a call saves the return address in the new window's i7
theorem test_branch_back :
    pcAfter (exec (.br h0 .ne (s 1) (s 0) 0xFFA) (world { regs strand0 [(1, 1)] with pc := 0x10100 })) = some 0x100E8 := by decide +kernel
theorem test_jmp : pcAfter (exec (.jmp h0 16) (ab 0 0)) = some 0x10040 := by decide +kernel
theorem test_call : gets 31 (exec (.call h0 16) (ab 0 0)) = some 0x1000C := by decide +kernel

-- from reset, the word of GRAFT that the spec prints is placed, fetched and run
theorem test_placed_step : pcAfter (step (State.reset.withFetchWord 64 0x0010_0013_2560_0120)) = some 8 := by decide +kernel

-- R364: reset's state is in canonical form
theorem test_reset_canonical : State.reset.canonical = true := by decide +kernel

end Sys2Proof.Tests
end

section
/-! Class 0: what the conditions of R137 test, how a transfer of R135 ends where R87 passes, and with them branches, jumps, GRAFT and the
instructions with no effect. -/
namespace Sys2Proof.Machine

/-! ### Conditions (R106, R137): one equation per code -/

@[simp] theorem condOf_eq (x y : Word) : condOf .eq x y = decide (x = y) := beq_eq_decide x y
@[simp] theorem condOf_ne (x y : Word) : condOf .ne x y = decide (x ≠ y) := by simp [condOf, bne, beq_eq_decide]
@[simp] theorem condOf_lt (x y : Word) : condOf .lt x y = decide (x.toInt < y.toInt) := rfl
@[simp] theorem condOf_ge (x y : Word) : condOf .ge x y = decide (y.toInt ≤ x.toInt) := by
  simp [condOf, BitVec.slt, ← decide_not]
@[simp] theorem condOf_ltu (x y : Word) : condOf .ltu x y = decide (x.toNat < y.toNat) := rfl
@[simp] theorem condOf_geu (x y : Word) : condOf .geu x y = decide (y.toNat ≤ x.toNat) := by
  simp [condOf, BitVec.ult, ← decide_not]

@[simp] theorem bkOf_any (x y : Word) : bkOf .any x y = decide (x &&& y ≠ 0) := by simp [bkOf, bne, beq_eq_decide]
@[simp] theorem bkOf_all (x y : Word) : bkOf .all x y = decide (x &&& y = y) := beq_eq_decide _ _
@[simp] theorem bkOf_none (x y : Word) : bkOf .none x y = decide (x &&& y = 0) := beq_eq_decide _ _

/-! ### Transfers (R135, R136) -/

section
variable {s : State} {t : Strand} {o : Op} {target : Word}

/-- A word offset leaves a target as aligned as the pc (R135). -/
theorem relative_aligned {pc : Word} (off : Word) (h : pc.toNat % 4 = 0) : (pc + off * 4).toNat % 4 = 0 := by
  bv_omega

theorem Env.jump_of_reaches (hr : s.reaches t target = true) (ha : target.toNat % 4 = 0) :
    (s.env t o).jump target = .ok (s.taken, (t.atIssue o.h).consumed o.srcs, .to target) := by
  have ht : (s.env t o).s.transfer (s.env t o).c (s.env t o).o target = .ok () := transfer_ok_of_reaches hr
  simp only [Env.jump, Env.jumpOk, ha, ht]
  rfl

theorem Env.fall_of_reaches (hr : s.reaches t (t.pc + BitVec.ofNat 64 (o.h.after o.len)) = true) :
    (s.env t o).fall = .ok (s.taken, (t.atIssue o.h).consumed o.srcs, .seq) := by
  have ht : (s.env t o).s.transfer (s.env t o).c (s.env t o).o (s.env t o).ret = .ok () := transfer_ok_of_reaches hr
  simp only [Env.fall, ht]
  rfl

/-- An instruction whose whole meaning is a transfer to `target`. -/
theorem issue_jump {dest : Env → Word} (h : s.admits t o = true) (ht : dest (s.env t o) = target) (hr : s.reaches t target = true)
    (ha : target.toNat % 4 = 0) : issue o (fun e => e.jump (dest e)) s = .next (s.finish t o id (.to target)) :=
  issue_finish h (f := id) (by rw [ht]; exact Env.jump_of_reaches hr ha)

/-- A branch: to `target` where `cond` holds, and otherwise in line, each under R87. -/
theorem issue_branch {cond : Env → Bool} {dest : Env → Word} {taken : Bool} (hc : cond (s.env t o) = taken) (ht : dest (s.env t o) = target)
    (h : s.admits t o = true ∧ s.reaches t (if taken then target else t.pc + BitVec.ofNat 64 (o.h.after o.len)) = true ∧
      (taken = true → target.toNat % 4 = 0)) :
    issue o (fun e => if cond e then e.jump (dest e) else e.fall) s = .next (s.finish t o id (if taken then .to target else .seq)) := by
  obtain ⟨hadm, hr, ha⟩ := h
  refine issue_finish hadm (f := id) ?_
  rw [hc, ht]
  cases taken with
  | true => exact Env.jump_of_reaches hr (ha rfl)
  | false => exact Env.fall_of_reaches hr

end

/-- Settles O2: each branch is `issue_branch` with its condition read by `condOf` or `bkOf`, and each jump is `issue_jump`. -/
theorem branchesAndJumps : Obligations.BranchesAndJumps := by
  unfold Obligations.BranchesAndJumps
  refine ⟨?_, ?_⟩
  · intro s t h c q a b ka kb imm off off32 t0 near far go passes cond test
    have hcond (x y : Word) : condOf c x y = cond x y := by cases c <;> simp [cond]
    have htest (x y : Word) : bkOf q x y = test x y := by cases q <;> simp [test]
    exact ⟨issue_branch (hcond _ _) rfl, issue_branch (hcond _ _) rfl, issue_branch (htest _ _) rfl⟩
  · intro s t h a off off32
    exact ⟨fun hadm hr ha => issue_jump hadm rfl hr (relative_aligned _ ha), fun hadm hr ha => issue_jump hadm rfl hr ha⟩

/-! ### No effect (R113, R143, R148) and GRAFT (R145) -/

/-- An instruction that does nothing of its own completes in line. -/
theorem issue_noEffect {s : State} {t : Strand} {o : Op} (h : s.admits t o = true) :
    issue o (fun e => .ok (e.s, e.w, .seq)) s = .next (s.finish t o id .seq) :=
  issue_finish h rfl

/-- What is left of the address space above a base, as the integers say it. -/
theorem roomAbove_eq (n : Nat) : (max 0 (2 ^ 55 - (n : Int))).toNat = 2 ^ 55 - n := by omega

/-- Settles O1: NOP, GATE and the live-mask word are `issue_noEffect`; GRAFT changes the strand only. -/
theorem noEffectAndGraft : Obligations.NoEffectAndGraft := by
  unfold Obligations.NoEffectAndGraft
  refine ⟨?_, ?_⟩
  · intro s t h bits
    exact ⟨fun hadm => ⟨issue_noEffect hadm, issue_noEffect hadm⟩, fun hadm => issue_noEffect hadm⟩
  · intro s t h d a b r o base len hadm
    have hlen : len = min ((t.atIssue h).gS b).toNat (2 ^ 55 - base.toNat) := congrArg (min _) (roomAbove_eq _)
    rw [hlen]
    show execGraft h d a b r s = _
    exact issue_finish hadm rfl

end Sys2Proof.Machine
end

section
/-! Class 2: instructions that set no flag, how an instruction of one operand completes (R170, R176), and the classes of the binary formats
(R180). -/
namespace Sys2Proof.Machine

/-- FFLAGS is as before when the flags that join it are none. -/
theorem State.finish_noFlags {s : State} {t : Strand} {o : Op} {f : Strand → Strand} {g : Go} (hf : ∀ u, (f u).fflags = u.fflags) :
    s.finish t o (fun u => { f u with fflags := u.fflags ||| 0 }) g = s.finish t o f g := by
  have hu (u : Strand) : { f u with fflags := u.fflags ||| 0 } = f u := by
    rw [← hf u]
    exact congrArg (fun x => { f u with fflags := x }) BitVec.or_zero
  simp only [hu]

/-! ### Instructions of one operand (R170, R176) -/

/-- A class-2 instruction of one operand completes: D takes the result, and its flags join FFLAGS. -/
theorem fOp1_of_admits {s : State} {t : Strand} {h : Hd} {F : Fmt} {g : Nat → FRes} {d : Fin 32} {a : SSrc} {r : FRes}
    (hr : g (((t.atIssue h).rdS a.r).toNat % 2 ^ F.width) = r) (ha : s.admits t (op h 8 (SSrc.src a)) = true) :
    fOp1 F g h d a s = .next (s.finish t (op h 8 (SSrc.src a))
      (fun u => { u.wrS d (BitVec.ofNat 64 r.bits) with fflags := u.fflags ||| r.flags }) .seq) := by
  subst hr
  exact issue_finish ha rfl

/-- The same where it sets no flag. -/
theorem fOp1_of_admits_noFlags {s : State} {t : Strand} {h : Hd} {F : Fmt} {g : Nat → FRes} {d : Fin 32} {a : SSrc} {v : Nat}
    (hr : g (((t.atIssue h).rdS a.r).toNat % 2 ^ F.width) = ⟨v, 0⟩) (ha : s.admits t (op h 8 (SSrc.src a)) = true) :
    fOp1 F g h d a s = .next (s.finish t (op h 8 (SSrc.src a)) (fun u => u.wrS d (BitVec.ofNat 64 v)) .seq) :=
  (fOp1_of_admits hr ha).trans (congrArg Host.Outcome.next (State.finish_noFlags fun u => Strand.setSreg_fflags u _ _))

/-! ### Classes (R180) -/

/-- The bit that FCLASS sets for an encoding of a binary format. -/
def Fmt.classBit (F : Fmt) (x : Nat) : Nat :=
  let neg : Bool := decide (2 ^ (F.ew + F.fw) ≤ x)
  let ex := x / 2 ^ F.fw % 2 ^ F.ew
  let fr := x % 2 ^ F.fw
  if ex = 2 ^ F.ew - 1 then (if fr = 0 then (if neg then 0 else 7) else if fr < 2 ^ (F.fw - 1) then 8 else 9)
  else if ex = 0 then (if fr = 0 then (if neg then 3 else 4) else if neg then 2 else 5)
  else if neg then 1 else 6

/-- The highest bit of an encoding is its sign. -/
theorem signOf_eq_decide {F : Fmt} {x : Nat} (hx : x < 2 ^ F.width) :
    (x / 2 ^ (F.ew + F.fw) % 2 == 1) = decide (2 ^ (F.ew + F.fw) ≤ x) := by
  have hpos := Nat.two_pow_pos (F.ew + F.fw)
  have hlt : x / 2 ^ (F.ew + F.fw) < 2 := by
    rw [Nat.div_lt_iff_lt_mul hpos, Nat.mul_comm, ← Nat.pow_succ]
    rwa [Fmt.width, Nat.add_assoc, Nat.add_comm] at hx
  have hle : x / 2 ^ (F.ew + F.fw) = 1 ↔ 2 ^ (F.ew + F.fw) ≤ x := by
    rw [← Nat.one_le_div_iff hpos]; omega
  rw [Nat.mod_eq_of_lt hlt, beq_eq_decide, decide_eq_decide, hle]

/-- FCLASS's mask has one bit, that of the class. -/
theorem Fmt.classMask_eq {F : Fmt} {x : Nat} (hF : F.kind = .ieee) (hx : x < 2 ^ F.width) : F.classMask x = 2 ^ F.classBit x := by
  simp only [Fmt.classMask, Fmt.value, Fmt.classBit, Fmt.emax, hF, signOf_eq_decide hx]
  have hfr : x % 2 ^ F.fw < 2 ^ F.fw := Nat.mod_lt _ (Nat.two_pow_pos F.fw)
  -- the largest exponent: infinities and NaNs; the exponent 0: zeros and subnormals; any other: normals
  by_cases hmax : x / 2 ^ F.fw % 2 ^ F.ew = 2 ^ F.ew - 1
  · by_cases hz : x % 2 ^ F.fw = 0
    · simp only [hmax, hz, if_true]; split <;> rfl
    · have hsig : x % 2 ^ F.fw / 2 ^ (F.fw - 1) = 0 ↔ x % 2 ^ F.fw < 2 ^ (F.fw - 1) := by
        simp [Nat.div_eq_zero_iff]
      simp only [hmax, hz, if_true, if_false, beq_iff_eq, hsig]; split <;> rfl
  · by_cases hex : x / 2 ^ F.fw % 2 ^ F.ew = 0
    · simp only [if_neg hmax, if_pos hex, hfr, if_true]
      by_cases hz : x % 2 ^ F.fw = 0
      · simp only [hz, if_true]; split <;> rfl
      · simp only [hz, if_false]; split <;> rfl
    · have hnz : 2 ^ F.fw + x % 2 ^ F.fw ≠ 0 := by omega
      have hnorm : ¬ 2 ^ F.fw + x % 2 ^ F.fw < 2 ^ F.fw := by omega
      simp only [if_neg hmax, if_neg hex, if_neg hnz, if_neg hnorm]; split <;> rfl

/-- FCLASS completes: D takes the mask of its operand's class. -/
theorem execFclass_of_admits {s : State} {t : Strand} {h : Hd} {f : FFmt} {d : Fin 32} {a : SSrc} {v : Nat}
    (hv : (fmtOfF f).classMask (((t.atIssue h).rdS a.r).toNat % 2 ^ (fmtOfF f).width) = v) (ha : s.admits t (op h 8 (SSrc.src a)) = true) :
    execFclass h f d a s = .next (s.finish t (op h 8 (SSrc.src a)) (fun u => u.wrS d (BitVec.ofNat 64 v)) .seq) := by
  subst hv
  exact fOp1_of_admits_noFlags rfl ha

/-- Settles O11: `classMask_eq`, the class-2 formats being binary formats of R157; no flag joins FFLAGS. -/
theorem floatClasses : Obligations.FloatClasses := by
  unfold Obligations.FloatClasses
  intro s t h f d a o F x neg ex fr cls ha
  have hF : F.kind = .ieee := by cases f <;> rfl
  have hcls : F.classMask x = 2 ^ cls := Fmt.classMask_eq hF (Nat.mod_lt _ (Nat.two_pow_pos _))
  exact execFclass_of_admits hcls ha

end Sys2Proof.Machine
end

section
/-! Class 4 but for memory: what a lane reads of a merged and of a packed vector (R182), and with it the compares, selections and moves of
lanes (R185, R186). -/
namespace Sys2Proof.Machine

/-! ### Lanes of a merge (R182) -/

theorem testBit_laneGet (w : Nat) (v : Vec) (i j : Nat) : (laneGet w v i).testBit j = (decide (j < w) && v.getLsbD (w * i + j)) := by
  simp [laneGet, Nat.testBit_mod_two_pow, Nat.testBit_div_two_pow, BitVec.getLsbD, Nat.add_comm]

theorem laneGet_lt (w : Nat) (v : Vec) (i : Nat) : laneGet w v i < 2 ^ w := Nat.mod_lt _ (Nat.two_pow_pos w)

@[simp] theorem laneGet_mod (w : Nat) (v : Vec) (i : Nat) : laneGet w v i % 2 ^ w = laneGet w v i := Nat.mod_mod _ _

/-- The bits of lane i of width w. -/
def laneBits (w i : Nat) : Vec := BitVec.ofNat 512 ((2 ^ w - 1) * 2 ^ (w * i))

theorem getLsbD_laneBits (w i p : Nat) : (laneBits w i).getLsbD p = (decide (p < 512) && decide (w * i ≤ p ∧ p < w * i + w)) := by
  rw [laneBits, BitVec.getLsbD_ofNat, Nat.testBit_mul_two_pow, Nat.testBit_two_pow_sub_one, ← Bool.decide_and]
  congr 2
  rw [eq_iff_iff]
  omega

/-- Bit b of lane j is in lane i only when i is j. -/
theorem lane_bit_iff {w i j b : Nat} (hb : b < w) : (w * i ≤ w * j + b ∧ w * j + b < w * i + w) ↔ j = i := by
  constructor
  · rintro ⟨hle, hlt⟩
    have hlo : w * i < w * (j + 1) := by rw [Nat.mul_succ]; omega
    have hhi : w * j < w * (i + 1) := by rw [Nat.mul_succ]; omega
    have := Nat.lt_of_mul_lt_mul_left hlo
    have := Nat.lt_of_mul_lt_mul_left hhi
    omega
  · rintro rfl; omega

/-- Replacing lane i replaces that lane and leaves every other. -/
theorem laneGet_replace (w : Nat) (new a : Vec) (i j : Nat) :
    laneGet w (new &&& laneBits w i ||| a &&& ~~~laneBits w i) j = if j = i then laneGet w new j else laneGet w a j := by
  refine Nat.eq_of_testBit_eq fun b => ?_
  rw [apply_ite fun n => Nat.testBit n b]
  simp only [testBit_laneGet, BitVec.getLsbD_or, BitVec.getLsbD_and, BitVec.getLsbD_not, getLsbD_laneBits]
  by_cases hb : b < w
  · simp only [lane_bit_iff hb]
    by_cases hp : w * j + b < 512
    · rcases eq_or_ne j i with rfl | hj
      · simp [hp]
      · simp [hj, hp]
    · simp [hp, BitVec.getLsbD_of_ge _ _ (Nat.le_of_not_lt hp)]
  · simp [hb]

/-- One lane of a merge. -/
def mergeStep (w : Nat) (mask : BitVec 64) (new a : Vec) (i : Nat) : Vec :=
  if mask.getLsbD i then new &&& laneBits w i ||| a &&& ~~~laneBits w i else a

theorem mergeLanes_eq_foldl (w : Nat) (mask : BitVec 64) (new old : Vec) :
    mergeLanes w mask new old = (List.range (512 / w)).foldl (mergeStep w mask new) old := rfl

theorem laneGet_mergeStep (w : Nat) (mask : BitVec 64) (new a : Vec) (i j : Nat) :
    laneGet w (mergeStep w mask new a i) j = if j = i ∧ mask.getLsbD j then laneGet w new j else laneGet w a j := by
  unfold mergeStep
  by_cases hj : j = i
  · subst hj; split <;> simp [*, laneGet_replace]
  · split <;> simp [hj, laneGet_replace]

theorem laneGet_foldl_mergeStep (w : Nat) (mask : BitVec 64) (new : Vec) (j : Nat) (is : List Nat) (old : Vec) :
    laneGet w (is.foldl (mergeStep w mask new) old) j = if j ∈ is ∧ mask.getLsbD j then laneGet w new j else laneGet w old j := by
  induction is generalizing old with
  | nil => simp
  | cons i is ih =>
    rw [List.foldl_cons, ih, laneGet_mergeStep]
    rcases eq_or_ne j i with rfl | hi
    · split <;> simp_all
    · simp [hi]

/-- The active lanes of a merge are the new vector's, the others the old one's. -/
theorem laneGet_mergeLanes {w : Nat} {mask : BitVec 64} {new old : Vec} {i : Nat} (hi : i < 512 / w) :
    laneGet w (mergeLanes w mask new old) i = if mask.getLsbD i then laneGet w new i else laneGet w old i := by
  simp [mergeLanes_eq_foldl, laneGet_foldl_mergeStep, hi]

/-! ### Lanes of a packed list -/

/-- Digits of width w, the least first, as one number. -/
def packed (w : Nat) (xs : List Nat) : Nat := xs.foldr (fun x n => x % 2 ^ w + 2 ^ w * n) 0

theorem vecOf_eq_packed (w : Nat) (xs : List Nat) : vecOf w xs = BitVec.ofNat 512 (packed w xs) := rfl

theorem packed_digit (w : Nat) (xs : List Nat) (i : Nat) : packed w xs / 2 ^ (w * i) % 2 ^ w = xs.getD i 0 % 2 ^ w := by
  induction xs generalizing i with
  | nil => simp [packed]
  | cons x xs ih =>
    have hcons : packed w (x :: xs) = x % 2 ^ w + 2 ^ w * packed w xs := rfl
    cases i with
    | zero => simp [hcons]
    | succ i =>
      have hlow : (x % 2 ^ w + 2 ^ w * packed w xs) / 2 ^ w = packed w xs := by
        rw [Nat.add_mul_div_left _ _ (Nat.two_pow_pos w), Nat.div_eq_of_lt (Nat.mod_lt _ (Nat.two_pow_pos w)), Nat.zero_add]
      rw [hcons, Nat.mul_succ, Nat.add_comm (w * i), Nat.pow_add, ← Nat.div_div_eq_div_mul, hlow, ih, List.getD_cons_succ]

/-- A lane within the register is not cut by its 512 bits. -/
theorem laneGet_ofNat {w i : Nat} (n : Nat) (hi : i < 512 / w) : laneGet w (BitVec.ofNat 512 n) i = n / 2 ^ (w * i) % 2 ^ w := by
  have hfit : w * i + w ≤ 512 := by
    have := Nat.mul_le_of_le_div w (i + 1) 512 hi
    rwa [Nat.add_mul, Nat.one_mul, Nat.mul_comm] at this
  refine Nat.eq_of_testBit_eq fun b => ?_
  rw [testBit_laneGet, BitVec.getLsbD_ofNat, Nat.testBit_mod_two_pow, Nat.testBit_div_two_pow, Nat.add_comm b]
  by_cases hb : b < w
  · simp [hb, show w * i + b < 512 by omega]
  · simp [hb]

theorem laneGet_vecOf {w i : Nat} (xs : List Nat) (hi : i < 512 / w) : laneGet w (vecOf w xs) i = xs.getD i 0 % 2 ^ w := by
  rw [vecOf_eq_packed, laneGet_ofNat _ hi, packed_digit]

theorem lanesOf_getD {w i : Nat} (v : Vec) (hi : i < 512 / w) : (lanesOf w v).getD i 0 = laneGet w v i := by
  simp [lanesOf, List.getD_eq_getElem?_getD, hi]

theorem lanesOf_length (w : Nat) (v : Vec) : (lanesOf w v).length = 512 / w := by simp [lanesOf]

/-- The lanes of a vector packed again with one lane replaced. -/
theorem laneGet_vecOf_set {w i x : Nat} (v : Vec) (j : Nat) (hi : i < 512 / w) (hx : x < 2 ^ w) :
    laneGet w (vecOf w ((lanesOf w v).set j x)) i = if i = j then x else laneGet w v i := by
  rw [laneGet_vecOf _ hi]
  rcases eq_or_ne i j with rfl | hj
  · simp [List.getD_eq_getElem?_getD, lanesOf_length, hi, Nat.mod_eq_of_lt hx]
  · rw [if_neg hj, ← laneGet_mod w v, ← lanesOf_getD v hi]
    simp [List.getD_eq_getElem?_getD, List.getElem?_set_ne hj.symm]

/-! ### Lane operations (R182, R184) -/

/-- The flags of a lane operation depend on its lanes' flags alone. -/
theorem laneFlags_map (mask : Word) (f : Nat → FRes) (is : List Nat) :
    laneFlags mask (is.map f) = is.zipIdx.foldl (fun a p => if mask.getLsbD p.2 then a ||| (f p.1).flags else a) 0 := by
  rw [laneFlags, List.zipIdx_map, List.foldl_map]
  rfl

theorem laneFlags_map_eq_zero {mask : Word} {f : Nat → FRes} {is : List Nat} (hf : ∀ i, (f i).flags = 0) :
    laneFlags mask (is.map f) = 0 := by
  simp [laneFlags_map, hf]

section
variable {s : State} {t : Strand} {h : Hd} {e : ETy} {k : Fin 8} {d : Fin 32} {srcs : Srcs}

/-- A lane operation completes: D's active lanes take its results, the others keep what they held, and the active lanes' flags join
FFLAGS. -/
theorem vLanes_of_admits (f : Env → Nat → FRes) (ha : s.admits t (opW h 8 (srcs ++ mergeSrc k d) d) = true) :
    ∃ v : Vec,
      vLanes e h k d srcs f s = .next (s.finish t (opW h 8 (srcs ++ mergeSrc k d) d) (fun u => { u.wrV d v with
        fflags := u.fflags ||| laneFlags ((t.atIssue h).rdK k)
          ((List.range e.lanes).map (f (s.env t (opW h 8 (srcs ++ mergeSrc k d) d)))) }) .seq) ∧
      ∀ i, i < e.lanes → laneGet e.width v i =
        if ((t.atIssue h).rdK k).getLsbD i then (f (s.env t (opW h 8 (srcs ++ mergeSrc k d) d)) i).bits % 2 ^ e.width
        else laneGet e.width ((t.atIssue h).rdV d) i := by
  refine ⟨_, issue_finish ha rfl, fun i hi => ?_⟩
  rw [laneGet_mergeLanes hi, laneGet_vecOf _ hi]
  simp [State.env, opW, List.getD_eq_getElem?_getD, hi]

/-- A lane operation that sets no flag changes D alone. -/
theorem vLanes_of_admits_noFlags {f : Env → Nat → FRes} {r : Nat → Nat} (hf : ∀ env i, (f env i).flags = 0)
    (hr : ∀ i, (f (s.env t (opW h 8 (srcs ++ mergeSrc k d) d)) i).bits % 2 ^ e.width = r i)
    (ha : s.admits t (opW h 8 (srcs ++ mergeSrc k d) d) = true) :
    ∃ v : Vec,
      vLanes e h k d srcs f s = .next (s.finish t (opW h 8 (srcs ++ mergeSrc k d) d) (fun u => u.wrV d v) .seq) ∧
      ∀ i, i < e.lanes → laneGet e.width v i =
        if ((t.atIssue h).rdK k).getLsbD i then r i else laneGet e.width ((t.atIssue h).rdV d) i := by
  obtain ⟨v, hv, hl⟩ := vLanes_of_admits (e := e) f ha
  have h0 (mask : Word) : laneFlags mask ((List.range e.lanes).map (f (s.env t (opW h 8 (srcs ++ mergeSrc k d) d)))) = 0 :=
    laneFlags_map_eq_zero (hf _)
  refine ⟨v, ?_, fun i hi => ?_⟩
  · rw [hv, h0]
    exact congrArg Host.Outcome.next (State.finish_noFlags fun _ => rfl)
  · rw [hl i hi, hr]

end

/-! ### Compares of lanes (R185) -/

theorem width_bounds (e : ETy) : 0 < e.width ∧ e.width ≤ 64 := by cases e <;> decide

/-- The signed reading of w bits is that of the bit vector. -/
theorem sgn_eq_toInt {w a : Nat} (hw : 0 < w) (ha : a < 2 ^ w) : sgn w a = (BitVec.ofNat w a).toInt := by
  obtain ⟨n, rfl⟩ := Nat.exists_eq_add_of_lt hw
  rw [BitVec.toInt_eq_toNat_cond, BitVec.toNat_ofNat, Nat.mod_eq_of_lt ha, sgn]
  simp only [Nat.zero_add, Nat.add_sub_cancel, Nat.pow_succ] at ha ⊢
  push_cast
  split <;> split <;> omega

theorem widen_eq_signExtend {w : Nat} (hw : 0 < w) (a : Nat) : widen w a = (BitVec.ofNat w a).signExtend 64 := by
  have hmod : BitVec.ofNat w (a % 2 ^ w) = BitVec.ofNat w a := BitVec.eq_of_toNat_eq (by simp)
  rw [widen, sgn_eq_toInt hw (Nat.mod_lt _ (Nat.two_pow_pos w)), hmod]
  rfl

/-- Sign extension keeps the order of the unsigned readings. -/
theorem toNat_signExtend_le_iff {w v : Nat} (hwv : w ≤ v) (x y : BitVec w) :
    (x.signExtend v).toNat ≤ (y.signExtend v).toNat ↔ x.toNat ≤ y.toNat := by
  have hpow : 2 ^ w ≤ 2 ^ v := Nat.pow_le_pow_right (by decide) hwv
  rw [BitVec.toNat_signExtend, BitVec.toNat_signExtend, BitVec.toNat_setWidth_of_le hwv, BitVec.toNat_setWidth_of_le hwv,
    BitVec.msb_eq_decide, BitVec.msb_eq_decide]
  simp only [decide_eq_true_eq]
  have := x.isLt
  have := y.isLt
  split <;> split <;> omega

theorem signExtend_inj {w v : Nat} (hwv : w ≤ v) (x y : BitVec w) : x.signExtend v = y.signExtend v ↔ x = y := by
  rw [BitVec.toNat_eq, BitVec.toNat_eq, Nat.le_antisymm_iff, Nat.le_antisymm_iff, toNat_signExtend_le_iff hwv, toNat_signExtend_le_iff hwv]

/-- An integer compare of lanes is the condition of R106 on the lanes as scalars. -/
theorem fnSet_eq_condOf {w a b : Nat} (q : Cond) (hw : 0 < w) (hw64 : w ≤ 64) (ha : a < 2 ^ w) (hb : b < 2 ^ w) :
    fnSet q w a b = (condOf q ((BitVec.ofNat w a).signExtend 64) ((BitVec.ofNat w b).signExtend 64)).toNat := by
  have hnat {c : Nat} (hc : c < 2 ^ w) : (BitVec.ofNat w c).toNat = c := by rw [BitVec.toNat_ofNat, Nat.mod_eq_of_lt hc]
  have heq : (BitVec.ofNat w a).signExtend 64 = (BitVec.ofNat w b).signExtend 64 ↔ a = b := by
    rw [signExtend_inj hw64, BitVec.toNat_eq, hnat ha, hnat hb]
  cases q with
  | eq => simp [fnSet, heq]
  | ne => simp [fnSet, heq]
  | lt => simp [fnSet, sgn_eq_toInt hw, ha, hb, BitVec.toInt_signExtend_of_le hw64]
  | ge => simp [fnSet, sgn_eq_toInt hw, ha, hb, BitVec.toInt_signExtend_of_le hw64]
  | ltu => simp [fnSet, lt_iff_lt_of_le_iff_le (toNat_signExtend_le_iff hw64 _ _), hnat ha, hnat hb]
  | geu => simp [fnSet, toNat_signExtend_le_iff hw64, hnat ha, hnat hb]

theorem fmtOfE_of_isInt {e : ETy} (nx : Bool) (h : e.isInt = true) : fmtOfE nx e = none := by
  cases e <;> simp_all [ETy.isInt, fmtOfE]

theorem cmpLane_int_flags {e : ETy} (nx : Bool) (c : BitVec 3) (a b : Nat) (h : e.isInt = true) : (cmpLane e nx c a b).flags = 0 := by
  rw [cmpLane, fmtOfE_of_isInt nx h]
  cases Cond.ofCode c.toNat <;> rfl

theorem cmpLane_int {e : ETy} {nx : Bool} {c : BitVec 3} {q : Cond} (a b : Nat) (h : e.isInt = true) (hq : Cond.ofCode c.toNat = some q) :
    cmpLane e nx c a b = ⟨fnSet q e.width a b, 0⟩ := by
  rw [cmpLane, fmtOfE_of_isInt nx h, hq]

theorem cmpLane_float {e : ETy} {nx : Bool} {c : BitVec 3} {F : Fmt} {q : FCond} (a b : Nat) (hF : fmtOfE nx e = some F)
    (hq : FCond.ofCode c.toNat = some q) : cmpLane e nx c a b = ⟨(F.cond q a b).1.toNat, (F.cond q a b).2⟩ := by
  rw [cmpLane, hF, hq]

/-- The bits that VCMP gathers from the lowest n lanes. -/
def gathered (n : Nat) (f : Nat → FRes) : Nat := ((List.range n).map f).foldr (fun r n => r.bits % 2 + 2 * n) 0

theorem gathered_eq_packed (n : Nat) (f : Nat → FRes) : gathered n f = packed 1 ((List.range n).map fun i => (f i).bits) := by
  simp [gathered, packed, List.foldr_map]

theorem testBit_gathered (n : Nat) (f : Nat → FRes) (i : Nat) : (gathered n f).testBit i = decide (i < n ∧ (f i).bits % 2 = 1) := by
  have hdigit := packed_digit 1 ((List.range n).map fun i => (f i).bits) i
  rw [Nat.one_mul, pow_one] at hdigit
  rw [Nat.testBit_eq_decide_div_mod_eq, gathered_eq_packed, hdigit]
  by_cases hi : i < n <;> simp [List.getD_eq_getElem?_getD, hi]

/-- A condition as a bit, and back. -/
theorem decide_toNat_mod_two (b : Bool) : decide (b.toNat % 2 = 1) = b := by cases b <;> rfl

/-- An active lane's bit of a gathered compare. -/
theorem getLsbD_gathered {n i : Nat} {f : Nat → FRes} {mask : Word} (hi : i < n) (hm : mask.getLsbD i = true) :
    (BitVec.ofNat 64 (gathered n f) &&& mask).getLsbD i = decide ((f i).bits % 2 = 1) := by
  have h64 := BitVec.lt_of_getLsbD hm
  rw [BitVec.getLsbD_and, BitVec.getLsbD_ofNat, testBit_gathered]
  simp [hi, hm, h64]

theorem getLsbD_gathered_inactive {n i : Nat} {f : Nat → FRes} {mask : Word} (h : n ≤ i ∨ mask.getLsbD i = false) :
    (BitVec.ofNat 64 (gathered n f) &&& mask).getLsbD i = false := by
  rw [BitVec.getLsbD_and, BitVec.getLsbD_ofNat, testBit_gathered]
  rcases h with hi | hm
  · simp [Nat.not_lt.mpr hi]
  · simp [hm]

/-! ### Lanes as scalars (R186) -/

theorem laneScalar_of_lt {e : ETy} {x : Nat} (hx : x < 2 ^ e.width) :
    laneScalar e x = if e.isInt then (BitVec.ofNat e.width x).signExtend 64 else BitVec.ofNat 64 x := by
  rw [laneScalar, widen_eq_signExtend (width_bounds e).1, Nat.mod_eq_of_lt hx]

/-! ### Moves and compares (R185, R186): how each completes -/

section
variable {s : State} {t : Strand} {h : Hd} {e : ETy} {k : Fin 8}

/-- VIOTA with a k destination completes: the mask of L bits. -/
theorem execViota_k_of_admits {kd : Fin 8} (ha : s.admits t (op h 8 (msrc k)) = true) :
    execViota h e k (.k kd) s = .next (s.finish t (op h 8 (msrc k)) (fun u => u.wrK kd (BitVec.ofNat 64 (2 ^ e.lanes - 1))) .seq) := by
  unfold execViota
  exact issue_finish ha rfl

/-- VEXT completes: the lane that B selects, as a scalar. -/
theorem execVext_of_admits {d : Fin 32} {a : VSrc} {j : SB} (ha : s.admits t (opV h 8 (VSrc.src a ++ SB.src j)) = true) :
    execVext h e d a j s = .next (s.finish t (opV h 8 (VSrc.src a ++ SB.src j)) (fun u => u.wrS d
      (laneScalar e (laneGet e.width ((t.atIssue h).rdV a.r) (((t.atIssue h).gSB j).toNat % e.lanes)))) .seq) :=
  issue_finish ha rfl

/-- VINS completes: D with A in the lane that B selects. -/
theorem execVins_of_admits {d : Fin 32} {a : SSrc} {j : SB}
    (ha : s.admits t (opW h 8 (SSrc.src a ++ SB.src j ++ [(.v d, false)]) d) = true) :
    execVins h e d a j s = .next (s.finish t (opW h 8 (SSrc.src a ++ SB.src j ++ [(.v d, false)]) d) (fun u => u.wrV d
      (vecOf e.width ((lanesOf e.width ((t.atIssue h).rdV d)).set (((t.atIssue h).gSB j).toNat % e.lanes)
        (((t.atIssue h).rdS a.r).toNat % 2 ^ e.width)))) .seq) :=
  issue_finish ha rfl

/-- VCMP completes: D takes the conditions of the active lanes, 0 elsewhere, and the active lanes' flags join FFLAGS. -/
theorem execVcmp_of_admits {c : BitVec 3} {d : Fin 8} {a b : VSrc}
    (ha : s.admits t (opV h 8 (VSrc.src a ++ VSrc.src b ++ msrc k)) = true) (lane : Nat → FRes)
    (hlane : ∀ i, lane i = cmpLane e t.nx c (laneGet e.width ((t.atIssue h).rdV a.r) i) (laneGet e.width ((t.atIssue h).rdV b.r) i)) :
    execVcmp h e k c d a b s = .next (s.finish t (opV h 8 (VSrc.src a ++ VSrc.src b ++ msrc k)) (fun u =>
      { u.wrK d (BitVec.ofNat 64 (gathered e.lanes lane) &&& (t.atIssue h).rdK k) with
        fflags := u.fflags ||| laneFlags ((t.atIssue h).rdK k) ((List.range e.lanes).map lane) }) .seq) := by
  obtain rfl := funext hlane
  exact issue_finish ha rfl

end

/-- Settles O15: the moves are `vLanes_of_admits_noFlags`, VINS is `laneGet_vecOf_set`, and VCMP's bits are read by `getLsbD_gathered` and
`cmpLane`'s equations. -/
theorem vectorMovesAndCompares : Obligations.VectorMovesAndCompares := by
  unfold Obligations.VectorMovesAndCompares
  intro s t h e k q cc d kd a b c x j t0 w ln on at_ lanes
  have hat : (t0.gSB j).toNat % e.lanes = at_ := by cases j <;> rfl
  refine ⟨?vsel, ?vbcast, ?vperm, ?viota, ?viotaK, ?vext, ?vins, ?vcmp⟩
  case vsel =>
    refine vLanes_of_admits_noFlags (fun _ _ => rfl) fun i => ?_
    exact (laneGet_mod _ _ _).trans (apply_ite (laneGet w · i) _ _ _)
  case vbcast => exact vLanes_of_admits_noFlags (fun _ _ => rfl) fun _ => Nat.mod_mod _ _
  case vperm => exact vLanes_of_admits_noFlags (fun _ _ => rfl) fun _ => laneGet_mod _ _ _
  case viota => exact vLanes_of_admits_noFlags (fun _ _ => rfl) fun _ => rfl
  case viotaK => exact execViota_k_of_admits
  case vext =>
    intro ha
    rw [← hat, ← laneScalar_of_lt (laneGet_lt w _ _)]
    exact execVext_of_admits ha
  case vins =>
    intro ha
    refine ⟨_, execVins_of_admits ha, fun i hi => ?_⟩
    rw [← hat]
    exact laneGet_vecOf_set _ _ hi (Nat.mod_lt _ (Nat.two_pow_pos w))
  case vcmp =>
    intro ha
    refine ⟨_, _, execVcmp_of_admits ha _ fun _ => rfl, fun i hi => getLsbD_gathered_inactive hi, ?int, ?float⟩
    case int =>
      intro he
      refine ⟨laneFlags_map_eq_zero fun _ => cmpLane_int_flags _ _ _ _ he, fun hq i hi hm => ?_⟩
      obtain ⟨hw, hw64⟩ := width_bounds e
      rw [getLsbD_gathered hi hm, cmpLane_int _ _ he hq, fnSet_eq_condOf q hw hw64 (laneGet_lt w _ _) (laneGet_lt w _ _)]
      exact decide_toNat_mod_two _
    case float =>
      intro F fc hF hq
      refine ⟨?_, fun i hi hm => ?_⟩
      · simp only [laneFlags_map, cmpLane_float _ _ hF hq]
        rfl
      · rw [getLsbD_gathered hi hm, cmpLane_float _ _ hF hq]
        exact decide_toNat_mod_two _

end Sys2Proof.Machine
end
